-- ==== Sys2Proof/Word.lean ====
section
/-!
DEFINITION. The word types of the QK-960. Sizes are those of 00 R5 and 06 R157; every multi-byte quantity is
little-endian (00 R4), which is decided in Sys2Proof/Machine/Bits.lean.
-/
namespace Sys2Proof

/-- A byte of memory, register space, queue entries and packets. -/
abbrev Byte := BitVec 8

/-- A 32-bit parcel of program text (06 R157). -/
abbrev Parcel := BitVec 32

/-- A 64-bit S register, CSR, program counter or queue entry. -/
abbrev Word := BitVec 64

/-- A 72-bit virtual address: region in [71:64], offset in [63:0] (07 R196). -/
abbrev VAddr := BitVec 72

/-- One ACC96 element of the accumulator region (11 R308). -/
abbrev Acc := BitVec 96

/-- An agent that runs words: 0 to 63 are the tile cores, 64 is Brass and 65 is Bronze, the numbers that the CSR
COREID reads on each (14 R392). -/
abbrev CoreId := Fin 66

/-- One of the 16 compute islands (01 R13). -/
abbrev IslandId := Fin 16

/-- The PCI Express functions: 0 is physical and 1 to 15 are virtual (02 R41, 03 R73). -/
abbrev FuncId := Fin 16

/-- One of the 1,024 contexts (02 R41). -/
abbrev ContextId := Fin 1024

end Sys2Proof
end

