-- ==== Sys2Proof/Config.lean ====
section
/-!
DEFINITION. What an implementation fixes, and the values that the specification leaves open. Each constant is opaque: no
proof can see what it is, so a statement that holds, holds whatever the value is. The first argument of the free values
is the counter State.freeCtr, which every use advances.
-/
namespace Sys2Proof.Config

/-- A byte that the specification leaves open (10 R294, R303). -/
opaque freeByte : Nat → Nat → Byte

/-- A choice of one of two values that the specification allows both (06 R177, R185). -/
opaque freeBool : Nat → Nat → Bool

/-- A choice of one of several values that the specification allows all, for a location of memory (08 R240). -/
opaque freeIndex : Nat → Nat → Nat

/-- HMAC-SHA-256 of a key over a message (01 R32). -/
opaque hmac : List Byte → List Byte → List Byte

/-- SHA-256 of a message: the measurement of an image (01 R31). -/
opaque measure : List Byte → List Byte

/-- Whether the flash record of this number passes the boot ROM's checks of signatures and certificates: an image, the
thermal contract or the part record (01 R26, R29, R31). -/
opaque verifies : Nat → List Byte → Bool

/-- The unique device secret that the PUF and its helper data give, none when reconstruction fails (01 R32, R36). -/
opaque deviceSecret : List Byte → Option (List Byte)

/-- The image of layer 0, in the boot ROM (01 R31). -/
opaque bootRom : List Byte

/-- The public key that layer n derives from its CDI (01 R33). -/
opaque layerKey : Nat → List Byte → List Byte

/-- The fields of the part record, whose format the specification leaves open: the die serial number and the fence mask
of each core (01 R29). -/
opaque partFields : List Byte → Nat × (Nat → Nat)

/-- The part record's voltage trim of an island at an operating point, in mV (01 R29). -/
opaque partTrim : List Byte → Nat → Nat → Int

/-- The part record's training seeds of the memory controllers (01 R29). -/
opaque partSeeds : List Byte → List Byte

/-- What a fault of a firmware context leaves in its pc, which counts as register 64, and its registers: how layer 3 goes
on is the firmware's own (03 R94). -/
opaque firmwareReg : Nat → List Word → Nat → Word

/-- What layer 2 answers to an attestation request: the certificate chain of the layers' keys and the signed
measurements, with WBASE and WSIZE of each slot, over the nonce (01 R33; 03 R77). -/
opaque evidence : List (List Byte) → List (List Byte) → List (Nat × Nat) → List Byte → List Byte

end Sys2Proof.Config
end

