-- ==== Sys2Proof/Syntax.lean ====
section
/-!
DEFINITION. The steps of the QK-960: one constructor for each row of spec/opcode_table.json. The first and the
last groups are the hardware and host events of the table, with what an event carries as arguments; the others
are the words of the five instruction streams and the shared control words (13 R351 to R365), with the fields
that their encodings leave free. The order of the constructors carries no meaning.
-/
namespace Sys2Proof

/-- What the always-on domain reads from the connector's sense lines at reset (01 R19). -/
inductive Connector
  | absent | w150 | w300 | w450 | w600
  deriving DecidableEq, Repr

/-- Who issues a register write: a function of the host, or a dispatch core (02 R42, 07 R524). -/
inductive Writer
  | host (f : FuncId)
  | dispatch
  deriving DecidableEq, Repr

/-- The PCI Express AtomicOps that the host port completes (02 R39). -/
inductive HostAtomicOp
  | fetchAdd | swap | cas
  deriving DecidableEq, Repr

/-- A request to the host that may time out (02 R51, 01 R38). release is the zero-length read that follows a write to
host memory. -/
inductive Requester
  | mailbox
  | load (c : CoreId) (k : Nat)
  | atomic (c : CoreId)
  | release (c : CoreId)
  | job (n : Nat)
  | sample (n : Nat)
  deriving DecidableEq, Repr

/-- The kinds of page walk (07 R203). -/
inductive WalkKind
  | read | write | atomic | fetch
  deriving DecidableEq, Repr

/-- A message of the bridge that asks for an atomic (02 R58, R59), or, with watch, for the compare and the registration
of a WAITA of the core, whose expected value is compare; with withdraw the core waits there no more (09 R257, R271;
DESIGN CHOICE 105). -/
structure BridgeAtomic where
  pa      : Nat
  op      : BitVec 4
  cas     : Bool
  wide    : Bool
  signal  : Bool
  operand : Word
  compare : Word
  core    : Fin 64
  watch   : Bool
  withdraw : Bool
  deriving DecidableEq, Repr

/-- The fields of a V-word other than its tag and opcode, which together are all of its bits (13 R359). -/
structure VFields where
  fmt    : BitVec 4
  count  : BitVec 12
  sat    : Bool
  rnd    : BitVec 2
  masked : Bool
  vd     : BitVec 9
  sd     : BitVec 7
  va     : BitVec 9
  sa     : BitVec 7
  vb     : BitVec 9
  sb     : BitVec 7
  k      : BitVec 3
  fmt2   : BitVec 4
  imm    : BitVec 9
  deriving DecidableEq, Repr

/-- The fields of an M-word other than its tag, opcode and reserved bits (13 R361). mt, nt and kt hold Mt − 1,
Nt − 1 and Kt − 1. -/
structure MFields where
  unpin  : Bool
  sig    : Bool
  rmask  : Bool
  acc    : Bool
  tok    : BitVec 4
  mt     : BitVec 8
  nt     : BitVec 9
  kt     : BitVec 10
  aSlice : BitVec 6
  aCol   : Bool
  aOff   : BitVec 16
  aLd    : BitVec 16
  bSlice : BitVec 6
  bLay   : Bool
  bOff   : BitVec 16
  bLd    : BitVec 16
  cIdx   : BitVec 19
  cStr   : BitVec 11
  deriving DecidableEq, Repr

/-- The fields of a P-word other than its tag, opcode and reserved bits (13 R363). A bank reference holds the bank
in [12:9] and the entry in [8:0]. -/
structure PFields where
  mode  : BitVec 4
  shape : BitVec 15
  ops   : BitVec 7
  dst   : BitVec 13
  wb    : BitVec 13
  l0 : BitVec 13
  l1 : BitVec 13
  l2 : BitVec 13
  l3 : BitVec 13
  l4 : BitVec 13
  l5 : BitVec 13
  l6 : BitVec 13
  l7 : BitVec 13
  deriving DecidableEq, Repr

/-- One step of the part: a word of a stream, or an event (spec/opcode_table.json; 95). -/
inductive Instr
  -- Events that the part and its firmware raise themselves (01 to 05, 07 to 10, 12, 15 to 18).
  | doorbellForward (core : Fin 64)
  | collectiveChunk (ctag : BitVec 16) (chunk : Nat) (data : List Byte)
  | collectiveMatch (ctag : BitVec 16) (op fmt : Nat) (count : Nat)
  | launchPacket (x : ContextId)
  | armPacket (x : ContextId)
  | disarmPacket (x : ContextId)
  | firePacket (x : ContextId)
  | fencePacket (x : ContextId)
  | frequencyClassHoldEnd (k : Nat)
  | cconsWrite (x : ContextId) (v : BitVec 16)
  | kernelCompletion (kernel : Nat)
  | operatingPointSwitch (i : IslandId)
  | meterUnit (i : IslandId)
  | settle (k : Nat)
  | draw (c : Fin 64)
  | resume (c : Fin 64)
  | watchdog (c : Fin 64)
  | triggerReport (c : Fin 64)
  | taskEnd (c : Fin 64)
  | deadlock (c : Fin 64)
  | capture (c : CoreId)
  | yieldTimeout (c : Fin 64)
  | yieldSaveComplete (c : Fin 64)
  | selfTest (c : Fin 64)
  | selfTestEnd (c : Fin 64) (failed : BitVec 4)
  | pageWalk (c : CoreId) (va : VAddr) (kind : WalkKind)
  | invalidationComplete (c : CoreId)
  | sliceScrubDone (slice : Fin 64)
  | loadReturn (c : CoreId) (k : Nat)
  | storePerformed (c : CoreId) (k : Nat)
  | atomicPerformed (c : CoreId)
  | monitorSpuriousWake (c : CoreId)
  | vResultLand (c : Fin 64)
  | tileCommandEnd (c : Fin 64)
  | pWordLand (c : Fin 64)
  | engineJobStart (n : Nat)
  | jobCompletion (n : Nat)
  | samplerDraw (n : Nat)
  | governorBoundary (hot warm : BitVec 16)
  | dispatchHalt (flash : Bool)
  | mailboxOperationEnd (flashOk : Bool)
  | latchmapClear (c : Fin 64)
  -- S-words: integer operations (14 R380 to R382).
  | add (d a b : Fin 64)
  | sub (d a b : Fin 64)
  | and (d a b : Fin 64)
  | or (d a b : Fin 64)
  | xor (d a b : Fin 64)
  | sll (d a b : Fin 64)
  | srl (d a b : Fin 64)
  | sra (d a b : Fin 64)
  | min (d a b : Fin 64)
  | max (d a b : Fin 64)
  | minn (d a b : Fin 64)
  | maxn (d a b : Fin 64)
  | clz (d a : Fin 64)
  | ctz (d a : Fin 64)
  | popc (d a : Fin 64)
  | mul (d a b : Fin 64)
  | mulh (d a b : Fin 64)
  | mulhn (d a b : Fin 64)
  | div (d a b : Fin 64)
  | divn (d a b : Fin 64)
  | rem (d a b : Fin 64)
  | remn (d a b : Fin 64)
  | addi (d a : Fin 64) (imm : BitVec 12)
  | andi (d a : Fin 64) (imm : BitVec 12)
  | ori (d a : Fin 64) (imm : BitVec 12)
  | xori (d a : Fin 64) (imm : BitVec 12)
  | slli (d a : Fin 64) (sh : BitVec 6)
  | srli (d a : Fin 64) (sh : BitVec 6)
  | srai (d a : Fin 64) (sh : BitVec 6)
  | liw (d : Fin 64) (imm : BitVec 18)
  | lis (d : Fin 64) (imm : BitVec 18)
  -- S-words: predicates, scalar local memory, queues, tokens, CSRs (14 R383 to R395).
  | cmp (p : Fin 8) (cc : BitVec 3) (a b : Fin 64)
  | cmpi (p : Fin 8) (cc : BitVec 3) (a : Fin 64) (imm : BitVec 12)
  | plog (d a b : Fin 8) (table : BitVec 4)
  | sel (d a b : Fin 64) (p : Fin 8)
  | lds (d a : Fin 64) (imm : BitVec 12)
  | sts (src a : Fin 64) (imm : BitVec 12)
  | ldarg (d : Fin 64) (n : BitVec 12)
  | qpush (src : Fin 64) (q : BitVec 5)
  | qpop (d : Fin 64) (q : BitVec 5)
  | qstat (d : Fin 64) (q : BitVec 5)
  | tsig (t : Fin 16)
  | twait (t : Fin 16)
  | csrr (d : Fin 64) (csr : BitVec 12)
  | csrw (d a : Fin 64) (csr : BitVec 12)
  | csrs (d a : Fin 64) (csr : BitVec 12)
  | csrc (d a : Fin 64) (csr : BitVec 12)
  | nestw (a b : Fin 64) (level : BitVec 3)
  | fmtpush (a : Fin 64)
  | evpop (d e : Fin 64)
  | evwait (d e : Fin 64)
  -- S-words: energy, traps, speculation and system mode (04 R124, 12 R340, 14 R396 to R402).
  | budget (d : Fin 64) (sel : BitVec 12)
  | joule (d : Fin 64) (sel : BitVec 12)
  | varsel (d a : Fin 64) (imm : BitVec 12)
  | trap (imm : BitVec 12)
  | rett
  | trigger
  | specon (j c : Fin 64) (n : BitVec 4)
  | speccommit (d a : Fin 64)
  | specabort
  | launch (d a b : Fin 64) (q : BitVec 6)
  | invr (a b : Fin 64) (allAsids : Bool) (kind : BitVec 2)
  | reclass (d a b : Fin 64)
  | haltc (d a : Fin 64) (off : Bool)
  -- Shared control words (13 R355).
  | nopx (streams : BitVec 4)
  | br (p : Fin 8) (neg : Bool) (off : BitVec 16)
  | loop (lc : Fin 4) (off : BitVec 16)
  | call (p : Fin 8) (neg : Bool) (off : BitVec 16)
  | calli (a : Fin 64)
  | ret (p : Fin 8) (neg : Bool)
  | yield (i : BitVec 16)
  | endw (p : Fin 8) (neg : Bool)
  -- A-words: addresses (15 R409 to R411).
  | anop
  | aadd (d b c : Fin 32)
  | aaddi (d b : Fin 32) (imm : BitVec 14)
  | asub (d b c : Fin 32)
  | ashadd (d b c : Fin 32) (sh : BitVec 6)
  | amovq (d b : Fin 32) (f : BitVec 2)
  | aregRead (d : Fin 32) (w : BitVec 2) (n : Fin 4)
  | aregWrite (b : Fin 32) (w : BitVec 2) (n : Fin 4)
  | amovi (d b : Fin 32) (r : BitVec 8)
  | areloc (d : Fin 32) (n : Fin 8)
  -- A-words: loads, stores and ordering (15 R415 to R420, 08 R227).
  | lq (q : BitVec 5) (b : Fin 32) (size : BitVec 3) (imm : BitVec 11)
  | lqs (q : BitVec 5) (b c : Fin 32) (strided : Bool) (size : BitVec 3)
  | lqg (q : BitVec 5) (b c : Fin 32) (size : BitVec 3)
  | sq (q : BitVec 5) (b : Fin 32) (size : BitVec 3) (imm : BitVec 11)
  | sqs (q : BitVec 5) (b c : Fin 32) (strided signal : Bool) (size : BitVec 3)
  | lx (d b : Fin 32) (size : BitVec 3) (imm : BitVec 11)
  | sx (src b : Fin 32) (size : BitVec 3) (imm : BitVec 11)
  | pref (level : BitVec 5) (b : Fin 32) (size : BitVec 3) (imm : BitVec 11)
  | append (q : BitVec 5) (w : BitVec 5) (size : BitVec 3)
  | mark
  | acq (scope : BitVec 3)
  | rel (scope : BitVec 3)
  | fence (scope : BitVec 3)
  -- A-words: atomics, monitors, rings, barriers, split counters (15 R421 to R426, 09).
  | amo (d b c : Fin 32) (signal wide : Bool) (op : BitVec 4)
  | acas (d b c : Fin 32) (signal wide : Bool)
  | red (b c : Fin 32) (signal wide : Bool) (op : BitVec 4)
  | waita (d b c : Fin 32) (wide : Bool)
  | rclaim (d b : Fin 32) (imm : BitVec 11)
  | rpub (src b : Fin 32) (imm : BitVec 11)
  | rwaitf (d b : Fin 32) (imm : BitVec 11)
  | rfree (b : Fin 32) (imm : BitVec 11)
  | rstatRead (d b : Fin 32) (imm : BitVec 11)
  | rstatSet (d b : Fin 32) (imm : BitVec 11)
  | barr (b : Fin 16)
  | bwait (b : Fin 16)
  | bexpect (a : Fin 32) (b : Fin 16)
  | brot
  | scdecWait (d b : Fin 32) (o : BitVec 12)
  | scdecTry (d b : Fin 32) (o : BitVec 12)
  | scdecRes (d b : Fin 32) (o : BitVec 12)
  | scinc (d b : Fin 32) (o : BitVec 12)
  | scrd (d b : Fin 32) (o : BitVec 12)
  | scrdx (d b : Fin 32) (o : BitVec 12)
  | scinit (d b : Fin 32) (o : BitVec 12)
  | job (b : Fin 32)
  | sample (b : Fin 32)
  | srpop (d : Fin 32) (f : Bool)
  -- V-words (16; 12 R346).
  | vadd (f : VFields)
  | vsub (f : VFields)
  | vmul (f : VFields)
  | vfma (f : VFields)
  | vfms (f : VFields)
  | vnfma (f : VFields)
  | vmin (f : VFields)
  | vmax (f : VFields)
  | vabs (f : VFields)
  | vneg (f : VFields)
  | vdiv (f : VFields)
  | vsqrt (f : VFields)
  | vrcp (f : VFields)
  | vrsq (f : VFields)
  | vexp2 (f : VFields)
  | vlog2 (f : VFields)
  | vtanh (f : VFields)
  | viadd (f : VFields)
  | visub (f : VFields)
  | vimul (f : VFields)
  | vimad (f : VFields)
  | vand (f : VFields)
  | vor (f : VFields)
  | vxor (f : VFields)
  | vnot (f : VFields)
  | vshl (f : VFields)
  | vshr (f : VFields)
  | vsra (f : VFields)
  | vcmp (f : VFields)
  | vsel (f : VFields)
  | kand (f : VFields)
  | kor (f : VFields)
  | kxor (f : VFields)
  | knot (f : VFields)
  | kpop (f : VFields)
  | vcvt (f : VFields)
  | vqcb (f : VFields)
  | vdq (f : VFields)
  | vpack (f : VFields)
  | vunpack (f : VFields)
  | vrsum (f : VFields)
  | vrmax (f : VFields)
  | vrmin (f : VFields)
  | vargmax (f : VFields)
  | vscan (f : VFields)
  | vperm (f : VFields)
  | vshuf (f : VFields)
  | vbcast (f : VFields)
  | viota (f : VFields)
  | vmov (f : VFields)
  | vtrans (f : VFields)
  | vsq (f : VFields)
  | vsetvlc (f : VFields)
  | vaccept (f : VFields)
  -- M-words (17).
  | mstep (f : MFields)
  | mnest (f : MFields)
  | mzero (f : MFields)
  | mdrain (f : MFields)
  | mscale (f : MFields)
  | mrowmask (f : MFields)
  | mtest (f : MFields)
  | mfence (f : MFields)
  | msig (f : MFields)
  | mwait (f : MFields)
  | mpin (f : MFields)
  | mpinUnpin (f : MFields)
  | mstat (f : MFields)
  -- P-words (18).
  | psub (f : PFields)
  | psubd (f : PFields)
  | pmaxp (f : PFields)
  | psum (f : PFields)
  | pload (f : PFields)
  | pstore (f : PFields)
  | pnorm (f : PFields)
  | pcvt (f : PFields)
  | pmode (f : PFields)
  | psig (f : PFields)
  | pwait (f : PFields)
  | pfence (f : PFields)
  -- Events that come from the host, the BMC, the peer, the sensors, the firmware and the power domain.
  | reset (conn : Connector)
  | bootLayerStart
  | droop (i : IslandId) (eighths : List (Fin 4))
  | thermalTrip (i : IslandId)
  | bmcPowerLimit (watts : Nat)
  | eccFatal (c : CoreId)
  | mailboxWrite (record : BitVec 4) (length : BitVec 32)
  | mailboxRead (record : BitVec 4) (length : BitVec 32)
  | mailboxReboot (hot : Bool)
  | hostCompletionTimeout (r : Requester)
  | hostLinkDown
  | functionLevelReset (f : FuncId)
  | commandWindowWrite (f : FuncId) (window off : Nat) (data : List Byte)
  | misrouteClear (f : FuncId)
  | overrunClear (f : FuncId) (window : Nat)
  | hostMemoryWrite (off : Nat) (data : List Byte) (relaxed : Bool)
  | hostMemoryRead (off n : Nat)
  | hostAtomic (op : HostAtomicOp) (off : Nat) (wide : Bool) (operand compare : Word)
  | bridgeTrained (wide : Bool) (peerSerial : Nat)
  | bridgeDown
  | flitReplay
  | bridgeLoadRequest (pa n : Nat)
  | bridgeLoadReply (c : CoreId) (k : Nat) (data : List Byte)
  | bridgeStore (core : Fin 64) (pa : Nat) (data : List Byte) (signal : Bool)
  | bridgeStoreAck (c : CoreId) (n : Nat)
  | bridgeAtomicRequest (m : BridgeAtomic)
  | bridgeAtomicReply (c : CoreId) (old : Word)
  | forwardedCommandPacket (packet : BitVec 512)
  | contextEnable (x : ContextId) (v : Word)
  | contextDisable (x : ContextId) (v : Word)
  | slotResidentClear (slot : Fin 64) (v : Word)
  | takeover
  | preemptAtBoundary (c : Fin 64)
  | preemptMidTask (c : Fin 64)
  | tqackPop
  | tqreplyRetry (agent : BitVec 7) (seq : BitVec 32)
  | tqreplyFail (agent : BitVec 7) (seq : BitVec 32)
  | sliceRelease (slice : Fin 64)
  | scunbind (obj : Fin 4096)
  | registerWrite (w : Writer) (off size : Nat) (v : Word)
  | bridgeRetrain
  | collectivePeerCancelled (ctag : BitVec 16)
  | forwardedPacketAcknowledged (core : Fin 64)
  | attestationRequest (nonce : List Byte)
  deriving DecidableEq, Repr

end Sys2Proof
end

