-- ==== Sys2Proof/WellFormed.lean ====
section
/-!
DEFINITION. Which words are instructions: every check that 13 R351 steps 1 and 2 makes on the fields of a word
(a reserved code, a field that the word does not use and that is not zero, a value beyond its stated limit). A word
that fails one of them faults with ILLEGAL-WORD. The bits that a layout fixes to zero are checked in Decode.
-/
namespace Sys2Proof

/-! ### Operand numbers of V-words (06 R180) -/

/-- A register operand, 0 to 319. -/
def isVReg (n : BitVec 9) : Bool := n.toNat < 320
/-- ql0 to ql7. -/
def isLoadQueue (n : BitVec 9) : Bool := 320 ≤ n.toNat && n.toNat < 328
/-- qs0 to qs3. -/
def isStoreQueue (n : BitVec 9) : Bool := 328 ≤ n.toNat && n.toNat < 332
/-- qb. -/
def isQb (n : BitVec 9) : Bool := n.toNat == 332

/-- A source operand of format fmt: a register, or a load queue or qb with step 0; ACC96 operands are registers
(06 R180). -/
def srcOk (fmt : Nat) (n : BitVec 9) (step : BitVec 7) : Bool :=
  isVReg n || ((isLoadQueue n || isQb n) && step == 0 && fmt != 13)

/-- A destination operand: a register, or a store queue with step 0 (06 R180). -/
def dstOk (fmt : Nat) (n : BitVec 9) (step : BitVec 7) : Bool :=
  isVReg n || (isStoreQueue n && step == 0 && fmt != 13)

/-- An operand that the word does not use: number and step zero (13 R359). -/
def unused (n : BitVec 9) (step : BitVec 7) : Bool := n == 0 && step == 0

namespace VFields

/-- MASKED is accepted: k is zero unless MASKED, and formats 5 to 7 refuse it (16 R442). -/
def maskOk (f : VFields) : Bool :=
  (f.masked || f.k == 0) && !(f.masked && (f.fmt == 5 || f.fmt == 6 || f.fmt == 7))
/-- MASKED and k are zero. -/
def noMask (f : VFields) : Bool := !f.masked && f.k == 0
/-- SAT is zero. -/
def noSat (f : VFields) : Bool := !f.sat
/-- The rounding field is zero. -/
def noRnd (f : VFields) : Bool := f.rnd == 0
/-- The second format and imm9 are zero. -/
def noExtra (f : VFields) : Bool := f.fmt2 == 0 && f.imm == 0
/-- The format field is one of l. -/
def fmtIn (f : VFields) (l : List Nat) : Bool := l.contains f.fmt.toNat
/-- va is a source and vb is not used. -/
def unary (f : VFields) : Bool := srcOk f.fmt.toNat f.va f.sa && unused f.vb f.sb
/-- va and vb are sources. -/
def binary (f : VFields) : Bool := srcOk f.fmt.toNat f.va f.sa && srcOk f.fmt.toNat f.vb f.sb
/-- vd is a destination. -/
def dst (f : VFields) : Bool := dstOk f.fmt.toNat f.vd f.sd

end VFields

/-- Formats with arithmetic in the V-stream that compare and reduce accept: 0, 1, 4, 8 and 9 to 12. -/
def fmtsOrdered : List Nat := [0, 1, 4, 8, 9, 10, 11, 12]
/-- The integer formats 4 and 9 to 12 (16 R448). -/
def fmtsInt : List Nat := [4, 9, 10, 11, 12]
/-- The formats of permutes, transposes and VSQ (16 R462 to R464). -/
def fmtsPerm : List Nat := [0, 1, 2, 3, 4, 8, 9, 10, 11, 12, 14]
/-- The formats of VSEL and VBCAST (16 R451, R461). -/
def fmtsCopy : List Nat := [0, 1, 2, 3, 4, 8, 9, 10, 11, 12, 13, 14]

/-- Bits of one element of a format; 4 for the block-scaled 4-bit codes (11 R306). -/
def fmtBits (fmt : Nat) : Nat :=
  match fmt with
  | 0 => 16 | 1 => 16 | 2 => 8 | 3 => 8 | 4 => 8 | 5 => 4 | 6 => 4 | 7 => 8 | 8 => 32 | 9 => 32
  | 10 => 16 | 11 => 8 | 12 => 32 | 13 => 96 | 14 => 32 | _ => 32

/-- Elements per segment, E (16 R440). -/
def elemsPerSeg (fmt : Nat) : Nat := if fmt == 13 then 64 else 2048 / fmtBits fmt

/-- The format pairs of VCVT, destination first (16 R453). -/
def cvtPairOk (fd fs : Nat) : Bool :=
  let plain := [0, 1, 2, 3, 4, 8, 9, 10, 11, 12]
  let acc := [0, 1, 2, 3, 8]
  (plain.contains fd && plain.contains fs && fd != fs)
    || (fd == 13 && acc.contains fs) || (fs == 13 && acc.contains fd)
    || (fd == 14 && (fs == 0 || fs == 8)) || (fs == 14 && (fd == 0 || fd == 8))

/-- The fields of a two-operand float word (16 R446). -/
def vFloat2 (fmts : List Nat) (f : VFields) : Bool :=
  f.fmtIn fmts && f.dst && f.binary && f.maskOk && f.noExtra
/-- The fields of a fused float word, which reads its destination (16 R446). -/
def vFloat3 (f : VFields) : Bool :=
  f.fmtIn [0, 1, 8] && isVReg f.vd && f.binary && f.maskOk && f.noExtra
/-- The fields of a one-operand float word (16 R446). -/
def vFloat1 (f : VFields) : Bool :=
  f.fmtIn [0, 1, 8] && f.dst && f.unary && f.maskOk && f.noExtra
/-- The fields of VMIN and VMAX (16 R447). -/
def vMinMax (f : VFields) : Bool :=
  f.fmtIn fmtsOrdered && f.dst && f.binary && f.maskOk && f.noExtra && f.noSat && f.noRnd
/-- The fields of VABS and VNEG (16 R447). -/
def vSign (f : VFields) : Bool :=
  f.fmtIn [0, 1, 8] && f.dst && f.unary && f.maskOk && f.noExtra && f.noSat && f.noRnd
/-- The fields of the integer words with SAT (16 R448). -/
def vInt2 (f : VFields) : Bool :=
  f.fmtIn fmtsInt && f.dst && f.binary && f.maskOk && f.noExtra && f.noRnd
/-- The fields of the shifts: a register count, or an immediate with imm9 [8] set (16 R449). -/
def vShift (f : VFields) : Bool :=
  f.fmtIn fmtsInt && f.dst && srcOk f.fmt.toNat f.va f.sa && f.maskOk && f.noSat && f.noRnd && f.fmt2 == 0
    && ((f.imm == 0 && srcOk f.fmt.toNat f.vb f.sb)
      || (f.imm.toNat / 32 == 8 && unused f.vb f.sb))
/-- The fields of VCMP (16 R450). -/
def vCmpOk (f : VFields) : Bool :=
  f.fmtIn fmtsOrdered && f.vd.toNat < 8 && f.sd == 0 && f.binary && f.maskOk && f.noSat && f.noRnd && f.fmt2 == 0
    && (if f.fmtIn [0, 1, 8] then decide (f.imm.toNat ≤ 6) else decide (f.imm.toNat ≤ 5))
/-- The fields of the mask words, with na sources used (16 R452). -/
def vMaskWord (sources : Nat) (hasDst : Bool) (f : VFields) : Bool :=
  f.fmt == 0 && f.noSat && f.noRnd && f.noMask && f.noExtra && f.count == 1
    && f.sd == 0 && f.sa == 0 && f.sb == 0
    && (if hasDst then decide (f.vd.toNat < 8) else f.vd == 0)
    && decide (f.va.toNat < 8) && (if sources == 2 then decide (f.vb.toNat < 8) else f.vb == 0)
/-- The fields of VCVT (16 R453). -/
def vCvtOk (f : VFields) : Bool :=
  cvtPairOk f.fmt.toNat f.fmt2.toNat && f.dst && srcOk f.fmt2.toNat f.va f.sa && unused f.vb f.sb
    && f.maskOk && f.imm == 0 && (f.fmt != 14 || f.noRnd)
/-- The fields common to the block-scaled moves (16 R454). -/
def vBlock (f : VFields) : Bool := f.noSat && f.noMask && f.imm == 0
/-- The fields of VPACK (16 R455). -/
def vPackOk (f : VFields) : Bool :=
  vBlock f && dstOk 8 f.vd f.sd && srcOk 8 f.va f.sa
    && ((f.fmt2 == 8 && (f.fmt == 5 || f.fmt == 7) && isVReg f.vb)
      || (f.fmt2 == 11 && (f.fmt == 5 || f.fmt == 6) && unused f.vb f.sb && f.noRnd))
/-- The fields of a reduction without rounding (16 R459). -/
def vReduce (f : VFields) : Bool :=
  f.fmtIn fmtsOrdered && f.dst && f.unary && f.maskOk && f.noExtra
/-- The fields of VSETVLC: the immediate form or the qb form (16 R465). -/
def vSetVlcOk (f : VFields) : Bool :=
  f.fmt == 0 && f.noSat && f.noRnd && f.noMask && f.fmt2 == 0 && unused f.vd f.sd && unused f.vb f.sb
    && f.sa == 0 && decide (f.imm.toNat ≤ 1)
    && ((f.count != 0 && f.va == 0) || (f.count == 0 && isQb f.va))

namespace MFields

/-- The Token field is zero unless SIG (17 R474). -/
def tokOk (f : MFields) : Bool := f.sig || f.tok == 0
/-- Mt, Nt and the C index are within their limits (13 R361). -/
def tile (f : MFields) : Bool := f.mt.toNat ≤ 191 && f.nt.toNat ≤ 383 && f.cIdx.toNat ≤ 349524
/-- The A fields are zero. -/
def noA (f : MFields) : Bool := f.aSlice == 0 && !f.aCol && f.aOff == 0 && f.aLd == 0
/-- The B fields are zero. -/
def noB (f : MFields) : Bool := f.bSlice == 0 && !f.bLay && f.bOff == 0 && f.bLd == 0
/-- The tile fields are zero. -/
def noTile (f : MFields) : Bool := f.mt == 0 && f.nt == 0 && f.cIdx == 0 && f.cStr == 0
/-- UNPIN, ACC and Kt are zero. -/
def noMul (f : MFields) : Bool := !f.unpin && !f.acc && f.kt == 0
/-- The A offset names a VWV register below 320 and the other A fields are zero (17 R479). -/
def aRegOnly (f : MFields) : Bool := f.aSlice == 0 && !f.aCol && f.aLd == 0 && decide (f.aOff.toNat < 320)

end MFields

/-- The fields of MSTEP and MNEST (17 R474, R477). -/
def mStepOk (f : MFields) : Bool := f.tile && f.tokOk
/-- The fields of MZERO (17 R479). -/
def mZeroOk (f : MFields) : Bool := f.tile && f.tokOk && f.noMul && f.noA && f.noB
/-- The fields of MSCALE (17 R479). -/
def mScaleOk (f : MFields) : Bool :=
  f.tile && f.tokOk && f.noMul && f.aRegOnly && f.bSlice == 0 && !f.bLay && f.bLd == 0 && decide (f.bOff.toNat < 320)
/-- The fields of MDRAIN: a staging destination or a register-space one (17 R480). -/
def mDrainOk (f : MFields) : Bool :=
  f.tile && f.tokOk && f.noMul && (if f.bLay then f.noA && f.bSlice == 0 else f.noB)
/-- The fields of MROWMASK and MSTAT (17 R482, R486). -/
def mRowOk (f : MFields) : Bool := f.noTile && f.tokOk && f.noMul && !f.rmask && f.aRegOnly && f.noB
/-- The fields of MTEST (17 R485). -/
def mTestOk (f : MFields) : Bool := f.noTile && f.tokOk && f.noMul && !f.rmask && f.noA && f.noB
/-- The fields of MSIG and MWAIT (17 R485). -/
def mTokOk (f : MFields) : Bool := f.noTile && !f.sig && f.noMul && !f.rmask && f.noA && f.noB
/-- The fields of MPIN; unpin tells its two rows apart (17 R483). -/
def mPinOk (unpin : Bool) (f : MFields) : Bool :=
  f.noTile && !f.sig && f.tok == 0 && !f.acc && f.kt == 0 && !f.rmask && !f.aCol && f.noB && f.unpin == unpin
    && (unpin || f.aLd != 0)

namespace PFields

/-- Leaf field i, for i below 8; zero above. -/
def leaf (f : PFields) (i : Nat) : BitVec 13 :=
  match i with
  | 0 => f.l0 | 1 => f.l1 | 2 => f.l2 | 3 => f.l3 | 4 => f.l4 | 5 => f.l5 | 6 => f.l6 | 7 => f.l7 | _ => 0

/-- Leaf fields n to 7 are zero. -/
def leavesFrom (f : PFields) (n : Nat) : Bool := (List.range 8).all fun i => i < n || f.leaf i == 0

/-- The count of a flat word, 1 to 8: shape [3:1] + 1 (18 R496). -/
def count (f : PFields) : Nat := f.shape.toNat % 8 + 1

/-- The shape field of a flat word holds only its count. -/
def flatShape (f : PFields) : Bool := f.shape.toNat < 8

/-- Every field other than mode, shape and destination is zero. -/
def noOperands (f : PFields) : Bool := f.ops == 0 && f.wb == 0 && f.leavesFrom 0

end PFields

/-- The preorder walk of a shape from its bit 14 downward (13 R363, 18 R494). It answers the internal nodes, the
leaves and the bits that follow the walk's end; none when the walk does not end. fuel is the number of bits left. -/
def shapeWalk (shape : BitVec 15) : (fuel internal leaves : Nat) → Option (Nat × Nat × Nat)
  | fuel, i, l =>
    if l == i + 1 then some (i, l, fuel)
    else match fuel with
      | 0 => none
      | fuel + 1 => if shape.getLsbD fuel then shapeWalk shape fuel (i + 1) l else shapeWalk shape fuel i (l + 1)

/-- The number of weighted-sum nodes: internal nodes whose node-operation bit is 0 (18 R494). -/
def weightedNodes (ops : BitVec 7) (internal : Nat) : Nat :=
  ((List.range internal).filter fun i => !ops.getLsbD i).length

/-- The ILLEGAL-WORD checks of a tree word (18 R494). -/
def pTreeOk (f : PFields) : Bool :=
  match shapeWalk f.shape 15 0 0 with
  | none => false
  | some (i, l, rest) =>
    f.shape.toNat % 2 ^ rest == 0 && f.ops.toNat / 2 ^ i == 0 && f.leavesFrom l && f.mode == 0
      && (weightedNodes f.ops i != 0 || f.wb == 0)
/-- The fields of PSUM (18 R496). -/
def pSumOk (f : PFields) : Bool :=
  f.mode.toNat ≤ 1 && f.flatShape && f.ops == 0 && f.leavesFrom f.count && (f.mode == 1 || f.wb == 0)
/-- The fields of PNORM (18 R499). -/
def pNormOk (f : PFields) : Bool :=
  f.mode == 0 && f.flatShape && f.ops == 0 && f.leavesFrom f.count && f.wb == 0
/-- A value format of the P-stream: BF16, FP32 or PS32 (18 R490). -/
def pFmtOk (m : BitVec 4) : Bool := m == 0 || m == 8 || m == 14
/-- The fields of PCVT (18 R500). -/
def pCvtOk (f : PFields) : Bool :=
  pFmtOk f.mode && f.flatShape && f.ops == 0 && f.leavesFrom f.count && f.wb == 0
/-- The fields of PLOAD and PSTORE (18 R498). -/
def pMoveOk (f : PFields) : Bool := f.mode.toNat ≤ 1 && f.shape == 0 && f.noOperands
/-- The fields of PSIG and PWAIT: the token in shape [15:12] (18 R501). -/
def pTokOk (f : PFields) : Bool := f.mode == 0 && f.shape.toNat % 2048 == 0 && f.dst == 0 && f.noOperands

/-! ### A-word fields -/

/-- The queues of LQ: ql0 to ql7, qas and qap (15 R415). -/
def lqQueue (q : BitVec 5) : Bool := q.toNat < 8 || q == 12 || q == 14
/-- The queues of SQ: qs0 to qs3, qsa and qpa (15 R415). -/
def sqQueue (q : BitVec 5) : Bool := (8 ≤ q.toNat && q.toNat < 12) || q == 13 || q == 15
/-- A queue of 64-bit entries, which refuses seg256 and strided accesses (15 R414, R416). -/
def narrowQueue (q : BitVec 5) : Bool := q == 12 || q == 13
/-- A size code 0 to 4 (13 R356), where a seg256 needs a 256-byte queue (15 R414). -/
def sizeOk (q : BitVec 5) (size : BitVec 3) : Bool := size.toNat ≤ 3 || (size == 4 && !narrowQueue q)

/-- The CSR numbers of 13 R365. -/
def csrNumbers : List Nat :=
  [0x000, 0x001, 0x002, 0x003, 0x010, 0x011, 0x012, 0x013, 0x014, 0x015, 0x016, 0x018, 0x019, 0x01A, 0x01B,
   0x020, 0x021, 0x030, 0x031, 0x032, 0x033, 0x034, 0x035, 0x038, 0x039, 0x03A, 0x03B, 0x03C, 0x03D]

/-- A CSR number that the map of 13 R365 assigns. -/
def csrOk (c : BitVec 12) : Bool := csrNumbers.contains c.toNat

/-- Steps 1 and 2 of 13 R351 on the fields of a word. Events carry no encoding and have nothing to check. -/
def Instr.wellFormed : Instr → Bool
  | .cmp _ cc _ _ => cc.toNat ≤ 5
  | .cmpi _ cc _ _ => cc.toNat ≤ 5
  | .ldarg _ n => n.toNat ≤ 5
  | .qpush _ q => q == 1 || q == 3
  | .qpop _ q => q == 0 || q == 2
  | .qstat _ q => q.toNat ≤ 8
  | .csrr _ c => csrOk c
  | .csrw _ _ c => csrOk c
  | .csrs _ _ c => csrOk c
  | .csrc _ _ c => csrOk c
  | .nestw _ _ l => l.toNat ≤ 5
  | .budget _ n => n.toNat ≤ 6
  | .joule _ n => n.toNat ≤ 3
  | .specon _ _ n => n != 0
  | .invr _ _ _ kind => kind != 0
  | .amovq d _ f => f == 0 || (f != 3 && d == 0)
  | .aregRead _ w _ => w != 3
  | .aregWrite _ w _ => w != 3
  | .lq q _ size _ => lqQueue q && sizeOk q size
  | .lqs q _ _ strided size => lqQueue q && sizeOk q size && !(strided && (size == 4 || narrowQueue q))
  | .lqg q _ _ size => (q.toNat < 8 || q == 14) && size.toNat ≤ 3
  | .sq q _ size _ => sqQueue q && sizeOk q size
  | .sqs q _ _ strided _ size => sqQueue q && sizeOk q size && !(strided && (size == 4 || narrowQueue q))
  | .lx _ _ size _ => size.toNat ≤ 3
  | .sx _ _ size _ => size.toNat ≤ 3
  | .pref level _ size _ => level.toNat ≤ 1 && size.toNat ≤ 4
  | .append q w size => ((8 ≤ q.toNat && q.toNat < 12) || q == 13) && w.toNat ≤ 3 && sizeOk q size
  | .acq s => s.toNat ≤ 4
  | .rel s => s.toNat ≤ 4
  | .fence s => s.toNat ≤ 4
  | .amo _ _ _ _ wide op => op.toNat ≤ 9 && !(op == 9 && wide)
  | .red _ _ _ wide op => op.toNat ≤ 9 && op != 4 && !(op == 9 && wide)
  | .vadd f => vFloat2 [0, 1, 8, 13] f
  | .vsub f => vFloat2 [0, 1, 8, 13] f
  | .vmul f => vFloat2 [0, 1, 8] f
  | .vfma f => vFloat3 f
  | .vfms f => vFloat3 f
  | .vnfma f => vFloat3 f
  | .vmin f => vMinMax f
  | .vmax f => vMinMax f
  | .vabs f => vSign f
  | .vneg f => vSign f
  | .vdiv f => vFloat2 [0, 1, 8] f
  | .vsqrt f => vFloat1 f
  | .vrcp f => vFloat1 f
  | .vrsq f => vFloat1 f
  | .vexp2 f => vFloat1 f
  | .vlog2 f => vFloat1 f
  | .vtanh f => vFloat1 f
  | .viadd f => vInt2 f
  | .visub f => vInt2 f
  | .vimul f => vInt2 f
  | .vimad f => vInt2 f && isVReg f.vd
  | .vand f => vInt2 f && f.noSat
  | .vor f => vInt2 f && f.noSat
  | .vxor f => vInt2 f && f.noSat
  | .vnot f => f.fmtIn fmtsInt && f.dst && f.unary && f.maskOk && f.noExtra && f.noSat && f.noRnd
  | .vshl f => vShift f
  | .vshr f => vShift f
  | .vsra f => vShift f
  | .vcmp f => vCmpOk f
  | .vsel f => f.fmtIn fmtsCopy && f.dst && f.binary && !f.masked && f.noSat && f.noRnd && f.noExtra
  | .kand f => vMaskWord 2 true f
  | .kor f => vMaskWord 2 true f
  | .kxor f => vMaskWord 2 true f
  | .knot f => vMaskWord 1 true f
  | .kpop f => vMaskWord 1 false f
  | .vcvt f => vCvtOk f
  | .vqcb f => vBlock f && f.fmt == 6 && f.fmt2 == 8 && f.noRnd && dstOk 8 f.vd f.sd && srcOk 8 f.va f.sa && isVReg f.vb
  | .vdq f => vBlock f && f.fmt == 8 && (f.fmt2 == 5 || f.fmt2 == 6 || f.fmt2 == 7) && dstOk 8 f.vd f.sd
      && srcOk 8 f.va f.sa && isVReg f.vb
  | .vpack f => vPackOk f
  | .vunpack f => vBlock f && f.fmt == 11 && (f.fmt2 == 5 || f.fmt2 == 6) && f.noRnd && f.dst && f.unary
  | .vrsum f => vReduce f
  | .vrmax f => vReduce f && f.noSat && f.noRnd
  | .vrmin f => vReduce f && f.noSat && f.noRnd
  | .vargmax f => vReduce f && f.noSat && f.noRnd
  | .vscan f => vReduce f
  | .vperm f => f.fmtIn fmtsPerm && f.dst && f.binary && !isQb f.vb && f.maskOk && f.noSat && f.noRnd && f.noExtra
  | .vshuf f => f.fmtIn fmtsPerm && f.dst && srcOk f.fmt.toNat f.va f.sa && f.maskOk && f.noSat && f.noRnd && f.fmt2 == 0
      && (let kind := f.imm.toNat % 8
          (kind ≤ 3 && f.imm.toNat < 8 && srcOk f.fmt.toNat f.vb f.sb) || (kind == 4 && f.imm.toNat < 8 && unused f.vb f.sb)
            || (kind == 5 && unused f.vb f.sb))
  | .vbcast f => f.fmtIn fmtsCopy && f.dst && f.unary && !isQb f.va && f.maskOk && f.noSat && f.noRnd && f.fmt2 == 0
      && f.imm.toNat < elemsPerSeg f.fmt.toNat
  | .viota f => f.fmtIn fmtsInt && f.dst && unused f.va f.sa && unused f.vb f.sb && f.maskOk && f.noRnd && f.fmt2 == 0
  | .vmov f => f.fmt != 15 && f.dst && f.unary && f.maskOk && f.noSat && f.noRnd && f.noExtra
  | .vtrans f => f.fmtIn fmtsPerm && f.dst && f.unary && f.noMask && f.noSat && f.noRnd && f.noExtra
  | .vsq f => f.fmtIn fmtsPerm && unused f.vd f.sd && f.unary && f.noMask && f.noSat && f.noRnd && f.fmt2 == 0
      && f.imm.toNat < elemsPerSeg f.fmt.toNat
  | .vsetvlc f => vSetVlcOk f
  | .vaccept f => (f.fmt == 9 || f.fmt == 12) && unused f.vd f.sd && f.unary && f.noMask && f.noSat && f.noRnd && f.noExtra
  | .mstep f => mStepOk f
  | .mnest f => mStepOk f
  | .mzero f => mZeroOk f
  | .mdrain f => mDrainOk f
  | .mscale f => mScaleOk f
  | .mrowmask f => mRowOk f
  | .mtest f => mTestOk f
  | .mfence f => mTestOk f
  | .msig f => mTokOk f
  | .mwait f => mTokOk f
  | .mpin f => mPinOk false f
  | .mpinUnpin f => mPinOk true f
  | .mstat f => mRowOk f
  | .psub f => pTreeOk f
  | .psubd f => pTreeOk f
  | .pmaxp f => pTreeOk f
  | .psum f => pSumOk f
  | .pload f => pMoveOk f
  | .pstore f => pMoveOk f
  | .pnorm f => pNormOk f
  | .pcvt f => pCvtOk f
  | .pmode f => pFmtOk f.mode && f.shape == 0 && f.dst == 0 && f.noOperands
  | .psig f => pTokOk f
  | .pwait f => pTokOk f
  | .pfence f => f.mode == 0 && f.shape == 0 && f.dst == 0 && f.noOperands
  | .reset .. | .bootLayerStart | .droop .. | .thermalTrip .. | .bmcPowerLimit .. | .eccFatal ..
  | .mailboxWrite .. | .mailboxRead .. | .mailboxReboot .. | .mailboxOperationEnd .. | .hostCompletionTimeout ..
  | .hostLinkDown | .functionLevelReset .. | .commandWindowWrite .. | .misrouteClear .. | .overrunClear ..
  | .hostMemoryWrite .. | .hostMemoryRead .. | .hostAtomic .. | .bridgeTrained .. | .bridgeDown | .flitReplay
  | .bridgeLoadRequest .. | .bridgeLoadReply .. | .bridgeStore .. | .bridgeStoreAck ..
  | .bridgeAtomicRequest .. | .bridgeAtomicReply .. | .forwardedCommandPacket .. | .doorbellForward ..
  | .collectiveChunk .. | .collectiveMatch .. | .launchPacket .. | .armPacket .. | .disarmPacket ..
  | .firePacket .. | .fencePacket .. | .frequencyClassHoldEnd .. | .contextEnable .. | .contextDisable ..
  | .slotResidentClear .. | .cconsWrite .. | .kernelCompletion .. | .takeover | .dispatchHalt ..
  | .governorBoundary .. | .operatingPointSwitch .. | .meterUnit .. | .settle .. | .draw .. | .resume ..
  | .watchdog .. | .triggerReport .. | .taskEnd .. | .deadlock .. | .capture .. | .yieldTimeout ..
  | .yieldSaveComplete .. | .preemptAtBoundary .. | .preemptMidTask .. | .tqackPop | .tqreplyRetry ..
  | .tqreplyFail .. | .latchmapClear .. | .selfTest .. | .selfTestEnd .. | .pageWalk ..
  | .invalidationComplete .. | .sliceRelease .. | .sliceScrubDone .. | .scunbind .. | .registerWrite ..
  | .loadReturn .. | .storePerformed .. | .atomicPerformed .. | .monitorSpuriousWake .. | .vResultLand ..
  | .tileCommandEnd .. | .pWordLand .. | .engineJobStart .. | .jobCompletion .. | .samplerDraw .. | .add ..
  | .sub .. | .and .. | .or .. | .xor .. | .sll .. | .srl .. | .sra .. | .min .. | .max .. | .minn ..
  | .maxn .. | .clz .. | .ctz .. | .popc .. | .mul .. | .mulh .. | .mulhn .. | .div .. | .divn .. | .rem ..
  | .remn .. | .addi .. | .andi .. | .ori .. | .xori .. | .slli .. | .srli .. | .srai .. | .liw .. | .lis ..
  | .plog .. | .sel .. | .lds .. | .sts .. | .tsig .. | .twait .. | .fmtpush .. | .evpop .. | .evwait ..
  | .varsel .. | .trap .. | .rett | .trigger | .speccommit .. | .specabort | .launch .. | .reclass ..
  | .haltc .. | .nopx .. | .br .. | .loop .. | .call .. | .calli .. | .ret .. | .yield .. | .endw .. | .anop
  | .aadd .. | .aaddi .. | .asub .. | .ashadd .. | .amovi .. | .areloc .. | .mark | .acas .. | .waita ..
  | .rclaim .. | .rpub .. | .rwaitf .. | .rfree .. | .rstatRead .. | .rstatSet .. | .barr .. | .bwait ..
  | .bexpect .. | .brot | .scdecWait .. | .scdecTry .. | .scdecRes .. | .scinc .. | .scrd .. | .scrdx ..
  | .scinit .. | .job .. | .sample .. | .srpop .. | .bridgeRetrain | .collectivePeerCancelled ..
  | .forwardedPacketAcknowledged .. | .attestationRequest .. => true

/-- The streams of a task, in the order in which they claim a shared fault (06 R160). -/
inductive Stream
  | s | a | v | m | p
  deriving DecidableEq, Repr

/-- What executes a step: a word of one stream, a shared control word of every stream, or no stream at all for an
event (06 R158; 95). -/
inductive InstrKind
  | event | word (st : Stream) | shared
  deriving DecidableEq, Repr

/-- The kind of each step (06 R158; 95). -/
def Instr.kind : Instr → InstrKind
  | .reset .. | .bootLayerStart | .droop .. | .thermalTrip .. | .bmcPowerLimit .. | .eccFatal ..
  | .mailboxWrite .. | .mailboxRead .. | .mailboxReboot .. | .mailboxOperationEnd .. | .hostCompletionTimeout ..
  | .hostLinkDown | .functionLevelReset .. | .commandWindowWrite .. | .misrouteClear .. | .overrunClear ..
  | .hostMemoryWrite .. | .hostMemoryRead .. | .hostAtomic .. | .bridgeTrained .. | .bridgeDown | .flitReplay
  | .bridgeLoadRequest .. | .bridgeLoadReply .. | .bridgeStore .. | .bridgeStoreAck ..
  | .bridgeAtomicRequest .. | .bridgeAtomicReply .. | .forwardedCommandPacket .. | .doorbellForward ..
  | .collectiveChunk .. | .collectiveMatch .. | .launchPacket .. | .armPacket .. | .disarmPacket ..
  | .firePacket .. | .fencePacket .. | .frequencyClassHoldEnd .. | .contextEnable .. | .contextDisable ..
  | .slotResidentClear .. | .cconsWrite .. | .kernelCompletion .. | .takeover | .dispatchHalt ..
  | .governorBoundary .. | .operatingPointSwitch .. | .meterUnit .. | .settle .. | .draw .. | .resume ..
  | .watchdog .. | .triggerReport .. | .taskEnd .. | .deadlock .. | .capture .. | .yieldTimeout ..
  | .yieldSaveComplete .. | .preemptAtBoundary .. | .preemptMidTask .. | .tqackPop | .tqreplyRetry ..
  | .tqreplyFail .. | .latchmapClear .. | .selfTest .. | .selfTestEnd .. | .pageWalk ..
  | .invalidationComplete .. | .sliceRelease .. | .sliceScrubDone .. | .scunbind .. | .registerWrite ..
  | .loadReturn .. | .storePerformed .. | .atomicPerformed .. | .monitorSpuriousWake .. | .vResultLand ..
  | .tileCommandEnd .. | .pWordLand .. | .engineJobStart .. | .jobCompletion .. | .samplerDraw ..
  | .bridgeRetrain | .collectivePeerCancelled .. | .forwardedPacketAcknowledged .. | .attestationRequest .. => .event
  | .add .. | .sub .. | .and .. | .or .. | .xor .. | .sll .. | .srl .. | .sra .. | .min .. | .max .. | .minn ..
  | .maxn .. | .clz .. | .ctz .. | .popc .. | .mul .. | .mulh .. | .mulhn .. | .div .. | .divn .. | .rem ..
  | .remn .. | .addi .. | .andi .. | .ori .. | .xori .. | .slli .. | .srli .. | .srai .. | .liw .. | .lis ..
  | .cmp .. | .cmpi .. | .plog .. | .sel .. | .lds .. | .sts .. | .ldarg .. | .qpush .. | .qpop .. | .qstat ..
  | .tsig .. | .twait .. | .csrr .. | .csrw .. | .csrs .. | .csrc .. | .nestw .. | .fmtpush .. | .evpop ..
  | .evwait .. | .budget .. | .joule .. | .varsel .. | .trap .. | .rett | .trigger | .specon ..
  | .speccommit .. | .specabort | .launch .. | .invr .. | .reclass .. | .haltc .. => .word .s
  | .nopx .. | .br .. | .loop .. | .call .. | .calli .. | .ret .. | .yield .. | .endw .. => .shared
  | .anop | .aadd .. | .aaddi .. | .asub .. | .ashadd .. | .amovq .. | .aregRead .. | .aregWrite .. | .amovi ..
  | .areloc .. | .lq .. | .lqs .. | .lqg .. | .sq .. | .sqs .. | .lx .. | .sx .. | .pref .. | .append ..
  | .mark | .acq .. | .rel .. | .fence .. | .amo .. | .acas .. | .red .. | .waita .. | .rclaim .. | .rpub ..
  | .rwaitf .. | .rfree .. | .rstatRead .. | .rstatSet .. | .barr .. | .bwait .. | .bexpect .. | .brot
  | .scdecWait .. | .scdecTry .. | .scdecRes .. | .scinc .. | .scrd .. | .scrdx .. | .scinit .. | .job ..
  | .sample .. | .srpop .. => .word .a
  | .vadd .. | .vsub .. | .vmul .. | .vfma .. | .vfms .. | .vnfma .. | .vmin .. | .vmax .. | .vabs ..
  | .vneg .. | .vdiv .. | .vsqrt .. | .vrcp .. | .vrsq .. | .vexp2 .. | .vlog2 .. | .vtanh .. | .viadd ..
  | .visub .. | .vimul .. | .vimad .. | .vand .. | .vor .. | .vxor .. | .vnot .. | .vshl .. | .vshr ..
  | .vsra .. | .vcmp .. | .vsel .. | .kand .. | .kor .. | .kxor .. | .knot .. | .kpop .. | .vcvt .. | .vqcb ..
  | .vdq .. | .vpack .. | .vunpack .. | .vrsum .. | .vrmax .. | .vrmin .. | .vargmax .. | .vscan .. | .vperm ..
  | .vshuf .. | .vbcast .. | .viota .. | .vmov .. | .vtrans .. | .vsq .. | .vsetvlc .. | .vaccept .. => .word .v
  | .mstep .. | .mnest .. | .mzero .. | .mdrain .. | .mscale .. | .mrowmask .. | .mtest .. | .mfence ..
  | .msig .. | .mwait .. | .mpin .. | .mpinUnpin .. | .mstat .. => .word .m
  | .psub .. | .psubd .. | .pmaxp .. | .psum .. | .pload .. | .pstore .. | .pnorm .. | .pcvt .. | .pmode ..
  | .psig .. | .pwait .. | .pfence .. => .word .p

end Sys2Proof
end

