-- ==== Sys2Proof/Decode.lean ====
section
/-!
DEFINITION. Encodings of words (06 R157, R158; 13 R351 to R365). A word is a natural number whose parcel i holds bits
32 i + 31 to 32 i. A layout lists the widths of a word's fields from bit 0 upward. decode reads the word at the head
of a list of text bytes, encode gives the parcels of an instruction.
-/
namespace Sys2Proof

/-- Why a word is no instruction. Each of them is the fault ILLEGAL-WORD (13 R351 steps 1 and 2); tooShort is a list
of bytes that ends inside the word. -/
inductive DecodeError
  | tooShort | unassigned | reserved
  deriving DecidableEq, Repr

/-- The word whose fields, from bit 0 upward, are the pairs of a width and a value. -/
def packFields : List (Nat × Nat) → Nat
  | [] => 0
  | (n, v) :: rest => v + 2 ^ n * packFields rest

/-- The values of the fields of w whose widths, from bit 0 upward, are given. -/
def unpackFields : List Nat → Nat → List Nat
  | [], _ => []
  | n :: rest, w => w % 2 ^ n :: unpackFields rest (w / 2 ^ n)

/-- A register number of the S-stream. -/
def xReg (n : Nat) : Fin 64 := Fin.ofNat 64 n
/-- A predicate number. -/
def pReg (n : Nat) : Fin 8 := Fin.ofNat 8 n
/-- A register number of the A-stream. -/
def aReg (n : Nat) : Fin 32 := Fin.ofNat 32 n
/-- A token or barrier number. -/
def num16 (n : Nat) : Fin 16 := Fin.ofNat 16 n
/-- A loop counter or append window number. -/
def num4 (n : Nat) : Fin 4 := Fin.ofNat 4 n

/-! ### Layouts, from bit 0 upward; the last width is the opcode byte [31:24] (13 R353 to R363) -/

/-- SR: fn, xb, xa, xd. -/
def layoutSR : List Nat := [6, 6, 6, 6, 8]
/-- SI and SX: imm12 or CSR number, xa, xd. -/
def layoutSI : List Nat := [12, 6, 6, 8]
/-- SW: imm18, xd. -/
def layoutSW : List Nat := [18, 6, 8]
/-- SC with a register: zero, xb, xa, cc, pd. -/
def layoutSC : List Nat := [6, 6, 6, 3, 3, 8]
/-- SC with an immediate: imm12, xa, cc, pd. -/
def layoutSCI : List Nat := [12, 6, 3, 3, 8]
/-- SN: zero, queue, xd. -/
def layoutSN : List Nat := [13, 5, 6, 8]
/-- SL: table, zero, pb, pa, pd. -/
def layoutSL : List Nat := [4, 11, 3, 3, 3, 8]
/-- A shared control word: [15:0], [19:16], [20], [23:21]. -/
def layoutShared : List Nat := [16, 4, 1, 3, 8]
/-- AR: fn, ac, ab, ad. -/
def layoutAR : List Nat := [9, 5, 5, 5, 8]
/-- AI and AS: imm14, ab, ad. -/
def layoutAI : List Nat := [14, 5, 5, 8]
/-- AM: imm11, size, base, queue. -/
def layoutAM : List Nat := [11, 3, 5, 5, 8]
/-- A V-word (13 R359). -/
def layoutV : List Nat := [1, 2, 1, 12, 4, 8, 4, 9, 7, 9, 7, 9, 7, 3, 4, 9]
/-- An M-word (13 R361). -/
def layoutM : List Nat := [12, 4, 1, 1, 1, 1, 8, 4, 8, 9, 10, 5, 6, 1, 1, 16, 16, 6, 1, 1, 16, 16, 19, 11, 18]
/-- A P-word (13 R363). -/
def layoutP : List Nat := [1, 15, 4, 8, 4, 7, 1, 13, 13, 13, 13, 13, 13, 13, 13, 13, 13, 22]

/-! ### The opcode maps -/

/-- Three-register words of S opcode 0x01, fn 0 to 11 (13 R354). -/
def sr1Op : Nat → Option (Fin 64 → Fin 64 → Fin 64 → Instr)
  | 0 => some .add
  | 1 => some .sub
  | 2 => some .and
  | 3 => some .or
  | 4 => some .xor
  | 5 => some .sll
  | 6 => some .srl
  | 7 => some .sra
  | 8 => some .min
  | 9 => some .max
  | 10 => some .minn
  | 11 => some .maxn
  | _ => none

/-- Two-register words of S opcode 0x01, fn 12 to 14, whose xb is zero (13 R354). -/
def sr1UnaryOp : Nat → Option (Fin 64 → Fin 64 → Instr)
  | 12 => some .clz
  | 13 => some .ctz
  | 14 => some .popc
  | _ => none

/-- Words of S opcode 0x02 (13 R354). -/
def sr2Op : Nat → Option (Fin 64 → Fin 64 → Fin 64 → Instr)
  | 0 => some .mul
  | 1 => some .mulh
  | 2 => some .mulhn
  | 3 => some .div
  | 4 => some .divn
  | 5 => some .rem
  | 6 => some .remn
  | _ => none

/-- V opcodes (13 R360). -/
def vOp : Nat → Option (VFields → Instr)
  | 0x01 => some .vadd
  | 0x02 => some .vsub
  | 0x03 => some .vmul
  | 0x04 => some .vfma
  | 0x05 => some .vfms
  | 0x06 => some .vnfma
  | 0x07 => some .vmin
  | 0x08 => some .vmax
  | 0x09 => some .vabs
  | 0x0A => some .vneg
  | 0x0B => some .vdiv
  | 0x0C => some .vsqrt
  | 0x0D => some .vrcp
  | 0x0E => some .vrsq
  | 0x0F => some .vexp2
  | 0x10 => some .vlog2
  | 0x11 => some .vtanh
  | 0x20 => some .viadd
  | 0x21 => some .visub
  | 0x22 => some .vimul
  | 0x23 => some .vimad
  | 0x24 => some .vand
  | 0x25 => some .vor
  | 0x26 => some .vxor
  | 0x27 => some .vnot
  | 0x28 => some .vshl
  | 0x29 => some .vshr
  | 0x2A => some .vsra
  | 0x40 => some .vcmp
  | 0x41 => some .vsel
  | 0x42 => some .kand
  | 0x43 => some .kor
  | 0x44 => some .kxor
  | 0x45 => some .knot
  | 0x46 => some .kpop
  | 0x50 => some .vcvt
  | 0x51 => some .vqcb
  | 0x52 => some .vdq
  | 0x53 => some .vpack
  | 0x54 => some .vunpack
  | 0x60 => some .vrsum
  | 0x61 => some .vrmax
  | 0x62 => some .vrmin
  | 0x63 => some .vargmax
  | 0x64 => some .vscan
  | 0x70 => some .vperm
  | 0x71 => some .vshuf
  | 0x72 => some .vbcast
  | 0x73 => some .viota
  | 0x74 => some .vmov
  | 0x75 => some .vtrans
  | 0x80 => some .vsq
  | 0x81 => some .vsetvlc
  | 0x82 => some .vaccept
  | _ => none

/-- M opcodes (13 R362) other than MPIN, whose UNPIN bit tells two rows apart (17 R483). -/
def mOp : Nat → Option (MFields → Instr)
  | 0x01 => some .mstep
  | 0x02 => some .mnest
  | 0x03 => some .mzero
  | 0x04 => some .mdrain
  | 0x05 => some .mscale
  | 0x06 => some .mrowmask
  | 0x07 => some .mtest
  | 0x08 => some .mfence
  | 0x09 => some .msig
  | 0x0A => some .mwait
  | 0x0C => some .mstat
  | _ => none

/-- P opcodes (13 R364). -/
def pOp : Nat → Option (PFields → Instr)
  | 0x01 => some .psub
  | 0x02 => some .psubd
  | 0x03 => some .pmaxp
  | 0x04 => some .psum
  | 0x05 => some .pload
  | 0x06 => some .pstore
  | 0x07 => some .pnorm
  | 0x08 => some .pcvt
  | 0x09 => some .pmode
  | 0x0A => some .psig
  | 0x0B => some .pwait
  | 0x0C => some .pfence
  | _ => none

/-! ### Decoding. Each function reads the fields of one stream's words and answers none where the opcode is not
assigned or a bit that the layout fixes to zero is set; the values of the fields are checked by wellFormed. -/

/-- An S-word (13 R353, R354). -/
def decodeS (w : Nat) : Option Instr :=
  match w / 2 ^ 24 with
  | 0x01 => match unpackFields layoutSR w with
    | [fn, b, a, d, _] =>
      match sr1Op fn with
      | some k => some (k (xReg d) (xReg a) (xReg b))
      | none => if b = 0 then (sr1UnaryOp fn).map fun k => k (xReg d) (xReg a) else none
    | _ => none
  | 0x02 => match unpackFields layoutSR w with
    | [fn, b, a, d, _] => (sr2Op fn).map fun k => k (xReg d) (xReg a) (xReg b)
    | _ => none
  | 0x08 => match unpackFields layoutSI w with
    | [i, a, d, _] => some (.addi (xReg d) (xReg a) (BitVec.ofNat 12 i))
    | _ => none
  | 0x09 => match unpackFields layoutSI w with
    | [i, a, d, _] => some (.andi (xReg d) (xReg a) (BitVec.ofNat 12 i))
    | _ => none
  | 0x0A => match unpackFields layoutSI w with
    | [i, a, d, _] => some (.ori (xReg d) (xReg a) (BitVec.ofNat 12 i))
    | _ => none
  | 0x0B => match unpackFields layoutSI w with
    | [i, a, d, _] => some (.xori (xReg d) (xReg a) (BitVec.ofNat 12 i))
    | _ => none
  | 0x0C => match unpackFields layoutSR w with
    | [s, z, a, d, _] => if z = 0 then some (.slli (xReg d) (xReg a) (BitVec.ofNat 6 s)) else none
    | _ => none
  | 0x0D => match unpackFields layoutSR w with
    | [s, z, a, d, _] => if z = 0 then some (.srli (xReg d) (xReg a) (BitVec.ofNat 6 s)) else none
    | _ => none
  | 0x0E => match unpackFields layoutSR w with
    | [s, z, a, d, _] => if z = 0 then some (.srai (xReg d) (xReg a) (BitVec.ofNat 6 s)) else none
    | _ => none
  | 0x10 => match unpackFields layoutSW w with
    | [i, d, _] => some (.liw (xReg d) (BitVec.ofNat 18 i))
    | _ => none
  | 0x11 => match unpackFields layoutSW w with
    | [i, d, _] => some (.lis (xReg d) (BitVec.ofNat 18 i))
    | _ => none
  | 0x14 => match unpackFields layoutSC w with
    | [z, b, a, cc, p, _] => if z = 0 then some (.cmp (pReg p) (BitVec.ofNat 3 cc) (xReg a) (xReg b)) else none
    | _ => none
  | 0x15 => match unpackFields layoutSCI w with
    | [i, a, cc, p, _] => some (.cmpi (pReg p) (BitVec.ofNat 3 cc) (xReg a) (BitVec.ofNat 12 i))
    | _ => none
  | 0x16 => match unpackFields layoutSL w with
    | [t, z, b, a, d, _] => if z = 0 then some (.plog (pReg d) (pReg a) (pReg b) (BitVec.ofNat 4 t)) else none
    | _ => none
  | 0x17 => match unpackFields layoutSR w with
    | [p, b, a, d, _] => if p < 8 then some (.sel (xReg d) (xReg a) (xReg b) (pReg p)) else none
    | _ => none
  | 0x18 => match unpackFields layoutSI w with
    | [i, a, d, _] => some (.lds (xReg d) (xReg a) (BitVec.ofNat 12 i))
    | _ => none
  | 0x19 => match unpackFields layoutSI w with
    | [i, a, d, _] => some (.sts (xReg d) (xReg a) (BitVec.ofNat 12 i))
    | _ => none
  | 0x1A => match unpackFields layoutSI w with
    | [i, a, d, _] => if a = 0 then some (.ldarg (xReg d) (BitVec.ofNat 12 i)) else none
    | _ => none
  | 0x20 => match unpackFields layoutSN w with
    | [z, q, d, _] => if z = 0 then some (.qpush (xReg d) (BitVec.ofNat 5 q)) else none
    | _ => none
  | 0x21 => match unpackFields layoutSN w with
    | [z, q, d, _] => if z = 0 then some (.qpop (xReg d) (BitVec.ofNat 5 q)) else none
    | _ => none
  | 0x22 => match unpackFields layoutSN w with
    | [z, q, d, _] => if z = 0 then some (.qstat (xReg d) (BitVec.ofNat 5 q)) else none
    | _ => none
  | 0x24 => match unpackFields layoutSI w with
    | [t, a, d, _] => if t < 16 ∧ a = 0 ∧ d = 0 then some (.tsig (num16 t)) else none
    | _ => none
  | 0x25 => match unpackFields layoutSI w with
    | [t, a, d, _] => if t < 16 ∧ a = 0 ∧ d = 0 then some (.twait (num16 t)) else none
    | _ => none
  | 0x28 => match unpackFields layoutSI w with
    | [i, a, d, _] => if a = 0 then some (.csrr (xReg d) (BitVec.ofNat 12 i)) else none
    | _ => none
  | 0x29 => match unpackFields layoutSI w with
    | [c, a, d, _] => some (.csrw (xReg d) (xReg a) (BitVec.ofNat 12 c))
    | _ => none
  | 0x2A => match unpackFields layoutSI w with
    | [c, a, d, _] => some (.csrs (xReg d) (xReg a) (BitVec.ofNat 12 c))
    | _ => none
  | 0x2B => match unpackFields layoutSI w with
    | [c, a, d, _] => some (.csrc (xReg d) (xReg a) (BitVec.ofNat 12 c))
    | _ => none
  | 0x30 => match unpackFields layoutSR w with
    | [l, b, a, d, _] => if l < 8 ∧ d = 0 then some (.nestw (xReg a) (xReg b) (BitVec.ofNat 3 l)) else none
    | _ => none
  | 0x31 => match unpackFields layoutSR w with
    | [fn, b, a, d, _] => if fn = 0 ∧ b = 0 ∧ d = 0 then some (.fmtpush (xReg a)) else none
    | _ => none
  | 0x34 => match unpackFields layoutSR w with
    | [fn, b, e, d, _] => if fn = 0 ∧ b = 0 then some (.evpop (xReg d) (xReg e)) else none
    | _ => none
  | 0x35 => match unpackFields layoutSR w with
    | [fn, b, e, d, _] => if fn = 0 ∧ b = 0 then some (.evwait (xReg d) (xReg e)) else none
    | _ => none
  | 0x38 => match unpackFields layoutSI w with
    | [i, a, d, _] => if a = 0 then some (.budget (xReg d) (BitVec.ofNat 12 i)) else none
    | _ => none
  | 0x39 => match unpackFields layoutSI w with
    | [i, a, d, _] => if a = 0 then some (.joule (xReg d) (BitVec.ofNat 12 i)) else none
    | _ => none
  | 0x3A => match unpackFields layoutSI w with
    | [i, a, d, _] => some (.varsel (xReg d) (xReg a) (BitVec.ofNat 12 i))
    | _ => none
  | 0x40 => match unpackFields layoutSI w with
    | [i, a, d, _] => if a = 0 ∧ d = 0 then some (.trap (BitVec.ofNat 12 i)) else none
    | _ => none
  | 0x41 => if w = 0x41000000 then some .rett else none
  | 0x42 => if w = 0x42000000 then some .trigger else none
  | 0x48 => match unpackFields layoutSI w with
    | [n, c, j, _] => if n < 16 then some (.specon (xReg j) (xReg c) (BitVec.ofNat 4 n)) else none
    | _ => none
  | 0x49 => match unpackFields layoutSI w with
    | [z, a, d, _] => if z = 0 then some (.speccommit (xReg d) (xReg a)) else none
    | _ => none
  | 0x4A => if w = 0x4A000000 then some .specabort else none
  | 0x70 => match unpackFields layoutSR w with
    | [q, b, a, d, _] => some (.launch (xReg d) (xReg a) (xReg b) (BitVec.ofNat 6 q))
    | _ => none
  | 0x71 => match unpackFields [2, 1, 3, 6, 6, 6, 8] w with
    | [k, g, z, b, a, d, _] =>
      if z = 0 ∧ d = 0 then some (.invr (xReg a) (xReg b) (g == 1) (BitVec.ofNat 2 k)) else none
    | _ => none
  | 0x72 => match unpackFields layoutSR w with
    | [fn, b, a, d, _] => if fn = 0 then some (.reclass (xReg d) (xReg a) (xReg b)) else none
    | _ => none
  | 0x73 => match unpackFields layoutSI w with
    | [o, a, d, _] => if o < 2 then some (.haltc (xReg d) (xReg a) (o == 1)) else none
    | _ => none
  | _ => none

/-- A shared control word (13 R355). -/
def decodeShared (w : Nat) : Option Instr :=
  match unpackFields layoutShared w with
  | [off, m, neg, p, op] =>
    match op with
    | 0xF0 => if p = 0 ∧ neg = 0 ∧ off = 0 then some (.nopx (BitVec.ofNat 4 m)) else none
    | 0xF1 => if m = 0 then some (.br (pReg p) (neg == 1) (BitVec.ofNat 16 off)) else none
    | 0xF2 => if p = 0 ∧ neg = 0 ∧ m < 4 then some (.loop (num4 m) (BitVec.ofNat 16 off)) else none
    | 0xF3 => if m = 0 then some (.call (pReg p) (neg == 1) (BitVec.ofNat 16 off)) else none
    | 0xF4 => if off = 0 ∧ p < 2 then some (.calli (xReg (m + 16 * neg + 32 * p))) else none
    | 0xF5 => if m = 0 ∧ off = 0 then some (.ret (pReg p) (neg == 1)) else none
    | 0xF6 => if p = 0 ∧ neg = 0 ∧ m = 0 then some (.yield (BitVec.ofNat 16 off)) else none
    | 0xF7 => if m = 0 ∧ off = 0 then some (.endw (pReg p) (neg == 1)) else none
    | _ => none
  | _ => none

/-- An A-word of format AR (13 R356, R358). -/
def decodeAR (op fn c b d : Nat) : Option Instr :=
  match op with
  | 0x80 => if fn = 0 ∧ c = 0 ∧ b = 0 ∧ d = 0 then some .anop else none
  | 0x81 => if fn = 0 then some (.aadd (aReg d) (aReg b) (aReg c)) else none
  | 0x83 => if fn = 0 then some (.asub (aReg d) (aReg b) (aReg c)) else none
  | 0x84 => if fn < 64 then some (.ashadd (aReg d) (aReg b) (aReg c) (BitVec.ofNat 6 fn)) else none
  | 0x85 => if fn < 4 ∧ c = 0 then some (.amovq (aReg d) (aReg b) (BitVec.ofNat 2 fn)) else none
  | 0x86 => match unpackFields [2, 2, 1, 4] fn with
    | [n, f, wr, z] =>
      if z = 0 ∧ c = 0 then
        if wr = 0 then if b = 0 then some (.aregRead (aReg d) (BitVec.ofNat 2 f) (num4 n)) else none
        else if d = 0 then some (.aregWrite (aReg b) (BitVec.ofNat 2 f) (num4 n)) else none
      else none
    | _ => none
  | 0x88 => if fn < 8 ∧ c = 0 ∧ b = 0 then some (.areloc (aReg d) (pReg fn)) else none
  | 0x91 => match unpackFields [3, 1, 1, 4] fn with
    | [s, z, m, z'] => if z = 0 ∧ z' = 0 then some (.lqs (BitVec.ofNat 5 d) (aReg b) (aReg c) (m == 1) (BitVec.ofNat 3 s)) else none
    | _ => none
  | 0x92 => if fn < 8 then some (.lqg (BitVec.ofNat 5 d) (aReg b) (aReg c) (BitVec.ofNat 3 fn)) else none
  | 0x94 => match unpackFields [3, 1, 1, 4] fn with
    | [s, g, m, z] =>
      if z = 0 then some (.sqs (BitVec.ofNat 5 d) (aReg b) (aReg c) (m == 1) (g == 1) (BitVec.ofNat 3 s)) else none
    | _ => none
  | 0x9C => if fn = 0 ∧ c = 0 ∧ b = 0 ∧ d = 0 then some .mark else none
  | 0x9D => if fn < 8 ∧ c = 0 ∧ b = 0 ∧ d = 0 then some (.acq (BitVec.ofNat 3 fn)) else none
  | 0x9E => if fn < 8 ∧ c = 0 ∧ b = 0 ∧ d = 0 then some (.rel (BitVec.ofNat 3 fn)) else none
  | 0x9F => if fn < 8 ∧ c = 0 ∧ b = 0 ∧ d = 0 then some (.fence (BitVec.ofNat 3 fn)) else none
  | 0xA0 => match unpackFields [4, 1, 1, 3] fn with
    | [o, z, g, zz] => if zz = 0 then some (.amo (aReg d) (aReg b) (aReg c) (g == 1) (z == 1) (BitVec.ofNat 4 o)) else none
    | _ => none
  | 0xA1 => match unpackFields [4, 1, 1, 3] fn with
    | [o, z, g, zz] => if zz = 0 ∧ o = 0 then some (.acas (aReg d) (aReg b) (aReg c) (g == 1) (z == 1)) else none
    | _ => none
  | 0xA2 => match unpackFields [4, 1, 1, 3] fn with
    | [o, z, g, zz] => if zz = 0 ∧ d = 0 then some (.red (aReg b) (aReg c) (g == 1) (z == 1) (BitVec.ofNat 4 o)) else none
    | _ => none
  | 0xA3 => match unpackFields [4, 1, 4] fn with
    | [o, z, zz] => if zz = 0 ∧ o = 0 then some (.waita (aReg d) (aReg b) (aReg c) (z == 1)) else none
    | _ => none
  | 0xBD => if fn = 0 ∧ c = 0 ∧ d = 0 then some (.job (aReg b)) else none
  | 0xBE => if fn = 0 ∧ c = 0 ∧ d = 0 then some (.sample (aReg b)) else none
  | 0xBF => if fn < 2 ∧ c = 0 ∧ b = 0 then some (.srpop (aReg d) (fn == 1)) else none
  | _ => none

/-- An A-word of format AI or AS (13 R356, R358). -/
def decodeAI (op i b d : Nat) : Option Instr :=
  match op with
  | 0x82 => some (.aaddi (aReg d) (aReg b) (BitVec.ofNat 14 i))
  | 0x87 => if i < 256 then some (.amovi (aReg d) (aReg b) (BitVec.ofNat 8 i)) else none
  | 0xA8 => if i < 2048 then some (.rclaim (aReg d) (aReg b) (BitVec.ofNat 11 i)) else none
  | 0xA9 => if i < 2048 then some (.rpub (aReg d) (aReg b) (BitVec.ofNat 11 i)) else none
  | 0xAA => if i < 2048 then some (.rwaitf (aReg d) (aReg b) (BitVec.ofNat 11 i)) else none
  | 0xAB => if i < 2048 ∧ d = 0 then some (.rfree (aReg b) (BitVec.ofNat 11 i)) else none
  | 0xAC => if i < 2048 then some (.rstatRead (aReg d) (aReg b) (BitVec.ofNat 11 i))
    else if 8192 ≤ i ∧ i < 8192 + 2048 then some (.rstatSet (aReg d) (aReg b) (BitVec.ofNat 11 i)) else none
  | 0xB0 => if i < 16 ∧ b = 0 ∧ d = 0 then some (.barr (num16 i)) else none
  | 0xB1 => if i < 16 ∧ b = 0 ∧ d = 0 then some (.bwait (num16 i)) else none
  | 0xB2 => if i < 16 ∧ d = 0 then some (.bexpect (aReg b) (num16 i)) else none
  | 0xB3 => if i = 0 ∧ b = 0 ∧ d = 0 then some .brot else none
  | 0xB8 => match i / 4096 with
    | 0 => some (.scdecWait (aReg d) (aReg b) (BitVec.ofNat 12 i))
    | 1 => some (.scdecTry (aReg d) (aReg b) (BitVec.ofNat 12 i))
    | 2 => some (.scdecRes (aReg d) (aReg b) (BitVec.ofNat 12 i))
    | _ => none
  | 0xB9 => if i < 4096 then some (.scinc (aReg d) (aReg b) (BitVec.ofNat 12 i)) else none
  | 0xBA => if i < 4096 then some (.scrd (aReg d) (aReg b) (BitVec.ofNat 12 i)) else none
  | 0xBB => if i < 4096 then some (.scrdx (aReg d) (aReg b) (BitVec.ofNat 12 i)) else none
  | 0xBC => if i < 4096 then some (.scinit (aReg d) (aReg b) (BitVec.ofNat 12 i)) else none
  | _ => none

/-- An A-word of format AM (13 R356, R358). -/
def decodeAM (op i s b q : Nat) : Option Instr :=
  match op with
  | 0x90 => some (.lq (BitVec.ofNat 5 q) (aReg b) (BitVec.ofNat 3 s) (BitVec.ofNat 11 i))
  | 0x93 => some (.sq (BitVec.ofNat 5 q) (aReg b) (BitVec.ofNat 3 s) (BitVec.ofNat 11 i))
  | 0x95 => some (.lx (aReg q) (aReg b) (BitVec.ofNat 3 s) (BitVec.ofNat 11 i))
  | 0x96 => some (.sx (aReg q) (aReg b) (BitVec.ofNat 3 s) (BitVec.ofNat 11 i))
  | 0x97 => some (.pref (BitVec.ofNat 5 q) (aReg b) (BitVec.ofNat 3 s) (BitVec.ofNat 11 i))
  | 0x98 => if i = 0 then some (.append (BitVec.ofNat 5 q) (BitVec.ofNat 5 b) (BitVec.ofNat 3 s)) else none
  | _ => none

/-- An A-word. -/
def decodeA (w : Nat) : Option Instr :=
  match unpackFields layoutAR w, unpackFields layoutAI w, unpackFields layoutAM w with
  | [fn, c, b, d, op], [i, _, _, _], [im, s, _, _, _] =>
    (decodeAR op fn c b d).or ((decodeAI op i b d).or (decodeAM op im s b d))
  | _, _, _ => none

/-- A V-word (13 R359, R360). -/
def decodeV (w : Nat) : Option Instr :=
  match unpackFields layoutV w with
  | [masked, rnd, sat, count, fmt, op, _, vd, sd, va, sa, vb, sb, k, fmt2, imm] =>
    (vOp op).map fun c => c ⟨BitVec.ofNat 4 fmt, BitVec.ofNat 12 count, sat == 1, BitVec.ofNat 2 rnd, masked == 1,
      BitVec.ofNat 9 vd, BitVec.ofNat 7 sd, BitVec.ofNat 9 va, BitVec.ofNat 7 sa, BitVec.ofNat 9 vb, BitVec.ofNat 7 sb,
      BitVec.ofNat 3 k, BitVec.ofNat 4 fmt2, BitVec.ofNat 9 imm⟩
  | _ => none

/-- An M-word (13 R361, R362). -/
def decodeM (w : Nat) : Option Instr :=
  match unpackFields layoutM w with
  | [z0, tok, acc, rmask, sig, unpin, op, _, mt, nt, kt, z1, aSlice, aCol, z2, aOff, aLd, bSlice, bLay, z3, bOff, bLd,
      cIdx, cStr, z4] =>
    if z0 = 0 ∧ z1 = 0 ∧ z2 = 0 ∧ z3 = 0 ∧ z4 = 0 then
      let f : MFields := ⟨unpin == 1, sig == 1, rmask == 1, acc == 1, BitVec.ofNat 4 tok, BitVec.ofNat 8 mt,
        BitVec.ofNat 9 nt, BitVec.ofNat 10 kt, BitVec.ofNat 6 aSlice, aCol == 1, BitVec.ofNat 16 aOff,
        BitVec.ofNat 16 aLd, BitVec.ofNat 6 bSlice, bLay == 1, BitVec.ofNat 16 bOff, BitVec.ofNat 16 bLd,
        BitVec.ofNat 19 cIdx, BitVec.ofNat 11 cStr⟩
      if op = 0x0B then some (if unpin = 1 then .mpinUnpin f else .mpin f) else (mOp op).map fun c => c f
    else none
  | _ => none

/-- A P-word (13 R363, R364). -/
def decodeP (w : Nat) : Option Instr :=
  match unpackFields layoutP w with
  | [z0, shape, mode, op, _, ops, z1, dst, wb, l0, l1, l2, l3, l4, l5, l6, l7, z2] =>
    if z0 = 0 ∧ z1 = 0 ∧ z2 = 0 then
      (pOp op).map fun c => c ⟨BitVec.ofNat 4 mode, BitVec.ofNat 15 shape, BitVec.ofNat 7 ops, BitVec.ofNat 13 dst,
        BitVec.ofNat 13 wb, BitVec.ofNat 13 l0, BitVec.ofNat 13 l1, BitVec.ofNat 13 l2, BitVec.ofNat 13 l3,
        BitVec.ofNat 13 l4, BitVec.ofNat 13 l5, BitVec.ofNat 13 l6, BitVec.ofNat 13 l7⟩
    else none
  | _ => none

/-- The tag of a first parcel (06 R158). -/
def tagOf (w : Nat) : Nat := w / 2 ^ 28 % 16

/-- The length in parcels of the word with this tag (06 R158). -/
def tagParcels (tag : Nat) : Nat :=
  match tag with
  | 12 => 3
  | 13 => 6
  | 14 => 6
  | _ => 1

/-- The stream whose word has this tag; none for a shared control word (06 R158). -/
def tagStream (tag : Nat) : Option Stream :=
  if tag < 8 then some .s
  else if tag < 12 then some .a
  else match tag with
    | 12 => some .v
    | 13 => some .m
    | 14 => some .p
    | _ => none

/-- The fields of a word, before their values are checked (13 R351 step 1 and the zero bits of step 2). -/
def decodeFields (w : Nat) : Option Instr :=
  match tagStream (tagOf w) with
  | some .s => decodeS w
  | some .a => decodeA w
  | some .v => decodeV w
  | some .m => decodeM w
  | some .p => decodeP w
  | none => decodeShared w

/-- Steps 1 and 2 of 13 R351. -/
def decodeWord (w : Nat) : Except DecodeError Instr :=
  match decodeFields w with
  | none => .error .unassigned
  | some i => if i.wellFormed then .ok i else .error .reserved

/-- The little-endian number that bytes hold (00 R4). -/
def bytesToNat : List Byte → Nat
  | [] => 0
  | b :: rest => b.toNat + 256 * bytesToNat rest

/-- n bytes of v, the least significant first (00 R4). -/
def natToBytes : (n : Nat) → (v : Nat) → List Byte
  | 0, _ => []
  | n + 1, v => BitVec.ofNat 8 v :: natToBytes n (v / 256)

/-- The instruction at the head of text bytes, and the bytes that follow it (06 R157, R158). -/
def decode (text : List Byte) : Except DecodeError (Instr × List Byte) :=
  if text.length < 4 then .error .tooShort
  else
    let n := 4 * tagParcels (tagOf (bytesToNat (text.take 4)))
    if text.length < n then .error .tooShort
    else match decodeWord (bytesToNat (text.take n)) with
      | .ok i => .ok (i, text.drop n)
      | .error e => .error e

/-- The instruction of a word whose bits are numbered as spec/opcode_table.json numbers them; the bits above nbits
are zero. -/
def decodeTableWord (nbits w : Nat) : Option Instr :=
  match decode (natToBytes 24 (w % 2 ^ nbits)) with
  | .ok (i, _) => some i
  | .error _ => none

/-! ### Encoding -/

/-- A bit of a Boolean field. -/
def bitOf (b : Bool) : Nat := if b then 1 else 0
/-- An SR word. -/
def encSR (op fn b a d : Nat) : Nat := packFields [(6, fn), (6, b), (6, a), (6, d), (8, op)]
/-- An SI or SX word. -/
def encSI (op i a d : Nat) : Nat := packFields [(12, i), (6, a), (6, d), (8, op)]
/-- A shared control word. -/
def encShared (op off m neg p : Nat) : Nat := packFields [(16, off), (4, m), (1, neg), (3, p), (8, op)]
/-- An AR word. -/
def encAR (op fn c b d : Nat) : Nat := packFields [(9, fn), (5, c), (5, b), (5, d), (8, op)]
/-- An AI or AS word. -/
def encAI (op i b d : Nat) : Nat := packFields [(14, i), (5, b), (5, d), (8, op)]
/-- An AM word. -/
def encAM (op i s b q : Nat) : Nat := packFields [(11, i), (3, s), (5, b), (5, q), (8, op)]
/-- A V-word. -/
def encV (op : Nat) (f : VFields) : Nat :=
  packFields [(1, bitOf f.masked), (2, f.rnd.toNat), (1, bitOf f.sat), (12, f.count.toNat), (4, f.fmt.toNat), (8, op),
    (4, 12), (9, f.vd.toNat), (7, f.sd.toNat), (9, f.va.toNat), (7, f.sa.toNat), (9, f.vb.toNat), (7, f.sb.toNat),
    (3, f.k.toNat), (4, f.fmt2.toNat), (9, f.imm.toNat)]
/-- An M-word. -/
def encM (op : Nat) (f : MFields) : Nat :=
  packFields [(12, 0), (4, f.tok.toNat), (1, bitOf f.acc), (1, bitOf f.rmask), (1, bitOf f.sig), (1, bitOf f.unpin),
    (8, op), (4, 13), (8, f.mt.toNat), (9, f.nt.toNat), (10, f.kt.toNat), (5, 0), (6, f.aSlice.toNat), (1, bitOf f.aCol),
    (1, 0), (16, f.aOff.toNat), (16, f.aLd.toNat), (6, f.bSlice.toNat), (1, bitOf f.bLay), (1, 0), (16, f.bOff.toNat),
    (16, f.bLd.toNat), (19, f.cIdx.toNat), (11, f.cStr.toNat), (18, 0)]
/-- A P-word. -/
def encP (op : Nat) (f : PFields) : Nat :=
  packFields [(1, 0), (15, f.shape.toNat), (4, f.mode.toNat), (8, op), (4, 14), (7, f.ops.toNat), (1, 0),
    (13, f.dst.toNat), (13, f.wb.toNat), (13, f.l0.toNat), (13, f.l1.toNat), (13, f.l2.toNat), (13, f.l3.toNat),
    (13, f.l4.toNat), (13, f.l5.toNat), (13, f.l6.toNat), (13, f.l7.toNat), (22, 0)]

/-- The word of an instruction; none for an event, which has no encoding. -/
def encodeWord : Instr → Option Nat
  | .add d a b => some (encSR 0x01 0 b.val a.val d.val)
  | .sub d a b => some (encSR 0x01 1 b.val a.val d.val)
  | .and d a b => some (encSR 0x01 2 b.val a.val d.val)
  | .or d a b => some (encSR 0x01 3 b.val a.val d.val)
  | .xor d a b => some (encSR 0x01 4 b.val a.val d.val)
  | .sll d a b => some (encSR 0x01 5 b.val a.val d.val)
  | .srl d a b => some (encSR 0x01 6 b.val a.val d.val)
  | .sra d a b => some (encSR 0x01 7 b.val a.val d.val)
  | .min d a b => some (encSR 0x01 8 b.val a.val d.val)
  | .max d a b => some (encSR 0x01 9 b.val a.val d.val)
  | .minn d a b => some (encSR 0x01 10 b.val a.val d.val)
  | .maxn d a b => some (encSR 0x01 11 b.val a.val d.val)
  | .clz d a => some (encSR 0x01 12 0 a.val d.val)
  | .ctz d a => some (encSR 0x01 13 0 a.val d.val)
  | .popc d a => some (encSR 0x01 14 0 a.val d.val)
  | .mul d a b => some (encSR 0x02 0 b.val a.val d.val)
  | .mulh d a b => some (encSR 0x02 1 b.val a.val d.val)
  | .mulhn d a b => some (encSR 0x02 2 b.val a.val d.val)
  | .div d a b => some (encSR 0x02 3 b.val a.val d.val)
  | .divn d a b => some (encSR 0x02 4 b.val a.val d.val)
  | .rem d a b => some (encSR 0x02 5 b.val a.val d.val)
  | .remn d a b => some (encSR 0x02 6 b.val a.val d.val)
  | .addi d a i => some (encSI 0x08 i.toNat a.val d.val)
  | .andi d a i => some (encSI 0x09 i.toNat a.val d.val)
  | .ori d a i => some (encSI 0x0A i.toNat a.val d.val)
  | .xori d a i => some (encSI 0x0B i.toNat a.val d.val)
  | .slli d a s => some (encSR 0x0C s.toNat 0 a.val d.val)
  | .srli d a s => some (encSR 0x0D s.toNat 0 a.val d.val)
  | .srai d a s => some (encSR 0x0E s.toNat 0 a.val d.val)
  | .liw d i => some (packFields [(18, i.toNat), (6, d.val), (8, 0x10)])
  | .lis d i => some (packFields [(18, i.toNat), (6, d.val), (8, 0x11)])
  | .cmp p cc a b => some (packFields [(6, 0), (6, b.val), (6, a.val), (3, cc.toNat), (3, p.val), (8, 0x14)])
  | .cmpi p cc a i => some (packFields [(12, i.toNat), (6, a.val), (3, cc.toNat), (3, p.val), (8, 0x15)])
  | .plog d a b t => some (packFields [(4, t.toNat), (11, 0), (3, b.val), (3, a.val), (3, d.val), (8, 0x16)])
  | .sel d a b p => some (encSR 0x17 p.val b.val a.val d.val)
  | .lds d a i => some (encSI 0x18 i.toNat a.val d.val)
  | .sts d a i => some (encSI 0x19 i.toNat a.val d.val)
  | .ldarg d i => some (encSI 0x1A i.toNat 0 d.val)
  | .qpush d q => some (packFields [(13, 0), (5, q.toNat), (6, d.val), (8, 0x20)])
  | .qpop d q => some (packFields [(13, 0), (5, q.toNat), (6, d.val), (8, 0x21)])
  | .qstat d q => some (packFields [(13, 0), (5, q.toNat), (6, d.val), (8, 0x22)])
  | .tsig t => some (encSI 0x24 t.val 0 0)
  | .twait t => some (encSI 0x25 t.val 0 0)
  | .csrr d c => some (encSI 0x28 c.toNat 0 d.val)
  | .csrw d a c => some (encSI 0x29 c.toNat a.val d.val)
  | .csrs d a c => some (encSI 0x2A c.toNat a.val d.val)
  | .csrc d a c => some (encSI 0x2B c.toNat a.val d.val)
  | .nestw a b l => some (encSR 0x30 l.toNat b.val a.val 0)
  | .fmtpush a => some (encSR 0x31 0 0 a.val 0)
  | .evpop d e => some (encSR 0x34 0 0 e.val d.val)
  | .evwait d e => some (encSR 0x35 0 0 e.val d.val)
  | .budget d i => some (encSI 0x38 i.toNat 0 d.val)
  | .joule d i => some (encSI 0x39 i.toNat 0 d.val)
  | .varsel d a i => some (encSI 0x3A i.toNat a.val d.val)
  | .trap i => some (encSI 0x40 i.toNat 0 0)
  | .rett => some 0x41000000
  | .trigger => some 0x42000000
  | .specon j c n => some (encSI 0x48 n.toNat c.val j.val)
  | .speccommit d a => some (encSI 0x49 0 a.val d.val)
  | .specabort => some 0x4A000000
  | .launch d a b q => some (encSR 0x70 q.toNat b.val a.val d.val)
  | .invr a b g k => some (packFields [(2, k.toNat), (1, bitOf g), (3, 0), (6, b.val), (6, a.val), (6, 0), (8, 0x71)])
  | .reclass d a b => some (encSR 0x72 0 b.val a.val d.val)
  | .haltc d a o => some (encSI 0x73 (bitOf o) a.val d.val)
  | .nopx m => some (encShared 0xF0 0 m.toNat 0 0)
  | .br p n o => some (encShared 0xF1 o.toNat 0 (bitOf n) p.val)
  | .loop c o => some (encShared 0xF2 o.toNat c.val 0 0)
  | .call p n o => some (encShared 0xF3 o.toNat 0 (bitOf n) p.val)
  | .calli a => some (encShared 0xF4 0 (a.val % 16) (a.val / 16 % 2) (a.val / 32))
  | .ret p n => some (encShared 0xF5 0 0 (bitOf n) p.val)
  | .yield i => some (encShared 0xF6 i.toNat 0 0 0)
  | .endw p n => some (encShared 0xF7 0 0 (bitOf n) p.val)
  | .anop => some (encAR 0x80 0 0 0 0)
  | .aadd d b c => some (encAR 0x81 0 c.val b.val d.val)
  | .aaddi d b i => some (encAI 0x82 i.toNat b.val d.val)
  | .asub d b c => some (encAR 0x83 0 c.val b.val d.val)
  | .ashadd d b c s => some (encAR 0x84 s.toNat c.val b.val d.val)
  | .amovq d b f => some (encAR 0x85 f.toNat 0 b.val d.val)
  | .aregRead d f n => some (encAR 0x86 (n.val + 4 * f.toNat) 0 0 d.val)
  | .aregWrite b f n => some (encAR 0x86 (n.val + 4 * f.toNat + 16) 0 b.val 0)
  | .amovi d b r => some (encAI 0x87 r.toNat b.val d.val)
  | .areloc d n => some (encAR 0x88 n.val 0 0 d.val)
  | .lq q b s i => some (encAM 0x90 i.toNat s.toNat b.val q.toNat)
  | .lqs q b c m s => some (encAR 0x91 (s.toNat + 16 * bitOf m) c.val b.val q.toNat)
  | .lqg q b c s => some (encAR 0x92 s.toNat c.val b.val q.toNat)
  | .sq q b s i => some (encAM 0x93 i.toNat s.toNat b.val q.toNat)
  | .sqs q b c m g s => some (encAR 0x94 (s.toNat + 8 * bitOf g + 16 * bitOf m) c.val b.val q.toNat)
  | .lx d b s i => some (encAM 0x95 i.toNat s.toNat b.val d.val)
  | .sx t b s i => some (encAM 0x96 i.toNat s.toNat b.val t.val)
  | .pref l b s i => some (encAM 0x97 i.toNat s.toNat b.val l.toNat)
  | .append q n s => some (encAM 0x98 0 s.toNat n.toNat q.toNat)
  | .mark => some (encAR 0x9C 0 0 0 0)
  | .acq s => some (encAR 0x9D s.toNat 0 0 0)
  | .rel s => some (encAR 0x9E s.toNat 0 0 0)
  | .fence s => some (encAR 0x9F s.toNat 0 0 0)
  | .amo d b c g z o => some (encAR 0xA0 (o.toNat + 16 * bitOf z + 32 * bitOf g) c.val b.val d.val)
  | .acas d b c g z => some (encAR 0xA1 (16 * bitOf z + 32 * bitOf g) c.val b.val d.val)
  | .red b c g z o => some (encAR 0xA2 (o.toNat + 16 * bitOf z + 32 * bitOf g) c.val b.val 0)
  | .waita d b c z => some (encAR 0xA3 (16 * bitOf z) c.val b.val d.val)
  | .rclaim d b i => some (encAI 0xA8 i.toNat b.val d.val)
  | .rpub d b i => some (encAI 0xA9 i.toNat b.val d.val)
  | .rwaitf d b i => some (encAI 0xAA i.toNat b.val d.val)
  | .rfree b i => some (encAI 0xAB i.toNat b.val 0)
  | .rstatRead d b i => some (encAI 0xAC i.toNat b.val d.val)
  | .rstatSet d b i => some (encAI 0xAC (8192 + i.toNat) b.val d.val)
  | .barr b => some (encAI 0xB0 b.val 0 0)
  | .bwait b => some (encAI 0xB1 b.val 0 0)
  | .bexpect a b => some (encAI 0xB2 b.val a.val 0)
  | .brot => some (encAI 0xB3 0 0 0)
  | .scdecWait d b o => some (encAI 0xB8 o.toNat b.val d.val)
  | .scdecTry d b o => some (encAI 0xB8 (4096 + o.toNat) b.val d.val)
  | .scdecRes d b o => some (encAI 0xB8 (8192 + o.toNat) b.val d.val)
  | .scinc d b o => some (encAI 0xB9 o.toNat b.val d.val)
  | .scrd d b o => some (encAI 0xBA o.toNat b.val d.val)
  | .scrdx d b o => some (encAI 0xBB o.toNat b.val d.val)
  | .scinit d b o => some (encAI 0xBC o.toNat b.val d.val)
  | .job b => some (encAR 0xBD 0 0 b.val 0)
  | .sample b => some (encAR 0xBE 0 0 b.val 0)
  | .srpop d f => some (encAR 0xBF (bitOf f) 0 0 d.val)
  | .vadd f => some (encV 0x01 f)
  | .vsub f => some (encV 0x02 f)
  | .vmul f => some (encV 0x03 f)
  | .vfma f => some (encV 0x04 f)
  | .vfms f => some (encV 0x05 f)
  | .vnfma f => some (encV 0x06 f)
  | .vmin f => some (encV 0x07 f)
  | .vmax f => some (encV 0x08 f)
  | .vabs f => some (encV 0x09 f)
  | .vneg f => some (encV 0x0A f)
  | .vdiv f => some (encV 0x0B f)
  | .vsqrt f => some (encV 0x0C f)
  | .vrcp f => some (encV 0x0D f)
  | .vrsq f => some (encV 0x0E f)
  | .vexp2 f => some (encV 0x0F f)
  | .vlog2 f => some (encV 0x10 f)
  | .vtanh f => some (encV 0x11 f)
  | .viadd f => some (encV 0x20 f)
  | .visub f => some (encV 0x21 f)
  | .vimul f => some (encV 0x22 f)
  | .vimad f => some (encV 0x23 f)
  | .vand f => some (encV 0x24 f)
  | .vor f => some (encV 0x25 f)
  | .vxor f => some (encV 0x26 f)
  | .vnot f => some (encV 0x27 f)
  | .vshl f => some (encV 0x28 f)
  | .vshr f => some (encV 0x29 f)
  | .vsra f => some (encV 0x2A f)
  | .vcmp f => some (encV 0x40 f)
  | .vsel f => some (encV 0x41 f)
  | .kand f => some (encV 0x42 f)
  | .kor f => some (encV 0x43 f)
  | .kxor f => some (encV 0x44 f)
  | .knot f => some (encV 0x45 f)
  | .kpop f => some (encV 0x46 f)
  | .vcvt f => some (encV 0x50 f)
  | .vqcb f => some (encV 0x51 f)
  | .vdq f => some (encV 0x52 f)
  | .vpack f => some (encV 0x53 f)
  | .vunpack f => some (encV 0x54 f)
  | .vrsum f => some (encV 0x60 f)
  | .vrmax f => some (encV 0x61 f)
  | .vrmin f => some (encV 0x62 f)
  | .vargmax f => some (encV 0x63 f)
  | .vscan f => some (encV 0x64 f)
  | .vperm f => some (encV 0x70 f)
  | .vshuf f => some (encV 0x71 f)
  | .vbcast f => some (encV 0x72 f)
  | .viota f => some (encV 0x73 f)
  | .vmov f => some (encV 0x74 f)
  | .vtrans f => some (encV 0x75 f)
  | .vsq f => some (encV 0x80 f)
  | .vsetvlc f => some (encV 0x81 f)
  | .vaccept f => some (encV 0x82 f)
  | .mstep f => some (encM 0x01 f)
  | .mnest f => some (encM 0x02 f)
  | .mzero f => some (encM 0x03 f)
  | .mdrain f => some (encM 0x04 f)
  | .mscale f => some (encM 0x05 f)
  | .mrowmask f => some (encM 0x06 f)
  | .mtest f => some (encM 0x07 f)
  | .mfence f => some (encM 0x08 f)
  | .msig f => some (encM 0x09 f)
  | .mwait f => some (encM 0x0A f)
  | .mstat f => some (encM 0x0C f)
  | .mpin f => some (encM 0x0B f)
  | .mpinUnpin f => some (encM 0x0B f)
  | .psub f => some (encP 0x01 f)
  | .psubd f => some (encP 0x02 f)
  | .pmaxp f => some (encP 0x03 f)
  | .psum f => some (encP 0x04 f)
  | .pload f => some (encP 0x05 f)
  | .pstore f => some (encP 0x06 f)
  | .pnorm f => some (encP 0x07 f)
  | .pcvt f => some (encP 0x08 f)
  | .pmode f => some (encP 0x09 f)
  | .psig f => some (encP 0x0A f)
  | .pwait f => some (encP 0x0B f)
  | .pfence f => some (encP 0x0C f)
  | .doorbellForward .. | .collectiveChunk .. | .collectiveMatch .. | .launchPacket .. | .armPacket ..
  | .disarmPacket .. | .firePacket .. | .fencePacket .. | .frequencyClassHoldEnd .. | .cconsWrite ..
  | .kernelCompletion .. | .operatingPointSwitch .. | .meterUnit .. | .settle .. | .draw .. | .resume ..
  | .watchdog .. | .triggerReport .. | .taskEnd .. | .deadlock .. | .capture .. | .yieldTimeout ..
  | .yieldSaveComplete .. | .selfTest .. | .selfTestEnd .. | .pageWalk .. | .invalidationComplete ..
  | .sliceScrubDone .. | .loadReturn .. | .storePerformed .. | .atomicPerformed .. | .monitorSpuriousWake ..
  | .vResultLand .. | .tileCommandEnd .. | .pWordLand .. | .engineJobStart .. | .jobCompletion ..
  | .samplerDraw .. | .reset .. | .bootLayerStart | .droop .. | .thermalTrip .. | .bmcPowerLimit ..
  | .eccFatal .. | .mailboxWrite .. | .mailboxRead .. | .mailboxReboot .. | .mailboxOperationEnd ..
  | .hostCompletionTimeout .. | .hostLinkDown | .functionLevelReset .. | .commandWindowWrite ..
  | .misrouteClear .. | .overrunClear .. | .hostMemoryWrite .. | .hostMemoryRead .. | .hostAtomic ..
  | .bridgeTrained .. | .bridgeDown | .flitReplay | .bridgeLoadRequest .. | .bridgeLoadReply ..
  | .bridgeStore .. | .bridgeStoreAck .. | .bridgeAtomicRequest .. | .bridgeAtomicReply ..
  | .forwardedCommandPacket .. | .contextEnable .. | .contextDisable .. | .slotResidentClear .. | .takeover
  | .dispatchHalt .. | .governorBoundary .. | .preemptAtBoundary .. | .preemptMidTask .. | .tqackPop
  | .tqreplyRetry .. | .tqreplyFail .. | .latchmapClear .. | .sliceRelease .. | .scunbind ..
  | .registerWrite .. | .bridgeRetrain | .collectivePeerCancelled .. | .forwardedPacketAcknowledged ..
  | .attestationRequest .. => none

/-- The parcels of n of them that hold the word w (06 R157). -/
def parcelsOf : (n : Nat) → (w : Nat) → List Parcel
  | 0, _ => []
  | n + 1, w => BitVec.ofNat 32 w :: parcelsOf n (w / 2 ^ 32)

/-- The parcels of an instruction, parcel 0 first; none of them for an event. -/
def encode (i : Instr) : List Parcel :=
  match encodeWord i with
  | some w => parcelsOf (tagParcels (tagOf w)) w
  | none => []

/-- The bytes of an instruction in text (06 R157, 00 R4). -/
def encodeBytes (i : Instr) : List Byte :=
  match encodeWord i with
  | some w => natToBytes (4 * tagParcels (tagOf w)) w
  | none => []

end Sys2Proof
end

