-- ==== Sys2Proof/Machine/State.lean ====
section
/-!
DEFINITION. The state of one QK-960 card: the cores and their tasks, the islands, the hub, memory and the inputs that
the outside world has still to deliver. Everything is plain data. A field whose docstring begins "The model's own"
holds no state of the hardware; it drives the model. Registers that software reads and writes whole are words; state
that lives only inside the machine has types of its own.
-/
namespace Sys2Proof.Machine

/-- Data by number, in ascending order of the numbers and with none of them twice. -/
abbrev Table (α : Type) := List (Nat × α)

/-- The bytes of a memory by address: addresses strictly rising, and no byte listed that is zero, which is what an
unlisted address reads as (07 R199, 06 R183; DESIGN CHOICE 2 for card and host memory). -/
abbrev Memory := List Host.Cell

/-- A 256-byte queue entry: byte i holds bits 8 i + 7 to 8 i (06 R170). -/
abbrev Seg := BitVec 2048

/-! ### Traps -/

/-- The causes of 10 R272. -/
inductive Cause
  | illegalWord | priv | operandRange | misalign | region | pageFault | access | formatUnderflow | queue | specIllegal
  | appendFull | arraySuspect | throttleWarn | eccFatal | software | watchdog | barrierRange | preempt | cancel
  deriving DecidableEq, Repr

/-- What a trap reports (10 R277, R278). source is the code of byte 6 of the record; len is the length in bytes of the
faulting word, 0 when no word faulted. -/
structure TrapInfo where
  cause  : Cause
  source : Nat
  detail : Nat
  faddr  : VAddr
  status : Parcel
  len    : Nat
  fatal  : Bool
  rerun  : Bool
  sfirst : BitVec 32
  slast  : BitVec 32
  sfstep : BitVec 32
  slstep : BitVec 32
  deriving DecidableEq, Repr

/-- A speculative round as its SPECON fixed it (12 R341): its number, which is the command index of the SPECON, SpecN,
CV, SpecJournal and StopSet. -/
structure Round where
  id      : Word
  n       : Nat
  cv      : Nat
  journal : Word
  stops   : List (Nat × BitVec 32)
  deriving DecidableEq, Repr

/-- What a steering entry carries of a change of the speculative mode (12 R342): the CALL after SPECON, the NOPX after
SPECCOMMIT or SPECABORT, or any other word. -/
inductive SteerMark
  | plain | enter (r : Round) | leave
  deriving DecidableEq, Repr

/-- One entry of the steering queue (06 R165). -/
structure SteerEntry where
  taken  : Bool
  kind   : BitVec 4
  target : Word
  mark   : SteerMark
  deriving DecidableEq, Repr

/-- One of the five streams of a task (06 R161 to R165). popped counts the held steering entries that the stream has
popped. waiting is the model's own: the stream's last turn found its word waiting. -/
structure StreamState where
  pc      : Word
  enabled : Bool
  ended   : Bool
  cidx    : Word
  ret     : List Word
  popped  : Nat
  waiting : Bool
  deriving DecidableEq, Repr

/-! ### Queues -/

/-- An entry of a queue; spec is true when a word in speculative mode pushed it (12 R349). -/
structure QEntry (α : Type) where
  val  : α
  spec : Bool
  deriving DecidableEq, Repr

/-- An entry of a queue that loads fill: none while it is reserved for load number load (15 R413). -/
structure LSlot where
  load : Nat
  val  : Option Seg
  spec : Bool
  deriving DecidableEq, Repr

/-- An entry of the format queue: a format word or a shadow nest level (14 R393, R394). -/
inductive FmtEntry
  | format (w : Word)
  | nest (level : Nat) (a b : Word)
  deriving DecidableEq, Repr

/-- The queues of 06 R170. -/
structure Queues where
  ql     : Vector (List LSlot) 8
  qap    : List LSlot
  qas    : List LSlot
  qs     : Vector (List (QEntry Seg)) 4
  qsa    : List (QEntry Word)
  qvs    : List (QEntry Word)
  qb     : List (QEntry Word)
  fmt    : List (QEntry FmtEntry)
  qpa    : List (QEntry Seg)
  reply  : List (QEntry (BitVec 32))
  events : List (QEntry (BitVec 128))
  deriving DecidableEq, Repr

/-! ### Memory accesses of a core -/

/-- One piece of a translated access: len bytes at physical address pa are bytes off upward of the data. cls is the
class code of 07 R200; own is true when the issuing core owns the PRIVATE page (07 R214). -/
structure Part where
  pa  : Nat
  len : Nat
  off : Nat
  cls : Nat
  own : Bool
  deriving DecidableEq, Repr

/-- Where the data of a load go. -/
inductive LoadDest
  | ql (q : Fin 8) | qap | qas | areg (d : Fin 32) | drop
  deriving DecidableEq, Repr

/-- A line of the peer's memory that was asked for (02 R58): the request's number, the line, what fills of the core and
of the island had counted then, and the answer once it has come. -/
structure PeerAsk where
  num    : Nat
  line   : Nat
  core   : Nat
  island : Nat
  data   : Option (BitVec 512)
  deriving DecidableEq, Repr

/-- A load that has issued and has not returned (08 R226). mark is the number below which every write must be performed
first (08 R228); parts are the pieces of it, one location each, that are still to be performed (08 R224); data holds the
bytes of those that are; ask are the lines of the peer's memory that it has asked for. -/
structure LoadRec where
  id    : Nat
  mark  : Nat
  dest  : LoadDest
  parts : List Part
  data  : List Byte
  spec  : Bool
  ask   : List PeerAsk
  deriving DecidableEq, Repr

/-- The piece of a write that lies in one location (08 R224, R226, R229); a write of several has several, all of the
same id. left is its number once it has left the store queue. appended marks bytes that an append writes beyond the
committed length of its window (08 R240). coreDone and islandDone record the scopes that caches have performed; seen
names the cores of the island whose loads have returned it from a SHARED copy (08 R225). -/
structure StoreRec where
  id         : Nat
  left       : Nat
  part       : Part
  data       : List Byte
  signal     : Bool
  appended   : Bool
  coreDone   : Bool
  islandDone : Bool
  seen       : List CoreId
  deriving DecidableEq, Repr

/-- An atomic that has issued (15 R421). cmp is the compared value of an ACAS. -/
structure AtomicRec where
  id      : Nat
  part    : Part
  wide    : Bool
  op      : BitVec 4
  cas     : Bool
  operand : Word
  cmp     : Word
  signal  : Bool
  dest    : Option (Fin 32)
  sent    : Bool
  deriving DecidableEq, Repr

/-- A place of the store queue (08 R226, R231). -/
inductive SqEntry
  | write (r : StoreRec)
  | atomic (a : AtomicRec)
  | mark (id : Nat)
  | rel (id : Nat) (scope : Nat)
  deriving DecidableEq, Repr

/-- A line of an L1 or of an island cache (07 R192, R217). tag is the physical address divided by 64. -/
structure Line where
  tag   : Nat
  ver   : BitVec 4
  priv  : Bool
  dirty : Bool
  data  : BitVec 512
  deriving DecidableEq, Repr

/-- A line of an instruction cache or of an island instruction buffer (07 R192). tag is the virtual address divided
by 64. -/
structure ILine where
  tag  : Nat
  asid : BitVec 16
  data : BitVec 512
  deriving DecidableEq, Repr

/-- A translation held by a TLB: the page of 2^bits bytes at va, its leaf and the physical address of the leaf's entry
(07 R205, R207). -/
structure TlbEntry where
  fetch : Bool
  asid  : BitVec 16
  va    : Nat
  bits  : Nat
  leaf  : Word
  pa    : Nat
  pte   : Nat
  deriving DecidableEq, Repr

/-- A claimed page of the page-owner directory (07 R214, R216). -/
structure OwnedPage where
  pa    : Nat
  bits  : Nat
  owner : Nat
  pte   : Nat
  deriving DecidableEq, Repr

/-- A replayable page fault that has no answer yet, with the access that it stopped (10 R291). record is its sequence
number once it is posted (10 R287). -/
structure Replay where
  record : Option (BitVec 32)
  va     : VAddr
  kind   : WalkKind
  answer : Option Bool
  deriving DecidableEq, Repr

/-! ### Synchronisation -/

/-- A ring of a core (09 R245, R247): the descriptor, the slots that are FILLED, and the cores that wait in RCLAIM in
their order of arrival. -/
structure Ring where
  desc    : Word
  filled  : BitVec 256
  waiters : List CoreId
  deriving DecidableEq, Repr

/-- A barrier (09 R251). -/
structure Barrier where
  exp  : Nat
  arr  : Nat
  pend : Int
  used : Bool
  deriving DecidableEq, Repr

/-- The progress of a WAITA whose result goes to A[d] (09 R257): not started, registered at a line, woken, or, at a
location of the peer's memory, asked of its home slice by request n and answered with a status. -/
inductive WaitaState
  | none | registered (line : Nat) (d : Fin 32) | woken (d : Fin 32) | asked (n pa : Nat) (d : Fin 32)
  | answered (d : Fin 32) (status : Nat)
  deriving DecidableEq, Repr

/-- The progress of a SCDEC.WAIT, whose status goes to A[d], in the FIFO of an object (09 R263): not queued, queued, or
ended with a status. -/
inductive ScWait
  | none | queued (obj : Nat) (d : Fin 32) | ended (d : Fin 32) (status : Nat)
  deriving DecidableEq, Repr

/-- A split counter (09 R260 to R264): the home reserve, the bound ASID, each holder's allowance, each active holder's
share hint, the waiting requests, and the holder last recalled. -/
structure SplitCounter where
  res    : Nat
  bound  : Option (BitVec 16)
  allow  : Table Nat
  hints  : Table Nat
  fifo   : List (Nat × Nat)
  last   : Nat
  deriving DecidableEq, Repr

/-- An entry of a monitor table: a line, the cores of this card that wait and the peer's that do (09 R258). -/
structure Monitor where
  line    : Nat
  waiters : List CoreId
  peers   : List (Fin 64)
  deriving DecidableEq, Repr

/-! ### Speculation, V, M and P -/

/-- What the streams of a task restore when a speculative round is discarded (12 R349). -/
structure SpecSnap where
  x   : Vector Word 64
  pr  : BitVec 8
  lc  : Vector (BitVec 32) 4
  a   : Vector VAddr 32
  k   : Vector (BitVec 256) 8
  ret : Vector (List Word) 5
  pc  : Word
  deriving DecidableEq, Repr

/-- A round that the S-stream has closed and the A-stream has not (12 R347): committed to iteration l, with the STOP of
its ACCEPT entry, or aborted. applied is true once a drain has applied it. -/
structure Closing where
  round   : Round
  commit  : Bool
  l       : Nat
  stop    : Bool
  applied : Bool
  deriving DecidableEq, Repr

/-- Speculative mode (12 R341 to R347): the round that each stream is in, what a discard of the S-stream's round
restores, the mark that the next shared control word's entry takes, and the rounds that the A-stream has still to
close, oldest first. -/
structure Spec where
  rounds   : Vector (Option Round) 5
  snap     : Option SpecSnap
  arm      : SteerMark
  closings : List Closing
  deriving DecidableEq, Repr

/-- Of the issue of a V-word or a P-word: the round that it belongs to in speculative mode, how often the V-stream had
stalled (06 R185), and the number of its free values. -/
structure IssueTag where
  round  : Option Word
  stalls : Nat
  free   : Nat
  deriving DecidableEq, Repr

/-- A result of a V-word or of a P-word that has issued and not landed: the bytes it writes to register space or the
banks, the bits of mask registers it writes with their values, the flags it raises, and its queue pushes (06 R184,
R185). -/
structure Pending where
  due    : Nat
  regs   : List (Nat × List Byte)
  banks  : List (Nat × List Byte)
  masks  : List (Nat × BitVec 256 × BitVec 256)
  flags  : BitVec 7
  qs     : List (Fin 4 × Seg)
  qvs    : List Word
  qpa    : List Seg
  tag    : IssueTag
  deriving DecidableEq, Repr

/-- One level of a nest table (14 R394, 17 R476). -/
structure NestLevel where
  count : BitVec 16
  sa    : BitVec 32
  sb    : BitVec 32
  sc    : BitVec 32
  deriving DecidableEq, Repr

/-- A region of staging that MPIN holds (17 R483). -/
structure Pin where
  slice : Nat
  off   : Nat
  len   : Nat
  deriving DecidableEq, Repr

/-- What an M-word forms its writes from, so that they can be formed again from what a racing V-word has written
meanwhile (17 R487): a step of a tile command with its format word, offsets, ACC and the NBV in force; MSCALE with the
places of its factors; MDRAIN with its output format and destination, in staging or not; MROWMASK with its bytes' place;
or nothing in register space. -/
inductive MWork
  | none
  | tile (w : Word) (f : MFields) (ao bo ci : Nat) (acc nbv : Bool)
  | scale (f : MFields) (rows cols : Nat)
  | drain (f : MFields) (out base : Nat) (stage : Bool)
  | rowMask (base : Nat)
  deriving DecidableEq, Repr

/-- An M-word that has issued and not completed (17 R467, R485): what it writes to register space and to staging, its
signal, the lines it holds pinned while it runs, the regions of the pin table that it releases, its address and command
index, and, for a tile command, the linear index of its step, what a rerun of it needs, the cycles that it occupies the
array, and CYCLE when it began. work is what it forms its writes from, and raced holds what V-words have written to
register space while it runs, oldest first: the place, the bytes before and the bytes after (17 R487). round is its
speculative round. landed is true once its writes stand and only its signal is left. -/
structure TileCmd where
  tile   : Bool
  work   : MWork
  raced  : List (Nat × List Byte × List Byte)
  round  : Option Word
  regs   : List (Nat × List Byte)
  stage  : List (Nat × List Byte)
  token  : Option (Fin 16)
  reads  : List Pin
  unpin  : List Pin
  pc     : Word
  cidx   : Word
  step   : BitVec 32
  rerun  : Bool
  array  : Nat
  since  : Word
  landed : Bool
  deriving DecidableEq, Repr

/-- An MNEST that runs: its format word, the counters and the linear index of the step that it ran last, and the regions
of the pin table that hold lines it has fetched (17 R477, R478, R484). -/
structure NestRun where
  format   : Word
  counters : Vector (BitVec 16) 6
  linear   : Nat
  touched  : List Pin
  deriving DecidableEq, Repr

/-- The matrix state of a task (17; 10 R301 to R303). sinceTest counts tile commands since the last self-test, ran those
since launch and written the register-space ranges of those since the last passed test; testDue and testing tell that a
self-test is due and runs, tested that the first has run; mtest is the MTEST whose test runs, with the signal that it
gives after the test. sfirst and slast are the first and last tile command since the last passed test; again is that
command when it can be rerun. -/
structure MState where
  rm       : BitVec 192
  active   : Vector NestLevel 6
  shadow   : Vector NestLevel 6
  cmd      : Option TileCmd
  nest     : Option NestRun
  pins     : List Pin
  sinceTest : Nat
  testDue  : Bool
  testing  : Bool
  testAt   : Word
  tested   : Bool
  mtest    : Option TileCmd
  sfirst   : Option (Word × BitVec 32)
  slast    : Option (Word × BitVec 32)
  again    : Option TileCmd
  ran      : Nat
  written  : List (Nat × Nat)
  suspect  : Option TrapInfo
  deriving DecidableEq, Repr

/-! ### The task on a core -/

/-- The registers of a task that no stream's own structure holds (06 R179, R182; 10 R279 to R282; 14 R392). -/
structure Csrs where
  tvec     : Word
  tcause   : Word
  trecSlot : BitVec 6
  act      : BitVec 2
  inHandler : Bool
  dbLost   : Bool
  win      : Nat
  nbv      : Bool
  vwv      : Word
  vwt      : Word
  vwa      : Word
  vlc      : BitVec 12
  vflags   : BitVec 7
  sti      : BitVec 16
  cycle    : Word
  stretch  : Word
  taskId   : BitVec 32
  varidx   : Fin 4
  specStop : Vector (BitVec 33) 4
  bbase    : BitVec 4
  bdepth   : BitVec 5
  arrived  : BitVec 16
  deriving DecidableEq, Repr

/-- The energy account of a task (04 R112 to R116). work is the sum of c × V² over its counted events; jmem is in pJ. -/
structure Account where
  work     : Nat
  jmem     : Word
  cal      : BitVec 32
  settled  : Nat
  reserved : Nat
  deriving DecidableEq, Repr

/-- Which task of which kernel (05 R131). -/
structure TaskRef where
  kernel : Nat
  task   : Nat
  deriving DecidableEq, Repr

/-- A variant entry of a launch record (04 R120). -/
structure Variant where
  entry : BitVec 32
  cls   : BitVec 3
  valid : Bool
  omask : Word
  oval  : Word
  deriving DecidableEq, Repr

/-- The trap that the handler handles (10 R284, R286). -/
structure Handling where
  info   : TrapInfo
  rpc    : Word
  ended  : Bool
  spec   : Bool
  ret    : List Word
  deriving DecidableEq, Repr

/-- The A-stream's accesses in flight (08 R226 to R231). lost holds the writes that were not acknowledged when the
bridge went down (02 R61). lastMark is the number below which every write is before the last MARK or atomic issued; ask
are the lines of the peer's memory that the word at hand has asked for, and now the locations that it has read itself.
ringWait is the ring that a waiting RCLAIM or RWAITF names; true marks one that has been disabled meanwhile (09 R249).
-/
structure AQueues where
  loads    : List LoadRec
  stores   : List SqEntry
  inflight : List StoreRec
  lost     : List StoreRec
  waita    : WaitaState
  scWait   : ScWait
  replay   : Option Replay
  lastMark : Nat
  ask      : List PeerAsk
  now      : List (Nat × List Byte)
  ringWait : Option (CoreId × Nat × Bool)
  deriving DecidableEq, Repr

/-- The yield sequence of a task (10 R296): none, a request pending, the save sequence running to its taken YIELD, or
the restore sequence running, with a request pending where asked is true. resume is the word after the YIELD. -/
inductive YieldPhase
  | none | asked | taken (save restore resume : Word) | saving (restore resume : Word)
  | restoring (resume : Word) (asked : Bool)
  deriving DecidableEq, Repr

/-- A trigger point not yet reported (14 R398): the held steering entries before it and its address, and the stamp at
which the A-stream passed it, none while it has not. -/
structure TriggerPoint where
  entries : Nat
  pc      : Word
  stamp   : Option Nat
  deriving DecidableEq, Repr

/-- All that belongs to a task while it runs and that a save keeps (06 R182; 10 R294). barFile is the file and the first
barrier of the task's group. fmtPushed counts the format words pushed, and fmtFirst gives for a variant the count before
its first word (04 R125). launched is the variant with which the task launched (04 R111). trigger is a trigger point not
yet reported, and triggered tells that the task has executed TRIGGER (14 R398). vcyc counts the cycles of the V-stream,
and vstall is the model's own: how often it has stalled while results were on their way (06 R185). ahead holds the CSR
words and the TRIGGER words that streams have passed before the S-stream came to them, each with the stamp, or the
command index of the M-stream, at that time (06 R186). warn is a deferred THROTTLE-WARN. -/
structure Ctx where
  task     : TaskRef
  asid     : BitVec 16
  context  : ContextId
  system   : Bool
  entry    : Word
  atEntry  : Bool
  streams  : Vector StreamState 5
  steer    : List SteerEntry
  x        : Vector Word 64
  pr       : BitVec 8
  lc       : Vector (BitVec 32) 4
  a        : Vector VAddr 32
  aBusy    : List (Fin 32)
  k        : Vector (BitVec 256) 8
  rl       : Vector VAddr 8
  args     : Vector Word 6
  variants : Vector Variant 4
  launched : Fin 4
  csr      : Csrs
  q        : Queues
  tokens   : Vector (BitVec 8) 16
  slm      : Memory
  windows  : Vector (Vector Word 3) 4
  aq       : AQueues
  spec     : Spec
  vcyc     : Nat
  vstall   : Nat
  vpend    : List Pending
  m        : MState
  pmode    : BitVec 4
  ppend    : List Pending
  acct     : Account
  handling : Option Handling
  warn     : Option TrapInfo
  barFile  : Option (Nat × Nat)
  fmtPushed : Nat
  fmtFirst  : List (Nat × Nat)
  trigger   : Option TriggerPoint
  triggered : Bool
  ahead     : List (Stream × Word × Nat)
  yieldPhase : YieldPhase
  deriving DecidableEq, Repr

/-- A stop that waits for its capture (10 R274, R276). -/
structure Stop where
  info : TrapInfo
  deriving DecidableEq, Repr

/-- A save entry's mode for the stop in progress (10 R293, R297). -/
inductive SaveMode
  | dump | yieldMode | fellBack
  deriving DecidableEq, Repr

/-- The firmware context of a tile core (03 R94): whether layer 3 runs in it, its state, which is the task's state while
a word of it runs, and which of the last 63 S issue slots in which it had work it took, newest first. -/
structure FirmwareCtx where
  running : Bool
  ctx     : Ctx
  slots   : List Bool
  deriving DecidableEq, Repr

/-- What an engine's work keeps of its memory accesses: the lines of the peer's memory that it has asked for, by the
number of the request, the lines that the peer answered, its writes that the peer has not acknowledged with their bytes,
its atomics that the peer has not answered, the locations that its transfer has read, by physical address, and how many
it has written (08 R224), and the energy events of 04 R114 that go to the task at the end: Σ c × V²
and pJ of transactions. An atomic with a value is the compare and swap that takes an index of a journal, and old is its
answer: the value that it compared with and the one that it found (12 R337). -/
structure EngIo where
  ask   : List (Nat × Nat)
  got   : List (Nat × BitVec 512)
  seen  : List (Nat × List Byte)
  put   : Nat
  out   : List (Nat × Nat)
  atoms : List (Nat × Option Nat)
  old   : Option (Nat × Nat)
  work  : Nat
  jmem  : Nat
  deriving DecidableEq, Repr

/-- A core: a tile core or a dispatch core (06; 10 R281, R302). regs is register space, banks the sum-product banks, by
offset; the scratchpad lies in physical memory (07 R194). The fresh and dirty bits are those of 06 R182 and
10 R295. stop is the stop that waits for its capture, and preempt tells of a PREEMPT behind it (10 R276). fills is the
model's own: it counts what makes a line of the peer's memory that was asked for earlier too old to enter the L1. jio
holds the accesses of the S-stream's word to a journal in the peer's memory (12 R339). -/
structure Core where
  busy     : Bool
  ctx      : Ctx
  regs     : Memory
  banks    : Memory
  freshRegs    : BitVec 4352
  freshScratch : BitVec 1024
  freshBanks   : BitVec 64
  dirtyRegs    : BitVec 1088
  dirtyScratch : BitVec 256
  l1       : List Line
  ver      : BitVec 4
  fills    : Nat
  tlb      : List TlbEntry
  itlb     : List TlbEntry
  icache   : List ILine
  rings    : Vector Ring 32
  scCache  : List Nat
  fence    : BitVec 4
  fwshare  : BitVec 3
  fw       : FirmwareCtx
  offline  : Bool
  stop     : Option Stop
  latched  : Option (BitVec 2048)
  blocked  : Bool
  preempt  : Bool
  exclude  : Option Nat
  lastTask : Option (TaskRef × ContextId)
  dbSlot   : BitVec 512
  dbMask   : BitVec 64
  dbOut    : List (BitVec 512)
  dbSent   : List (BitVec 512)
  ir       : Parcel
  emBusy   : Bool
  emValid  : Bool
  emBase   : BitVec 25
  jio      : EngIo
  deriving DecidableEq, Repr

/-! ### Islands and the governor -/

/-- An island (01 R28; 04 R96 to R110; 07 R217). need is N of 04 R109, signed; total is the island's exact total, and
slot the part of it that the dispatcher's reservation slot holds as its allowance (04 R108; 09 R269).
downForced marks a step-down toward a new OPMAX; esc is the escalated task with its cost and what it has reserved. fills
is the model's own, as that of a core. -/
structure Island where
  powered : Bool
  cache   : List Line
  ver     : BitVec 4
  fills   : Nat
  tlb     : List TlbEntry
  ibuf    : List ILine
  barriers : Vector Barrier 64
  weight  : BitVec 8
  gfix    : BitVec 8
  opmin   : BitVec 4
  opmax   : BitVec 4
  newCfg  : Option (BitVec 8 × BitVec 8 × BitVec 4 × BitVec 4)
  op      : BitVec 4
  opNext  : Option (BitVec 4)
  downPend : Bool
  downForced : Bool
  grant   : Nat
  debt    : Nat
  total   : Nat
  slot    : Nat
  totalAt : Nat
  cal     : BitVec 32
  mmeter  : Nat
  warns   : BitVec 16
  need    : Int
  esc     : Option (TaskRef × Nat × Nat)
  deriving DecidableEq, Repr

/-- The governor (04 R98 to R106). begun tells that a boundary has passed; charged holds what was charged in each
interval of the last second, newest first. -/
structure Governor where
  gint     : Nat
  plimit   : Nat
  hubres   : BitVec 8
  memres   : BitVec 8
  newCtl   : Option (Nat × Nat × BitVec 8 × BitVec 8)
  ecost    : Word
  newEcost : Option Word
  begun    : Bool
  epoch    : BitVec 32
  cb       : Nat
  envelope : Bool
  charged  : List Int
  deriving DecidableEq, Repr

/-! ### Command interface -/

/-- A command as its completion record returns it (03 R87). -/
structure Command where
  opcode : BitVec 8
  slot   : BitVec 8
  tag    : BitVec 16
  cookie : BitVec 32
  notify : Bool
  deriving DecidableEq, Repr

/-- A completion record on its way to its ring: the record, whether an MSI-X message follows it, and the number of the
packet that it completes, 0 for none (03 R87 to R89). -/
structure HeldRecord where
  bytes  : BitVec 256
  notify : Bool
  num    : Nat
  deriving DecidableEq, Repr

/-- An entry of the context table with the context's command window and FIFO (02 R45 to R47; 03 R73). pendingCmds are
the packets handled whose record is not written, by number; fences are the FENCE packets that wait for those before
them. disabling is true from a disable until its last record is written (03 R75). -/
structure Context where
  enable     : Bool
  assignFail : Bool
  func       : BitVec 4
  asid       : BitVec 16
  log2size   : BitVec 4
  cbase      : BitVec 36
  cprod      : BitVec 16
  ccons      : BitVec 16
  vector     : BitVec 11
  held       : List HeldRecord
  stage      : BitVec 512
  mask       : BitVec 64
  fifo       : List (BitVec 512)
  overrun    : Bool
  discards   : BitVec 16
  pendingCmds : List Nat
  fences     : List (Nat × Command)
  disabling  : Bool
  saveMode   : Bool
  noMid      : Bool
  saveOff    : BitVec 52
  saveRegion : BitVec 8
  saveSlots  : BitVec 32
  slotsUsed  : List (Nat × TaskRef)
  deriving DecidableEq, Repr

/-- A resident-model slot (03 R76). -/
structure Slot where
  resident : Bool
  owner    : BitVec 4
  refs     : BitVec 16
  wsize    : BitVec 20
  template : BitVec 40
  textBase : BitVec 43
  wbase    : BitVec 27
  deriving DecidableEq, Repr

/-- An armed launch (03 R81): the record after the checks of 03 R80, its relocation values and its packet. -/
structure Armed where
  context : ContextId
  tag     : BitVec 16
  record  : BitVec 2048
  rl      : Vector VAddr 8
  fclass  : BitVec 2
  rearm   : Bool
  cmd     : Command
  deriving DecidableEq, Repr

/-- Where a kernel comes from: a packet of a context, or a launch job (05 R139). -/
inductive Origin
  | packet (context : ContextId) (cmd : Command) (num : Nat)
  | job (num : Nat)
  deriving DecidableEq, Repr

/-- A launch record between the front end and the dispatcher: held for a frequency class, or handed to the dispatch
firmware (03 R86; 05 R151). op is the operating point that its frequency class asks for; relocOk is false for the
block of a launch job with a relocation value above region 0xEF (15 R432). -/
structure Handed where
  kernel : BitVec 32
  record : BitVec 2048
  rl     : Vector VAddr 8
  slot   : Fin 64
  context : ContextId
  origin : Origin
  op     : Option (BitVec 4)
  relocOk : Bool
  deriving DecidableEq, Repr

/-! ### The dispatcher -/

/-- A level entry of a launch record (05 R129). -/
structure Level where
  extent : Nat
  domain : Nat
  scope  : Nat
  gang   : Bool
  bdepth : Nat
  deriving DecidableEq, Repr

/-- A footprint entry of a launch record (05 R130). -/
structure Footprint where
  reg     : Fin 8
  write   : Bool
  level   : Nat
  strided : Bool
  offset  : Int
  len     : Nat
  log2    : Nat
  deriving DecidableEq, Repr

/-- The bytes that a footprint covers: a region and [lo, hi) of its offsets (05 R141). -/
structure FpRange where
  write  : Bool
  region : Nat
  lo     : Nat
  hi     : Nat
  deriving DecidableEq, Repr

/-- A launch record (05 R128). -/
structure LaunchRecord where
  early    : Bool
  persist  : Bool
  subst    : Bool
  lvar     : Fin 4
  queue    : BitVec 12
  asid     : BitVec 16
  cookie   : BitVec 32
  maxdur   : Nat
  levels   : List Level
  variants : Vector Variant 4
  foots    : List Footprint
  args     : Vector Word 6
  deriving DecidableEq, Repr

/-- Where a task that has started is (05 R131; 10 R299): resident on a core, or saved. -/
inductive TaskPlace
  | resident (c : Fin 64)
  | saved
  deriving DecidableEq, Repr

/-- A task that has started and not ended. saveSlot is the task's save slot of its context's area, once it has one
(10 R293). -/
structure LiveTask where
  task     : Nat
  place    : TaskPlace
  saveSlot : Option Nat
  deriving DecidableEq, Repr

/-- A saved task (10 R294, R299). What its slot holds is read back from memory; ctx and rings keep the rest of its
state. base is the slot's address and switchAt the slot offset at which saving switched to the emergency area of core
emCore, where the pieces emPieces of the save lie, as slot offset and length (10 R298). jobs are those that were
withdrawn (10 R300); hold is its hold count (04 R118). -/
structure SavedTask where
  ref      : TaskRef
  ctx      : Ctx
  rings    : Vector Ring 32
  mode     : SaveMode
  base     : Option VAddr
  switchAt : Option Nat
  emCore   : Option (Fin 64)
  emPieces : List (Nat × Nat)
  jobs     : List Nat
  hold     : Nat
  island   : IslandId
  deriving DecidableEq, Repr

/-- A kernel that the dispatcher holds (05 R131 to R150). Tasks are placed in task order, so those below next have
started and those among them that are not live have ended. status is fixed by the first fault, timeout or token.
binds holds (level, group, instance) of bound groups; bars holds (group, file, first, depth) of allocated barriers;
prods holds the core, 64 for a job, and the footprints of the tasks and jobs that come before the kernel's tasks in the
dispatch order and have ended (05 R143). holds gives the hold counts of its tasks that have not started (04 R118). -/
structure Kernel where
  num       : BitVec 32
  slot      : Fin 64
  record    : LaunchRecord
  rl        : Vector VAddr 8
  context   : ContextId
  origin    : Origin
  hwq       : Nat
  next      : Nat
  live      : List LiveTask
  status    : Option Nat
  ran       : Nat
  joules    : Word
  binds     : List (Nat × Nat × Nat)
  bars      : List (Nat × Nat × Nat × Nat)
  prods     : List (Nat × List FpRange)
  holds     : List (Nat × Nat)
  triggered : List Nat
  fatal     : Bool
  cancelled : Bool
  deriving DecidableEq, Repr

/-- A task whose account waits for its settlement (04 R115): the island it ran on; last is true when the task has
ended. -/
structure Settling where
  ref    : TaskRef
  island : IslandId
  acct   : Account
  last   : Bool
  deriving DecidableEq, Repr

/-- An entry of the hardware queues (05 R147). -/
structure HwQueue where
  swq       : BitVec 12
  mapped    : Bool
  frozen    : Bool
  unmapping : Bool
  tickets   : BitVec 16
  deriving DecidableEq, Repr

/-- A journal entry of the dispatch firmware (05 R152). -/
structure JournalEntry where
  seq    : BitVec 32
  type   : Nat
  hwq    : Nat
  swq    : Nat
  kernel : BitVec 32
  arg    : Nat
  arg2   : Nat
  deriving DecidableEq, Repr

/-- The dispatch firmware and the dispatcher's registers (05 R148 to R156; 03 R93). order is the dispatch order of
kernels and jobs, oldest first. numbers are the kernel numbers of 05 R153. front is the context whose packet the front
end handled last. ended holds the ASID, core and footprints of every task and job that has ended, 64 for a job (05
R143). thaw holds the frozen hardware queues whose kernel's record is not yet written, with its context and SEQ,
thawJobs those whose launch job's record is not yet posted, with the job's number, and freezes the queues whose freeze
the firmware has not journalled yet (05 R150, R152). jlast is the image that the last CHECKPOINT names and jlog the
entries after it (05 R154). -/
structure Dispatch where
  drawMode  : Bool
  seed      : BitVec 32
  xstate    : BitVec 32
  hwqs      : Vector HwQueue 64
  kicks     : List Nat
  handed    : List Handed
  holds     : List Handed
  kernels   : List Kernel
  order     : List (Bool × Nat)
  saved     : List SavedTask
  nextKernel : BitVec 32
  numbers   : List (BitVec 32)
  log2n     : BitVec 5
  jbase     : BitVec 36
  jwrite    : Nat
  jimage    : Nat
  jlog      : List JournalEntry
  primary   : Bool
  standbyOk : Bool
  takeover  : Bool
  takeovers : BitVec 16
  heldDone  : List (ContextId × HeldRecord)
  front     : Nat
  ended     : List (BitVec 16 × Nat × List FpRange)
  thaw      : List (Nat × ContextId × BitVec 32)
  thawJobs  : List (Nat × Nat)
  freezes   : List Nat
  jlast     : Option Nat
  deriving DecidableEq, Repr

/-! ### Engines -/

/-- A journal entry without its index (12 R338). -/
structure JEntry where
  seq   : BitVec 32
  kind  : Nat
  flags : Nat
  iter  : Nat
  sib   : Nat
  step  : Nat
  value : Nat
  deriving DecidableEq, Repr

/-- The entries that an event has still to write to a journal, and the index that it has taken for the first of them
(12 R337). -/
structure JPut where
  todo  : List JEntry
  index : Option Nat
  deriving DecidableEq, Repr

/-- An ACCEPT or a DISCARD that a core writes to a journal whose header lies in the peer's memory: the core, its task
and ASID, the header's address, the entry, and its accesses (12 R337, R347, R349). func is the function
of its requests to the host; put is none while the header has not been read. -/
structure JWrite where
  core  : CoreId
  task  : TaskRef
  asid  : BitVec 16
  func  : BitVec 4
  hdr   : Nat
  entry : JEntry
  put   : Option JPut
  io    : EngIo
  deriving DecidableEq, Repr

/-- The progress of a job (15 R428 to R434; 10 R300). -/
inductive JobPhase
  | waiting
  | running
  | stalled
  | entered (kernel : BitVec 32)
  | withdrawn
  | done
  deriving DecidableEq, Repr

/-- A job (15 R427 to R434). fence is the number of the submitting core's first store that the job need not wait for (08
R237). phase tells its progress; row and col are those of the next chunk; moved counts the bytes the job has written;
buf holds the source of a collective job and the index array of a gather job, and matched tells that a collective one
has met the peer's job. ending tells that the job is cancelled at the end of its chunk (10 R275). engine is its agent
code. kept tells that the job was there when a yield sequence of its task began: its record waits for the sequence's end
(10 R296). -/
structure Job where
  num     : Nat
  task    : TaskRef
  core    : CoreId
  asid    : BitVec 16
  context : ContextId
  card    : BitVec 512
  cardVa  : VAddr
  bar     : Option (Nat × Nat)
  fence   : Nat
  phase   : JobPhase
  engine  : Nat
  row     : Nat
  col     : Nat
  moved   : Nat
  status  : Nat
  replay  : Option Replay
  io      : EngIo
  matched : Bool
  buf     : List Byte
  ending  : Bool
  kept    : Bool
  deriving DecidableEq, Repr

/-- A draw that has been decided (12 R329, R330): its reply, the values of its TIE entries, whether it failed, its
sequence number, and what it has still to write to the journal, none while the journal's header has not been read. -/
structure DrawRecord where
  reply : Nat
  ties  : List Nat
  broke : Bool
  seq   : BitVec 32
  put   : Option JPut
  deriving DecidableEq, Repr

/-- A sample request (12 R328 to R330). drawn counts the draws that have replied; bad is set once a failure was found;
engine is the sampler engine that has taken it. cancelled tells that system software has cancelled it; decided is what a
draw whose reply has not entered the queue has come to. kept tells that the request was there when a yield sequence of
its task began. -/
structure Sample where
  num    : Nat
  task   : TaskRef
  core   : CoreId
  asid   : BitVec 16
  desc   : BitVec 512
  cardVa : VAddr
  specN  : Option Nat
  fence  : Nat
  engine : Option (Fin 4)
  drawn  : Nat
  bad    : Bool
  cancelled : Bool
  decided   : Option DrawRecord
  replay : Option Replay
  io     : EngIo
  kept   : Bool
  deriving DecidableEq, Repr

/-- A byte of memory that an append wrote beyond the committed length of its window and no SPECCOMMIT has covered: its
physical address, its virtual address in its ASID, and the values that it had before, newest first (08 R240). -/
structure Loose where
  pa   : Nat
  asid : BitVec 16
  va   : VAddr
  old  : List Byte
  deriving DecidableEq, Repr

/-- A staging slice's owner (07 R199). pinned lines are those of MPIN regions and of running tile commands. -/
structure Slice where
  owner : Option (BitVec 16)
  scrub : Bool
  deriving DecidableEq, Repr

/-! ### Package, boot, links -/

/-- The thermal contract in force (01 R25, R26): sustained watts, one-second envelope watts, junction limit. -/
structure Contract where
  sustained : Nat
  envelope  : Nat
  junction  : Nat
  deriving DecidableEq, Repr

/-- A flash record: the copy in force and the copy that an update writes (01 R18, R38). -/
structure FlashRecord where
  current : List Byte
  other   : List Byte
  deriving DecidableEq, Repr

/-- An operation of the update mailbox that runs (01 R37, R38): the record number and the bytes that a WRITE has checked
and will write, if there are any, and the RESULT that it will end with. reboot tells of a full reset, which ends when
layer 0 starts. -/
structure MailOp where
  write  : Option (Nat × List Byte)
  result : BitVec 4
  reboot : Bool
  deriving DecidableEq, Repr

/-- The always-on domain (01 R19 to R38). cdi is the CDI of the highest layer started, since each layer erases its own
before it transfers control (01 R32); keys are the public keys of the device identity and of the layers started, and
measures the measurements of their images, layer 0 first. trims holds each island's voltage trim in mV at each operating
point, and seeds the training seeds of the memory controllers (01 R29). umop is the mailbox operation that runs. -/
structure Package where
  connector : Nat
  bmcLimit  : Option Nat
  contract  : Contract
  partFence : Vector (BitVec 4) 64
  serial    : Word
  trims     : Vector (Vector Int 16) 16
  seeds     : List Byte
  layer     : BitVec 3
  bootDone  : Bool
  cause     : BitVec 4
  contractDefault : Bool
  cdi       : List Byte
  keys      : List (List Byte)
  measures  : List (List Byte)
  flash     : Vector FlashRecord 16
  umaddr    : Word
  umresult  : BitVec 4
  umdone    : BitVec 32
  umop      : Option MailOp
  bmcAlert  : Bool
  deriving DecidableEq, Repr

/-- A collective job that the peer holds and this card has not matched (02 R65 to R68). -/
structure Collective where
  ctag  : BitVec 16
  op    : Nat
  fmt   : Nat
  count : Nat
  deriving DecidableEq, Repr

/-- The host link and the bridge (02). up is true but while the bridge is down (R61), and trained is UP of BRIDGESTAT.
card is true on card 1, and wide tells that 16 lanes are active. chunks holds the collective chunks that have arrived
and are not yet reduced: tag, number, data. bar2 is the base-2 logarithm of the size of BAR 2 (R42). -/
structure Links where
  hostBase   : BitVec 52
  bar2       : Nat
  misroute   : Vector Bool 16
  misroutes  : Vector (BitVec 16) 16
  up         : Bool
  paired     : Bool
  card       : Bool
  wide       : Bool
  replays    : BitVec 16
  trained    : Bool
  peerColl   : List Collective
  chunks     : List (BitVec 16 × Nat × List Byte)
  deriving DecidableEq, Repr

/-- An invalidation that waits for its holders (07 R210): the core whose word waits, the first access that it need not
wait for, the physical pages whose translations it removed, as address and bits of size, the leaf that RECLASS read with
its address (14 R401), and whether it has completed. -/
structure Inval where
  core  : CoreId
  stamp : Nat
  pages : List (Nat × Nat)
  leaf  : Option (Nat × Word)
  done  : Bool
  deriving DecidableEq, Repr

/-- What the part has sent to the outside world, newest first. hostRequest is a request to host memory with its
requester ID, the function of the context that it is made for (02 R41). -/
inductive Sent
  | msix (f : BitVec 4) (vector : BitVec 11)
  | hostRequest (f : BitVec 4) (write : Bool) (bus n : Nat)
  | readData (data : List Byte)
  | readFailed
  | atomicOld (old : Word)
  | bmcAlert
  | evidence (data : List Byte)
  | bridgeLoad (c : CoreId) (k pa n : Nat)
  | bridgeStatus (c : Fin 64) (status : Nat)
  | bridgeStore (c : CoreId) (n pa : Nat) (data : List Byte) (signal : Bool)
  | bridgeAtomic (k : Nat) (m : BridgeAtomic)
  | bridgeReply (data : List Byte)
  | bridgeAck
  | bridgeOld (old : Word)
  | bridgeError
  | packet (c : CoreId) (p : BitVec 512)
  | chunk (ctag : BitVec 16) (i : Nat) (data : List Byte)
  | matching (ctag : BitVec 16) (op fmt count : Nat)
  | cancelled (ctag : BitVec 16)
  deriving DecidableEq, Repr

/-! ### The machine -/

/-- The model's own: a choice of what moves next. A word of a stream of a core, an event, n stalled cycles of a core's
task, an issue slot of the firmware context of a tile core, a read of a register or of a command window, a new size of
BAR 2 through its Resizable BAR capability, 2^log2 bytes, or a write of the host's own to host memory. -/
inductive Turn
  | stream (c : CoreId) (st : Stream)
  | event (i : Instr)
  | stall (c : CoreId) (n : Nat)
  | firmware (c : Fin 64)
  | registerRead (w : Writer) (off size : Nat)
  | resizeBar2 (log2 : Nat)
  | hostStore (a : Word) (data : List Byte)
  deriving DecidableEq, Repr

/-- The state of one card. The last fields from cur on are the model's own: the core and the stream whose word runs, the
events that the outside world has still to deliver, the choices of what moves next, the counter of the free values, and
the external transactions of walks and write-backs that are not yet charged to the access that caused them (04 R114).
loose holds the appended bytes that nothing orders (08 R240). yields holds the tasks whose yield-mode save or restore
sequence runs (10 R296). home holds the lines that each home slice caches, by line number with a mark for dirty ones,
newest first; their bytes are those of mem, which a home slice never lags behind (07 R195). -/
structure State where
  cores    : Vector Core 66
  islands  : Vector Island 16
  gov      : Governor
  pkg      : Package
  links    : Links
  contexts : Table Context
  slots    : Vector Slot 64
  armed    : List Armed
  fclassOp : BitVec 12
  disp     : Dispatch
  mem      : Memory
  hostMem  : Memory
  slices   : Vector Slice 64
  astBase  : BitVec 27
  owned    : List OwnedPage
  engTlb   : Vector (List TlbEntry) 26
  home     : Vector (List (Nat × Bool)) 64
  devBars  : Table Barrier
  monitors : List Monitor
  loose    : List Loose
  counters : Table SplitCounter
  jobs     : List Job
  samples  : List Sample
  settling : List Settling
  yields   : List SavedTask
  trapq    : List (BitVec 2048)
  seq      : BitVec 32
  stamp    : Nat
  nextJob  : Nat
  nextCmd  : Nat
  invPend  : List Inval
  jwrites  : List JWrite
  sent     : List Sent
  cur      : CoreId
  curStream : Stream
  inputs   : List Instr
  schedule : List Turn
  rotor    : Nat
  freeCtr  : Nat
  walkFills : Nat
  deriving DecidableEq, Repr

/-! ### Why a step can stop -/

/-- Why the machine stops. Every cause that the spec names is a trap and so a next state (10 R272).
noTask: a meaning of a word was asked to run on a core that holds no task. No step does that: only words of a task are
fetched (06 R163, R182). It is safe: no claim about a running task meets it. -/
inductive Fault
  | noTask
  deriving DecidableEq, Repr

/-- Why an instruction has no meaning here. notModelled: the arm of exec has no meaning for the instruction yet; raised
by such arms only, and safe, since nothing is claimed of the instruction. -/
inductive Refusal
  | notModelled (mnemonic : String)
  deriving DecidableEq, Repr

/-! ### Launch and reset values -/

/-- A stream that is not enabled. -/
def StreamState.off : StreamState := ⟨0, false, false, 0, [], 0, false⟩

/-- The queues of a task at launch: empty (06 R182). -/
def Queues.empty : Queues :=
  { ql := Vector.replicate 8 [], qap := [], qas := [], qs := Vector.replicate 4 [], qsa := [], qvs := [], qb := [],
    fmt := [], qpa := [], reply := [], events := [] }

/-- The CSRs at launch (06 R168, R179; 10 R279 to R282, R301; 11 R322, R326; 12 R344; 16 R445). -/
def Csrs.launch : Csrs :=
  { tvec := 0, tcause := 0, trecSlot := 63, act := 0, inHandler := false, dbLost := false, win := 64, nbv := false,
    vwv := 0x0140800800400000, vwt := 0x0200000800420000, vwa := 0x1555D01800000000, vlc := 1, vflags := 0,
    sti := 4096, cycle := 0, stretch := 0, taskId := 0, varidx := 0, specStop := Vector.replicate 4 0, bbase := 0,
    bdepth := 0, arrived := 0 }

/-- An engine that has accessed nothing. -/
def EngIo.none : EngIo := ⟨[], [], [], 0, [], [], .none, 0, 0⟩

/-- No speculation (12 R342). -/
def Spec.off : Spec := ⟨Vector.replicate 5 none, none, .plain, []⟩

/-- The matrix state at launch (06 R182; 17 R476, R482). -/
def MState.launch : MState :=
  { rm := 0, active := Vector.replicate 6 ⟨0, 0, 0, 0⟩, shadow := Vector.replicate 6 ⟨0, 0, 0, 0⟩, cmd := none,
    nest := none, pins := [], sinceTest := 0, testDue := false, testing := false, testAt := 0,
    tested := false, mtest := none,
    sfirst := none, slast := none, again := none, ran := 0, written := [], suspect := none }

/-- An A-stream with nothing in flight (06 R182). -/
def AQueues.empty : AQueues := ⟨[], [], [], [], .none, .none, none, 0, [], [], none⟩

/-- The registers of a task at launch, with no stream enabled (06 R182). -/
def Ctx.launch : Ctx :=
  { task := ⟨0, 0⟩, asid := 0, context := 0, system := false, entry := 0, atEntry := false,
    streams := Vector.replicate 5 StreamState.off, steer := [], x := Vector.replicate 64 0, pr := 1,
    lc := Vector.replicate 4 0, a := Vector.replicate 32 0, aBusy := [], k := Vector.replicate 8 0,
    rl := Vector.replicate 8 0, args := Vector.replicate 6 0, variants := Vector.replicate 4 ⟨0, 0, false, 0, 0⟩,
    launched := 0, csr := Csrs.launch, q := Queues.empty, tokens := Vector.replicate 16 0, slm := [],
    windows := Vector.replicate 4 (Vector.replicate 3 0),
    aq := AQueues.empty,
    spec := Spec.off, vcyc := 0, vstall := 0, vpend := [], m := MState.launch, pmode := 14, ppend := [],
    acct := { work := 0, jmem := 0, cal := 0x00010000, settled := 0, reserved := 0 }, handling := none, warn := none,
    barFile := none, fmtPushed := 0, fmtFirst := [], trigger := none, triggered := false, ahead := [],
    yieldPhase := .none }

/-- A context of system mode, which is no task of any kernel: ASID 0, the S-stream alone, at address 0 (03 R92, R94; 07
R202; 14 R378; DESIGN CHOICE 16 for the address, 116 for the registers). -/
def Ctx.systemMode : Ctx :=
  { Ctx.launch with
    task := ⟨2 ^ 32, 0⟩
    system := true
    streams := Vector.ofFn fun i => if i.val = 0 then { StreamState.off with enabled := true } else StreamState.off }

/-- A core after reset: no task, every block fresh, every cache empty (00; 03 R95; 07 R217; 09 R246; 10 R298). -/
def Core.reset : Core :=
  { busy := false, ctx := Ctx.launch, regs := [], banks := [], freshRegs := BitVec.allOnes 4352,
    freshScratch := BitVec.allOnes 1024, freshBanks := BitVec.allOnes 64, dirtyRegs := 0, dirtyScratch := 0, l1 := [],
    ver := 0, fills := 0, tlb := [], itlb := [], icache := [], rings := Vector.replicate 32 ⟨0, 0, []⟩,
    scCache := [], fence := 0, fwshare := 2, fw := ⟨false, Ctx.systemMode, []⟩, offline := false,
    stop := none, latched := none, blocked := false, preempt := false, exclude := none,
    lastTask := none, dbSlot := 0, dbMask := 0, dbOut := [], dbSent := [], ir := 0,
    emBusy := false, emValid := false, emBase := 0, jio := EngIo.none }

/-- A dispatch core after reset, in system mode (03 R92). -/
def Core.resetDispatch : Core := { Core.reset with ctx := Ctx.systemMode }

/-- An island after reset (04 R97, R107). -/
def Island.reset : Island :=
  { powered := true, cache := [], ver := 0, fills := 0, tlb := [], ibuf := [],
    barriers := Vector.replicate 64 ⟨0, 0, 0, false⟩,
    weight := 16, gfix := 0, opmin := 0, opmax := 15, newCfg := none, op := 7, opNext := none, downPend := false,
    downForced := false, grant := 0, debt := 0, total := 0, slot := 0, totalAt := 0, cal := 0x00010000,
    mmeter := 0, warns := 0,
    need := 0, esc := none }

/-- The governor after reset (04 R104 to R106). -/
def Governor.reset : Governor :=
  { gint := 100, plimit := 350, hubres := 8, memres := 10, newCtl := none, ecost := 0x1414080503020100,
    newEcost := none, begun := false, epoch := 0, cb := 0, envelope := false, charged := [] }

/-- A context that is not enabled (03 R73). -/
def Context.off : Context :=
  { enable := false, assignFail := false, func := 0, asid := 0, log2size := 0, cbase := 0, cprod := 0, ccons := 0,
    vector := 0, held := [], stage := 0, mask := 0, fifo := [], overrun := false, discards := 0, pendingCmds := [],
    fences := [], disabling := false, saveMode := false, noMid := false, saveOff := 0, saveRegion := 0, saveSlots := 0,
    slotsUsed := [] }

/-- A slot after reset (03 R76). -/
def Slot.reset : Slot := ⟨false, 0, 0, 0, 0, 0, 0⟩

/-- The dispatcher after reset (03 R93; 05 R147, R148, R152). -/
def Dispatch.reset : Dispatch :=
  { drawMode := false, seed := 1, xstate := 1, hwqs := Vector.replicate 64 ⟨0, false, false, false, 1⟩, kicks := [],
    handed := [], holds := [], kernels := [], order := [], saved := [], nextKernel := 0, numbers := [], log2n := 10,
    jbase := 0, jwrite := 0, jimage := 0, jlog := [], primary := false, standbyOk := false,
    takeover := false, takeovers := 0, heldDone := [], front := 1023, ended := [], thaw := [], thawJobs := [], freezes := [],
    jlast := none }

/-- The always-on domain at power-on (01 R35, R37; the default contract of 01 R26). -/
def Package.reset : Package :=
  { connector := 600, bmcLimit := none, contract := ⟨180, 180, 95⟩, partFence := Vector.replicate 64 0, serial := 0,
    trims := Vector.replicate 16 (Vector.replicate 16 0), seeds := [],
    layer := 0, bootDone := false, cause := 0, contractDefault := false, cdi := [], keys := [], measures := [],
    flash := Vector.replicate 16 ⟨[], []⟩, umaddr := 0, umresult := 0, umdone := 0, umop := none,
    bmcAlert := false }

/-- The links after reset (02 R44, R50, R62). -/
def Links.reset : Links :=
  { hostBase := 0, bar2 := 30, misroute := Vector.replicate 16 false, misroutes := Vector.replicate 16 0,
    up := false, paired := false, card := false, wide := false, replays := 0, trained := false,
    peerColl := [], chunks := [] }

/-- The machine right after reset (01 R19). -/
def State.reset : State :=
  { cores := Vector.ofFn fun i => if i.val < 64 then Core.reset else Core.resetDispatch,
    islands := Vector.replicate 16 Island.reset, gov := Governor.reset, pkg := Package.reset, links := Links.reset,
    contexts := [], slots := Vector.replicate 64 Slot.reset, armed := [], fclassOp := 0xF84, disp := Dispatch.reset,
    mem := [], hostMem := [], slices := Vector.replicate 64 ⟨none, false⟩, astBase := 0, owned := [],
    engTlb := Vector.replicate 26 [], home := Vector.replicate 64 [], devBars := [], monitors := [],
    loose := [], counters := [], jobs := [], samples := [], settling := [], yields := [],
    trapq := [], seq := 0, stamp := 1, nextJob := 0, nextCmd := 0, invPend := [], jwrites := [],
    sent := [], cur := 0, curStream := .s,
    inputs := [], schedule := [], rotor := 0, freeCtr := 0, walkFills := 0 }

end Sys2Proof.Machine
end

