-- ==== Sys2Proof/Machine/Bits.lean ====
section
/-!
DEFINITION. Bit fields, sign extension, byte order, numbered tables and byte memories: the helpers that every other
operation of the machine uses.
-/
namespace Sys2Proof.Machine

/-! ### Numbers -/

/-- Bits hi to lo of v. -/
def bits (v hi lo : Nat) : Nat := v / 2 ^ lo % 2 ^ (hi + 1 - lo)

/-- The signed value of the low n bits of v. -/
def signed (n v : Nat) : Int :=
  if v % 2 ^ n < 2 ^ (n - 1) then (v % 2 ^ n : Nat) else ((v % 2 ^ n : Nat) : Int) - (2 ^ n : Nat)

/-- v modulo 2^n, as a natural number. -/
def wrap (n : Nat) (v : Int) : Nat := (v % (2 ^ n : Nat)).toNat

/-- The 64-bit word that holds v modulo 2^64. -/
def word (v : Int) : Word := BitVec.ofNat 64 (wrap 64 v)

/-- ⌈a / b⌉. -/
def ceilDiv (a b : Nat) : Nat := (a + b - 1) / b

/-- v held between lo and hi. -/
def clamp (lo hi v : Nat) : Nat := if v < lo then lo else if hi < v then hi else v

/-- The Boolean of bit i of v. -/
def bit (v i : Nat) : Bool := v / 2 ^ i % 2 == 1

/-- v with bit i set to b. -/
def setBit {n : Nat} (v : BitVec n) (i : Nat) (b : Bool) : BitVec n :=
  if b then v ||| BitVec.ofNat n (2 ^ i) else v &&& ~~~ BitVec.ofNat n (2 ^ i)

/-- The region and the offset of a virtual address (07 R196). -/
def region (va : VAddr) : Nat := va.toNat / 2 ^ 64
/-- The offset of a virtual address (07 R196). -/
def offset (va : VAddr) : Nat := va.toNat % 2 ^ 64
/-- The virtual address of a region and an offset (07 R196). -/
def vaddr (r o : Nat) : VAddr := BitVec.ofNat 72 (r % 256 * 2 ^ 64 + o % 2 ^ 64)

/-! ### Lists and vectors -/

/-- l with element i replaced; l itself when it has no element i. -/
def listSet {α : Type} : List α → Nat → α → List α
  | [], _, _ => []
  | _ :: r, 0, v => v :: r
  | a :: r, i + 1, v => a :: listSet r i v

/-- l without its element i. -/
def listErase {α : Type} : List α → Nat → List α
  | [], _ => []
  | _ :: r, 0 => r
  | a :: r, i + 1 => a :: listErase r i

/-- l with f applied to its element i. -/
def listMod {α : Type} : List α → Nat → (α → α) → List α
  | [], _, _ => []
  | a :: r, 0, f => f a :: r
  | a :: r, i + 1, f => a :: listMod r i f

/-- Element i of v, which is element i mod n when i is no index. -/
def vget {α : Type} {n : Nat} [NeZero n] (v : Vector α n) (i : Nat) : α := v[(Fin.ofNat n i).val]

/-- v with element i replaced; v itself when i is no index. -/
def vset {α : Type} {n : Nat} (v : Vector α n) (i : Nat) (a : α) : Vector α n :=
  if h : i < n then v.set i a h else v

/-- v with f applied to element i. -/
def vmod {α : Type} {n : Nat} (v : Vector α n) (i : Nat) (f : α → α) : Vector α n :=
  if h : i < n then v.set i (f v[i]) h else v

/-! ### Numbered tables -/

/-- The entry of number k. -/
def tfind {α : Type} : Table α → Nat → Option α
  | [], _ => none
  | (i, a) :: r, k => if i = k then some a else tfind r k

/-- The entry of number k, d when there is none. -/
def tget {α : Type} (t : Table α) (k : Nat) (d : α) : α := (tfind t k).getD d

/-- t with the entry of number k set to a, in its place in the ascending order. -/
def tset {α : Type} : Table α → Nat → α → Table α
  | [], k, a => [(k, a)]
  | (i, b) :: r, k, a =>
    if i = k then (k, a) :: r else if k < i then (k, a) :: (i, b) :: r else (i, b) :: tset r k a

/-- t without an entry of number k. -/
def tdel {α : Type} (t : Table α) (k : Nat) : Table α := t.filter fun e => e.1 != k

/-! ### Byte memories -/

/-- The canonical form of a memory: addresses strictly rising from lo upward, and no byte listed that is zero. -/
def memWfFrom (lo : Nat) : Memory → Bool
  | [] => true
  | (k, v) :: r => decide (lo ≤ k) && v != 0 && memWfFrom (k + 1) r

/-- The canonical form of a memory. -/
def Memory.wf (m : Memory) : Bool := memWfFrom 0 m

/-- The byte at address a. -/
def memRead : Memory → Nat → Byte
  | [], _ => 0
  | (k, v) :: r, a => if k = a then v else if a < k then 0 else memRead r a

/-- m with byte v at address a, in canonical form. -/
def memWrite : Memory → Nat → Byte → Memory
  | [], a, v => if v = 0 then [] else [(a, v)]
  | (k, w) :: r, a, v =>
    if k = a then (if v = 0 then r else (a, v) :: r)
    else if a < k then (if v = 0 then (k, w) :: r else (a, v) :: (k, w) :: r)
    else (k, w) :: memWrite r a v

/-- n bytes from address a upward. -/
def memReadN (m : Memory) (a : Nat) : Nat → List Byte
  | 0 => []
  | n + 1 => memRead m a :: memReadN m (a + 1) n

/-- m with the bytes of l from address a upward. -/
def memWriteN (m : Memory) (a : Nat) : List Byte → Memory
  | [] => m
  | b :: r => memWriteN (memWrite m a b) (a + 1) r

/-- m with every byte from lo to hi − 1 zero. -/
def memClear (m : Memory) (lo hi : Nat) : Memory := m.filter fun e => !(decide (lo ≤ e.1) && decide (e.1 < hi))

/-- The bytes of m from lo to hi − 1, at addresses counted from lo. -/
def memSlice (m : Memory) (lo hi : Nat) : Memory :=
  (m.filter fun e => decide (lo ≤ e.1) && decide (e.1 < hi)).map fun e => (e.1 - lo, e.2)

/-- m with the cells of part placed from address lo upward. -/
def memPlace (m : Memory) (lo : Nat) (part : Memory) : Memory :=
  part.foldl (fun m e => memWrite m (lo + e.1) e.2) m

/-- The little-endian number in n bytes from address a. -/
def memNat (m : Memory) (a n : Nat) : Nat := bytesToNat (memReadN m a n)

/-- m with the little-endian number v in n bytes from address a. -/
def memPut (m : Memory) (a n v : Nat) : Memory := memWriteN m a (natToBytes n v)

/-- n bytes of v from byte i upward. -/
def bytesOf {w : Nat} (v : BitVec w) (i n : Nat) : List Byte := natToBytes n (v.toNat / 2 ^ (8 * i))

/-- The w-bit value whose bytes are l, zero above them. -/
def ofBytes (w : Nat) (l : List Byte) : BitVec w := BitVec.ofNat w (bytesToNat l)

/-- l from element i upward replaced by the elements of new, within the length of l. -/
def spliceBytes (l : List Byte) (i : Nat) (new : List Byte) : List Byte :=
  (l.take i ++ new ++ l.drop (i + new.length)).take l.length

/-- l lengthened with zeros, or cut, to n bytes. -/
def padBytes (n : Nat) (l : List Byte) : List Byte := (l ++ List.replicate n 0).take n

/-! ### Elements and views (06 R180, R181; 16 R440) -/

/-- The n elements of w bits in v. -/
def splitElems (w n v : Nat) : List Nat := (List.range n).map fun i => v / 2 ^ (w * i) % 2 ^ w

/-- The elements of w bits put together, the first lowest. -/
def joinElems (w : Nat) (l : List Nat) : Nat := l.foldr (fun e v => e % 2 ^ w + 2 ^ w * v) 0

/-- The base of a view. -/
def viewBase (w : Word) : Nat := bits w.toNat 22 0
/-- The bytes from one register of a view to the next. -/
def viewStride (w : Word) : Nat := 32 * bits w.toNat 43 32
/-- The end of a view. -/
def viewEnd (w : Word) : Nat := viewBase w + viewStride w * bits w.toNat 60 48

end Sys2Proof.Machine
end

