-- ==== Sys2Proof/Machine/Base.lean ====
section
/-!
DEFINITION. Access to the parts of the state: cores, streams, registers, queues, tokens, register space, the energy
account and the counters that number events. Special behaviour of a register lives in the operation that reads or
writes it.
-/
namespace Sys2Proof.Machine

/-- What a word comes to: its effect, a wait (with what the state keeps of it), a part of what it does, after which it
goes on, or a trap (cause, detail, fault address). -/
inductive Res (α : Type)
  | ok (a : α)
  | wait
  | waitAs (s : State)
  | again (s : State)
  | trap (cause : Cause) (detail : Nat) (faddr : VAddr)

/-- The word goes on with the result of r. -/
def Res.andThen {α β : Type} (r : Res α) (f : α → Res β) : Res β :=
  match r with
  | .ok a => f a
  | .wait => .wait
  | .waitAs s => .waitAs s
  | .again s => .again s
  | .trap c d a => .trap c d a

/-- f of the result of r. -/
def Res.mapTo {α β : Type} (r : Res α) (f : α → β) : Res β := r.andThen fun a => .ok (f a)

/-- A trap that names no address and has detail 0. -/
def Res.fail {α : Type} (c : Cause) : Res α := .trap c 0 0

/-- The word faults with c unless b. -/
def guardTrap (b : Bool) (c : Cause) : Res Unit := if b then .ok () else .fail c

/-- The word waits unless b. -/
def guardWait (b : Bool) : Res Unit := if b then .ok () else .wait

/-- The code of a cause (10 R272). -/
def Cause.code : Cause → Nat
  | .illegalWord => 1 | .priv => 2 | .operandRange => 3 | .misalign => 4 | .region => 5 | .pageFault => 6
  | .access => 7 | .formatUnderflow => 8 | .queue => 9 | .specIllegal => 10 | .appendFull => 11
  | .arraySuspect => 12 | .throttleWarn => 13 | .eccFatal => 14 | .software => 15 | .watchdog => 16
  | .barrierRange => 17 | .preempt => 18 | .cancel => 19

/-! ### Cores -/

/-- Core c. -/
def getCore (s : State) (c : CoreId) : Core := s.cores.get c
/-- s with core c replaced. -/
def setCore (s : State) (c : CoreId) (k : Core) : State := { s with cores := s.cores.set c.val k c.isLt }
/-- s with f applied to core c. -/
def modCore (s : State) (c : CoreId) (f : Core → Core) : State := setCore s c (f (getCore s c))
/-- s with f applied to the task state of core c. -/
def modCtx (s : State) (c : CoreId) (f : Ctx → Ctx) : State := modCore s c fun k => { k with ctx := f k.ctx }
/-- The core whose word runs. -/
def curCore (s : State) : Core := getCore s s.cur
/-- The task whose word runs. -/
def curCtx (s : State) : Ctx := (curCore s).ctx
/-- s with f applied to the task whose word runs. -/
def modCur (s : State) (f : Ctx → Ctx) : State := modCtx s s.cur f

/-- The tile core of this number. -/
def tile (c : Fin 64) : CoreId := ⟨c.val, by omega⟩
/-- The core of this number, modulo 66. -/
def coreOf (n : Nat) : CoreId := Fin.ofNat 66 n
/-- The island of a core: the 2 × 2 block of the 8 × 8 mesh (01 R13); the dispatch cores count as island 0. -/
def islandOf (c : CoreId) : IslandId :=
  if c.val < 64 then Fin.ofNat 16 (c.val / 16 * 4 + c.val % 8 / 2) else 0

/-- Island i. -/
def getIsland (s : State) (i : IslandId) : Island := s.islands.get i
/-- s with f applied to island i. -/
def modIsland (s : State) (i : IslandId) (f : Island → Island) : State :=
  { s with islands := s.islands.set i.val (f (getIsland s i)) i.isLt }

/-- The context of a number. -/
def getContext (s : State) (x : Nat) : Context := tget s.contexts x Context.off
/-- s with f applied to the context of a number. -/
def modContext (s : State) (x : Nat) (f : Context → Context) : State :=
  { s with contexts := tset s.contexts x (f (getContext s x)) }

/-! ### Streams -/

/-- The index of a stream: S, A, V, M, P (10 R277). -/
def sIdx : Stream → Fin 5
  | .s => 0 | .a => 1 | .v => 2 | .m => 3 | .p => 4

/-- The stream of an index. -/
def streamOf (n : Nat) : Stream :=
  match n with
  | 0 => .s | 1 => .a | 2 => .v | 3 => .m | _ => .p

/-- A stream of a task. -/
def getStream (c : Ctx) (st : Stream) : StreamState := c.streams.get (sIdx st)
/-- c with f applied to a stream. -/
def modStream (c : Ctx) (st : Stream) (f : StreamState → StreamState) : Ctx :=
  { c with streams := c.streams.set (sIdx st).val (f (getStream c st)) (sIdx st).isLt }
/-- The stream is enabled and has not ended. -/
def live (c : Ctx) (st : Stream) : Bool := (getStream c st).enabled && !(getStream c st).ended
/-- c with no stream marked as waiting. -/
def clearWaits (c : Ctx) : Ctx := { c with streams := c.streams.map fun t => { t with waiting := false } }
/-- The five streams. -/
def allStreams : List Stream := [.s, .a, .v, .m, .p]

/-! ### Registers -/

/-- X[n]; x0 reads zero (06 R182; 14 R377). -/
def xGet (c : Ctx) (n : Fin 64) : Word := if n = 0 then 0 else c.x.get n
/-- X[n] := v; a write to x0 is discarded (14 R377). -/
def xSet (c : Ctx) (n : Fin 64) (v : Word) : Ctx := if n = 0 then c else { c with x := c.x.set n.val v n.isLt }
/-- P[n]; p0 reads true (06 R182; 14 R377). -/
def pGet (c : Ctx) (n : Fin 8) : Bool := n = 0 || c.pr.getLsbD n.val
/-- P[n] := b; a write to p0 is discarded (14 R377). -/
def pSet (c : Ctx) (n : Fin 8) (b : Bool) : Ctx := if n = 0 then c else { c with pr := setBit c.pr n.val b }
/-- A[n]; a0 reads zero (15 R407). -/
def aGet (c : Ctx) (n : Fin 32) : VAddr := if n = 0 then 0 else c.a.get n
/-- A[n] := v; a write to a0 is discarded (15 R407). -/
def aSet (c : Ctx) (n : Fin 32) (v : VAddr) : Ctx := if n = 0 then c else { c with a := c.a.set n.val v n.isLt }
/-- A[n] := v with region 0x00, for a 64-bit v (15 R407). -/
def aSet64 (c : Ctx) (n : Fin 32) (v : Nat) : Ctx := aSet c n (vaddr 0 v)
/-- Whether the A-stream may read A[n]: no load or atomic in flight will write it (06 R184; 15 R407). -/
def aReady (c : Ctx) (n : Fin 32) : Bool := n = 0 || !(c.aBusy.contains n)

/-! ### Queues and tokens (06 R170 to R175) -/

/-- Depth of the queues of 256-byte entries and of qvs and qb (06 R170). -/
def depth16 : Nat := 16
/-- Depth of qas, qsa, the format queue and the sampler reply queue (06 R170). -/
def depth32 : Nat := 32
/-- Depth of the event queue and of the steering queue (06 R164, R170). -/
def depth64 : Nat := 64

/-- The filled entry at the head of a queue that loads fill. -/
def headSlot (l : List LSlot) : Option Seg := l.head?.bind fun e => e.val
/-- The number of filled entries at the head of a queue that loads fill. -/
def readySlots (l : List LSlot) : Nat := (l.takeWhile fun e => e.val.isSome).length
/-- An entry with value v that no load fills. -/
def fullSlot (v : Seg) (spec : Bool) : LSlot := ⟨0, some v, spec⟩
/-- l with the value of load n filled into its entry (15 R413). -/
def fillSlot (l : List LSlot) (n : Nat) (v : Seg) : List LSlot :=
  l.map fun e => if e.load == n && e.val.isNone then { e with val := some v } else e
/-- l without the entry that load n reserved. -/
def dropSlot (l : List LSlot) (n : Nat) : List LSlot := l.filter fun e => !(e.load == n && e.val.isNone)

/-- c with f applied to its queues. -/
def modQ (c : Ctx) (f : Queues → Queues) : Ctx := { c with q := f c.q }
/-- The speculative round that a stream is in (12 R342). -/
def roundOf (c : Ctx) (st : Stream) : Option Round := c.spec.rounds.get (sIdx st)
/-- Whether a stream is in speculative mode (12 R342). -/
def inSpec (c : Ctx) (st : Stream) : Bool := (roundOf c st).isSome
/-- A stream is in the round of the S-stream, which a discard takes back (12 R349). -/
def inLastRound (c : Ctx) (st : Stream) : Bool :=
  match roundOf c st, roundOf c .s with
  | some a, some b => a.id == b.id
  | _, _ => false

/-- The count of a token (06 R174). -/
def tokenOf (c : Ctx) (t : Fin 16) : BitVec 8 := c.tokens.get t
/-- Signal a token, which waits at 255 (06 R174). -/
def signalToken (c : Ctx) (t : Fin 16) : Res Ctx :=
  if tokenOf c t = 255 then .wait else .ok { c with tokens := c.tokens.set t.val (tokenOf c t + 1) t.isLt }
/-- Wait for a token and take one unit (06 R174). -/
def waitToken (c : Ctx) (t : Fin 16) : Res Ctx :=
  if tokenOf c t = 0 then .wait else .ok { c with tokens := c.tokens.set t.val (tokenOf c t - 1) t.isLt }

/-! ### Register space, banks and scalar local memory -/

/-- Bytes of register space (06 R178). -/
def regSpaceSize : Nat := 0x440000

/-- n bytes of a memory of 1 KiB blocks, where the blocks whose fresh bit is set read as zero (06 R183). -/
def readFresh {n : Nat} (fresh : BitVec n) (m : Memory) (off count : Nat) : List Byte :=
  (List.range count).map fun i => if fresh.getLsbD ((off + i) / 1024) then 0 else memRead m (off + i)

/-- The 1 KiB blocks that count bytes from off touch. -/
def blocksOf (size off count : Nat) : List Nat :=
  if count = 0 then [] else (List.range ((off + count - 1) / size + 1 - off / size)).map fun i => off / size + i

/-- The bits of these numbers cleared. -/
def clearBits {n : Nat} (v : BitVec n) (l : List Nat) : BitVec n := l.foldl (fun v i => setBit v i false) v
/-- The bits of these numbers set. -/
def setBits {n : Nat} (v : BitVec n) (l : List Nat) : BitVec n := l.foldl (fun v i => setBit v i true) v

/-- m with the fresh blocks among l zero-filled (06 R183). -/
def zeroFresh {n : Nat} (fresh : BitVec n) (m : Memory) (l : List Nat) : Memory :=
  l.foldl (fun m b => if fresh.getLsbD b then memClear m (1024 * b) (1024 * (b + 1)) else m) m

/-- n bytes of register space from off (06 R178, R183). -/
def regRead (k : Core) (off n : Nat) : List Byte := readFresh k.freshRegs k.regs off n

/-- Bytes written to register space from off. Bytes 0x3F_FFFC to 0x3F_FFFF hold no element (06 R178), a first write
to a fresh block zero-fills it (06 R183), and the dirty bit of each 4 KiB unit is set (10 R295). -/
def regWrite (k : Core) (off : Nat) (data : List Byte) : Core :=
  if data = [] then k
  else
    let blocks := blocksOf 1024 off data.length
    { k with
      regs := memClear (memWriteN (zeroFresh k.freshRegs k.regs blocks) off data) 0x3FFFFC 0x400000
      freshRegs := clearBits k.freshRegs blocks
      dirtyRegs := setBits k.dirtyRegs (blocksOf 4096 off data.length) }

/-- n bytes of the sum-product banks from off: value plane, then derivative plane (10 R294; 18 R489). -/
def bankRead (k : Core) (off n : Nat) : List Byte := readFresh k.freshBanks k.banks off n

/-- Bytes written to the sum-product banks (06 R183). -/
def bankWrite (k : Core) (off : Nat) (data : List Byte) : Core :=
  if data = [] then k
  else
    let blocks := blocksOf 1024 off data.length
    { k with
      banks := memWriteN (zeroFresh k.freshBanks k.banks blocks) off data
      freshBanks := clearBits k.freshBanks blocks }

/-! ### Numbered events and free values -/

/-- The next device sequence number, and the state after it is assigned (08 R242). -/
def takeSeq (s : State) : BitVec 32 × State := (s.seq, { s with seq := s.seq + 1 })
/-- A number for an issued access, and the state after it. -/
def takeStamp (s : State) : Nat × State := (s.stamp, { s with stamp := s.stamp + 1 })

/-! ### Energy (04 R96, R112 to R116) -/

/-- The table voltage of an operating point in mV (04 R96). -/
def voltage (op : BitVec 4) : Nat :=
  match op.toNat with
  | 0 => 400 | 1 => 408 | 2 => 416 | 3 => 424 | 4 => 432 | 5 => 438 | 6 => 444 | 7 => 450 | 8 => 462 | 9 => 474
  | 10 => 488 | 11 => 502 | 12 => 518 | 13 => 536 | 14 => 576 | _ => 620

/-- The squared voltage at which core c runs. -/
def volt2 (s : State) (c : CoreId) : Nat :=
  voltage (getIsland s (islandOf c)).op * voltage (getIsland s (islandOf c)).op

/-- Costs of events in 0.01 pJ (04 R112). -/
def costActive : Nat := 60000
/-- A stalled cycle (04 R112). -/
def costStalled : Nat := 20000
/-- 64 bytes of L1 or scratchpad (04 R112). -/
def costL1 : Nat := 2000
/-- 64 bytes of staging (04 R112). -/
def costStaging : Nat := 6000
/-- A sum-product node (04 R112). -/
def costNode : Nat := 3000

/-- n events of cost c each are charged to the task on core k (04 R113). -/
def charge (s : State) (k : CoreId) (c n : Nat) : State :=
  modCtx s k fun t => { t with acct := { t.acct with work := t.acct.work + c * n * volt2 s k } }

/-- JCORE of an account (04 R113). -/
def jcore (a : Account) : Word := BitVec.ofNat 64 (a.cal.toNat * a.work / (100 * 202500 * 65536))

/-- n external memory transactions are charged to the task on core k and to its island's memory meter (04 R112,
R116). -/
def chargeExternal (s : State) (k : CoreId) (n : Nat) : State :=
  let s := modCtx s k fun t => { t with acct := { t.acct with jmem := t.acct.jmem + BitVec.ofNat 64 (1536 * n) } }
  modIsland s (islandOf k) fun i => { i with mmeter := i.mmeter + 1536 * n }

/-- The memory meter of an island has reached one unit: the reservation slot takes it from its allowance, refilled from
the home reserve where it is empty, or it goes to DEBT when the exact total is 0 (04 R116; 09 R263, R269). -/
def Island.meterUnit (i : Island) : Island :=
  { i with
    mmeter := i.mmeter - 200000000
    total := i.total - 1
    slot := (if i.slot = 0 then min i.total (min (2 ^ 32) (max 1 (ceilDiv i.total 2))) else i.slot) - 1
    debt := if i.total = 0 then min (2 ^ 32 - 1) (i.debt + 1) else i.debt
    need := i.need + 1 }

/-- An island with n units of its meter taken. -/
def Island.meterUnits (i : Island) : (n : Nat) → Island
  | 0 => i
  | n + 1 => i.meterUnit.meterUnits n

/-- An island as it stands with every unit taken that its meter has reached, as each is at once (04 R116). -/
def Island.metered (i : Island) : Island := i.meterUnits (i.mmeter / 200000000)

/-- An island whose allowance is all in its home reserve, as a recall leaves it (04 R108; 09 R264, R266). -/
def Island.recalled (i : Island) : Island := { i.metered with slot := 0 }

/-- The exact total of an island (04 R108; 09 R260). -/
def allowanceTotal (s : State) (i : IslandId) : Nat := (getIsland s i).metered.total

/-- n active cycles of the task on core k (04 R112; 10 R278). -/
def activeCycles (s : State) (k : CoreId) (n : Nat) : State :=
  modCtx (charge s k costActive n) k fun t => { t with csr := { t.csr with cycle := t.csr.cycle + BitVec.ofNat 64 n } }

/-- One active cycle. -/
def activeCycle (s : State) (k : CoreId) : State := activeCycles s k 1

/-- n stalled cycles of the task on core k (04 R112). -/
def stalledCycles (s : State) (k : CoreId) (n : Nat) : State :=
  modCtx (charge s k costStalled n) k fun t => { t with csr := { t.csr with cycle := t.csr.cycle + BitVec.ofNat 64 n } }

end Sys2Proof.Machine
end

