-- ==== Sys2Proof/Machine/Translate.lean ====
section
/-!
DEFINITION. Physical addresses, page walks, translation caches, classification of PRIVATE pages, and the fetch of
program text (07 R194 to R216; 06 R157, R160). An agent is named by its code in the OWNER field of 07 R204.
-/
namespace Sys2Proof.Machine

/-! ### The physical map -/

/-- What a physical address names (07 R194). -/
inductive Place
  | local | peer | staging (slice : Nat) | scratch (core : Nat) | mmio | host | reserved
  deriving DecidableEq, Repr

/-- The card number (02 R53). -/
def cardOf (s : State) : Nat := if s.links.paired && s.links.card then 1 else 0
/-- The first physical address of this card's memory (02 R53). -/
def cardBase (s : State) : Nat := cardOf s * 0x008000000000
/-- First byte of the staging slices (07 R194). -/
def stagingBase : Nat := 0x010000000000
/-- First byte of the scratchpads (07 R194). -/
def scratchBase : Nat := 0x010010000000
/-- First byte of the hub MMIO range (07 R194). -/
def mmioBase : Nat := 0x01FF00000000
/-- First byte of the peer doorbell page (02 R63). -/
def doorbellPage : Nat := 0x01FFFFFFF000
/-- First byte of the host range (07 R194). -/
def hostBasePa : Nat := 0x100000000000

/-- The place of a physical address (07 R194). -/
def placeOf (s : State) (pa : Nat) : Place :=
  if pa < 0x010000000000 then
    (if pa / 0x008000000000 = cardOf s then .local else .peer)
  else if pa < 0x010008000000 then .staging ((pa - stagingBase) / 0x200000)
  else if pa < 0x010010000000 then .reserved
  else if pa < 0x010014000000 then .scratch ((pa - scratchBase) / 0x100000)
  else if pa < mmioBase then .reserved
  else if pa < 0x020000000000 then .mmio
  else if pa < hostBasePa then .reserved
  else if pa < 0x200000000000 then .host
  else .reserved

/-- The home slice of a card-memory address (07 R195). -/
def homeSlice (pa : Nat) : Nat :=
  (bits pa 17 12 ^^^ bits pa 23 18 ^^^ bits pa 29 24 ^^^ bits pa 35 30 ^^^ bits pa 38 36) % 64

/-- The bus address of a physical address in the host range (02 R50). -/
def busAddress (s : State) (pa : Nat) : Nat := (s.links.hostBase.toNat * 4096 + (pa - hostBasePa)) % 2 ^ 64

/-- The request for n bytes at a physical address in the host range goes out with the requester ID of function f
(02 R41); other addresses send none. -/
def hostRequest (s : State) (f : BitVec 4) (write : Bool) (pa n : Nat) : State :=
  if placeOf s pa = .host then { s with sent := .hostRequest f write (busAddress s pa) n :: s.sent } else s

/-- The appended bytes that nothing orders, without those among n bytes from pa. -/
def tighten (l : List Loose) (pa n : Nat) : List Loose := l.filter fun e => e.pa < pa || pa + n ≤ e.pa

/-- n bytes at a physical address of this card, where fresh scratchpad blocks read as zero (06 R183). -/
def physRead (s : State) (pa n : Nat) : List Byte :=
  match placeOf s pa with
  | .scratch c =>
    let k := getCore s (coreOf c)
    (List.range n).map fun i =>
      if k.freshScratch.getLsbD ((pa + i - scratchBase) % 0x100000 / 1024) then 0 else memRead s.mem (pa + i)
  | .host => memReadN s.hostMem (busAddress s pa) n
  | _ => memReadN s.mem pa n

/-- Bytes written at a physical address of this card (06 R183; 10 R295). -/
def physWrite (s : State) (pa : Nat) (data : List Byte) : State :=
  if data = [] then s
  else
    let s := { s with loose := tighten s.loose pa data.length }
    match placeOf s pa with
    | .scratch c =>
      let k := getCore s (coreOf c)
      let base := scratchBase + c * 0x100000
      let blocks := blocksOf 1024 (pa - base) data.length
      let m := blocks.foldl (fun m b => if k.freshScratch.getLsbD b
        then memClear m (base + 1024 * b) (base + 1024 * (b + 1)) else m) s.mem
      setCore { s with mem := memWriteN m pa data } (coreOf c)
        { k with
          freshScratch := clearBits k.freshScratch blocks
          dirtyScratch := setBits k.dirtyScratch (blocksOf 4096 (pa - base) data.length) }
    | .host => { s with hostMem := memWriteN s.hostMem (busAddress s pa) data }
    | _ => { s with mem := memWriteN s.mem pa data }

/-- The little-endian number in n bytes at a physical address. -/
def physNat (s : State) (pa n : Nat) : Nat := bytesToNat (physRead s pa n)

/-! ### Leaves (07 R204) -/

/-- The class code of a leaf. -/
def leafClass (l : Nat) : Nat := bits l 3 2
/-- The OWNER field of a leaf. -/
def leafOwner (l : Nat) : Nat := bits l 17 11
/-- The physical page of an entry. -/
def ptePa (l : Nat) : Nat := bits l 55 20 * 4096
/-- l with its OWNER field set to o and its class to c. -/
def reclassLeaf (l o c : Nat) : Nat := l - bits l 17 11 * 2 ^ 11 - bits l 3 2 * 4 + o * 2 ^ 11 + c * 4
/-- l with its A bit set, and its D bit for a write. -/
def markLeaf (l : Nat) (write : Bool) : Nat :=
  l + (if bit l 8 then 0 else 0x100) + (if write && !bit l 9 then 0x200 else 0)

/-- The class codes that a leaf of this place may have (07 R200; 02 R51, R55). -/
def classAllowed (p : Place) (cls : Nat) : Bool :=
  match p with
  | .local => true
  | .peer => cls != 0
  | .staging _ => cls ≥ 2
  | .scratch _ => cls ≥ 2
  | .mmio => cls ≥ 2
  | .host => cls ≥ 2
  | .reserved => false

/-- A walk writes, for the permission checks and the D bit. -/
def kindWrites (k : WalkKind) : Bool := k == .write || k == .atomic

/-- The last row of 07 R205: the permission that this kind of walk needs. -/
def leafPermits (l : Nat) (k : WalkKind) : Bool :=
  match k with
  | .read => bit l 5
  | .write => bit l 4
  | .atomic => bit l 4 && bit l 5
  | .fetch => bit l 6

/-- The aligned group of 16 entries at table is one 64 KiB page (07 R205). -/
def contigOk (s : State) (group pte : Nat) : Bool :=
  let key (v : Nat) := v % 2 ^ 56 - bits v 9 8 * 256 - bits v 23 20 * 2 ^ 20
  (List.range 16).all fun i =>
    let e := physNat s (group + 8 * i) 8
    key e == key pte && bits e 23 20 == i

/-- The rows of 07 R205 that make an entry no valid leaf: the bits of the page's size, or none where one applies. -/
def leafSize (s : State) (pte level addr : Nat) (fetch : Bool) : Option Nat :=
  let size := 12 + 9 * level
  let pa := ptePa pte
  let contig := bit pte 7
  if level ≥ 4 then none
  else if fetch && (level == 0 || placeOf s pa != .local) then none
  else if bits pte 19 18 != 0 || (leafClass pte == 0 && 90 ≤ leafOwner pte && leafOwner pte ≤ 126) then none
  else if pa % 2 ^ size != 0 then none
  else if contig && (level != 0 || !contigOk s (addr / 128 * 128) pte) then none
  else some (if contig then 16 else size)

/-- CheckLeaf of 07 R205: the bits of the page's size, or none where it faults with ACCESS. -/
def checkLeaf (s : State) (pte level addr : Nat) (k : WalkKind) : Option Nat :=
  (leafSize s pte level addr (k == .fetch)).filter fun _ =>
    classAllowed (placeOf s (ptePa pte)) (leafClass pte) && leafPermits pte k

/-- What a table walk comes to. -/
inductive WalkEnd
  | leaf (addr pte size : Nat)
  | fault (c : Cause)

/-- The levels of a table walk from level l down; check says what a leaf, its level and its address come to (07 R203). -/
def walkLevels (s : State) (fetch : Bool) (check : Nat → Nat → Nat → Option Nat) (va : Nat) :
    (l : Nat) → (table : Nat) → WalkEnd
  | l, table =>
    let idx := if l = 6 then bits va 71 66 else bits va (9 * l + 20) (9 * l + 12)
    let addr := table + 8 * idx
    let pte := physNat s addr 8
    if !bit pte 0 then .fault (if fetch then .access else .pageFault)
    else if bit pte 1 then
      match check pte l addr with
      | some size => .leaf addr pte size
      | none => .fault .access
    else match l with
      | 0 => .fault .access
      | l + 1 =>
        if bits pte 19 2 != 0 || placeOf s (ptePa pte) != .local then .fault .access
        else walkLevels s fetch check va l (ptePa pte)

/-- A walk from the root of an ASID (07 R202, R203). -/
def walkRoot (s : State) (asid : BitVec 16) (va : VAddr) (fetch : Bool) (check : Nat → Nat → Nat → Option Nat) : WalkEnd :=
  let entry := s.astBase.toNat * 2 ^ 21 + 32 * asid.toNat
  let root := physNat s (entry + if fetch then 8 else 0) 8
  let top := bits root 3 1
  let base := bits root 47 12 * 4096
  if !bit root 0 || top < 3 || top > 6 || bits root 11 4 != 0 || bits root 63 48 != 0 || placeOf s base != .local
      || placeOf s entry != .local || physNat s (entry + 16) 16 != 0 then .fault .access
  else if top < 6 && va.toNat / 2 ^ (9 * top + 21) != 0 then .fault .access
  else walkLevels s fetch check va.toNat top base

/-- A walk of the tables of an ASID (07 R202 to R205). -/
def walkTables (s : State) (asid : BitVec 16) (va : VAddr) (k : WalkKind) : WalkEnd :=
  walkRoot s asid va (k == .fetch) fun pte level addr => checkLeaf s pte level addr k

/-! ### Lines at their home slices (07 R195; 04 R112, R114) -/

/-- A line of card memory is read or written at its home slice: the number of external transactions, and the state
after. A miss is one, and so is the write-back of the line that it evicts (04 R112; DESIGN CHOICE 7 for the victim). -/
def homeLine (s : State) (line : Nat) (write : Bool) : Nat × State :=
  let h := homeSlice (line * 64)
  let l := vget s.home h
  match l.find? fun e => e.1 == line with
  | some _ => (0, { s with home := vset s.home h (l.map fun e => if e.1 == line then (line, e.2 || write) else e) })
  | none =>
    (1 + ((l.drop 8191).filter fun e => e.2).length, { s with home := vset s.home h ((line, write) :: l.take 8191) })

/-- A line is read or written at its home slice for the access at hand, to which its transactions are charged once it is
through (04 R114). -/
def fillHome (s : State) (line : Nat) (write : Bool) : State :=
  let (n, s) := homeLine s line write
  if n = 0 then s else { s with walkFills := s.walkFills + n }

/-- The transactions of walks and write-backs that an access of core c caused are charged to its task (04 R114). -/
def chargeFills (s : State) (c : CoreId) : State :=
  if s.walkFills = 0 then s
  else
    let n := s.walkFills
    let s := { s with walkFills := 0 }
    if c.val < 64 && (getCore s c).busy then chargeExternal s c n else s

/-! ### Owners (07 R214 to R216) -/

/-- The lines of the page at pa of 2^size bytes. -/
def lineInPage (pa size : Nat) (l : Line) : Bool := l.tag * 64 / 2 ^ size == pa / 2 ^ size

/-- Core c writes back the dirty lines of its L1 for which drop holds, and drops all of those lines. -/
def flushLines (s : State) (c : CoreId) (drop : Line → Bool) : State :=
  let k := getCore s c
  let out := k.l1.filter drop
  let s := out.foldl (fun s l => if l.dirty then
    fillHome { s with mem := memWriteN s.mem (l.tag * 64) (bytesOf l.data 0 64) } l.tag true else s) s
  setCore s c { k with l1 := k.l1.filter fun l => !drop l }

/-- The translation overlaps the physical page at pa of 2^size bytes. -/
def tlbOnPage (pa size : Nat) (e : TlbEntry) : Bool :=
  e.pa / 2 ^ (max e.bits size) == pa / 2 ^ (max e.bits size)

/-- A piece on the page at pa of 2^size bytes is no longer the owner's (07 R215). -/
def sharePart (pa size : Nat) (p : Part) : Part :=
  if p.own && p.cls == 0 && p.pa / 2 ^ size == pa / 2 ^ size then { p with own := false, cls := 1 } else p

/-- The accesses of a task that have issued and not been performed, with f applied to their pieces. -/
def mapParts (f : Part → Part) (t : Ctx) : Ctx :=
  let wr (r : StoreRec) : StoreRec := { r with part := f r.part }
  { t with aq := { t.aq with
    loads := t.aq.loads.map fun l => { l with parts := l.parts.map f }
    stores := t.aq.stores.map fun e => match e with
      | .write r => .write (wr r)
      | .atomic a => .atomic { a with part := f a.part }
      | e => e
    inflight := t.aq.inflight.map wr } }

/-- Step 1 of 07 R215: the owner writes back and drops its lines of the page and removes its translations of it; its
accesses that are on their way find the page SHARED. -/
def ownerRelease (s : State) (owner pa size : Nat) : State :=
  if owner < 64 then
    let c := coreOf owner
    let s := flushLines s c (lineInPage pa size)
    modCore s c fun k => { k with
      tlb := k.tlb.filter fun e => !tlbOnPage pa size e
      ctx := mapParts (sharePart pa size) k.ctx }
  else { s with engTlb := vmod s.engTlb (owner - 64) fun l => l.filter fun e => !tlbOnPage pa size e }

/-- Every translation of the page that an island TLB holds is removed. -/
def dropIslandTlb (s : State) (pa size : Nat) : State :=
  { s with islands := s.islands.map fun i => { i with tlb := i.tlb.filter fun e => e.fetch || !tlbOnPage pa size e } }

/-- The OWNER and CLASS of a leaf rewritten, in all 16 entries of a CONTIG page, so that its group stays one (07 R205,
R214). -/
def rewriteLeaf (s : State) (pte leaf o cls : Nat) : State :=
  let entries := if bit leaf 7 then (List.range 16).map fun i => pte / 128 * 128 + 8 * i else [pte]
  let s := { s with mem := entries.foldl (fun m a => memPut m a 8 (reclassLeaf (memNat m a 8) o cls)) s.mem }
  (entries.map (· / 64)).eraseDups.foldl (fun s l => fillHome s l true) s

/-- The entry that the directory records for a leaf: the first of a CONTIG group. -/
def dirEntry (pte leaf : Nat) : Nat := if bit leaf 7 then pte / 128 * 128 else pte

/-- The entry still is the leaf by which owner claimed the page at pa (07 R215: the compare of the swap). -/
def leafClaims (leaf owner pa size : Nat) : Bool :=
  bit leaf 0 && bit leaf 1 && leafClass leaf == 0 && leafOwner leaf == owner && ptePa leaf / 2 ^ size == pa / 2 ^ size

/-- Classification of a claimed page (07 R215): the owner lets go, the entry becomes SHARED with OWNER 127 unless it has
changed since the claim, and the directory entry goes. -/
def classify (s : State) (owner pa size pte : Nat) : State :=
  let s := dropIslandTlb (ownerRelease s owner pa size) pa size
  let leaf := physNat s pte 8
  let s := if leafClaims leaf owner pa size then rewriteLeaf s pte leaf 127 1 else s
  { s with owned := s.owned.filter fun o => !(o.pte == pte || o.pte == dirEntry pte leaf) }

/-- The owner of a claimed page that holds pa lets go of it before another access reaches it there (02 R56; 08 R229;
DEDUCED 131 for one of this card through a leaf that is not PRIVATE). -/
def freePage (s : State) (pa : Nat) : State :=
  match s.owned.find? fun o => o.pa / 2 ^ o.bits == pa / 2 ^ o.bits with
  | some o => classify s o.owner o.pa o.bits o.pte
  | none => s

/-- The number of pages that the directory of a home slice holds (07 R216). -/
def dirCount (s : State) (slice : Nat) : Nat := (s.owned.filter fun o => homeSlice o.pa == slice).length

/-- A claim or classification by agent who of a PRIVATE leaf that its walk reached (07 R214 to R216). The leaf stands
at pte with value leaf, and maps the page at pa. -/
def claimPage (s : State) (who pa size pte leaf : Nat) : State × Nat :=
  let owner := leafOwner leaf
  if leafClass leaf != 0 then (s, leaf)
  else if owner == who then (s, leaf)
  else if owner != 127 then
    let s := classify s owner pa size pte
    (s, physNat s pte 8)
  else
    let at_ := dirEntry pte leaf
    match s.owned.find? fun o => o.pa == pa && o.pte != at_ with
    | some o =>
      let s := rewriteLeaf (classify s o.owner o.pa o.bits o.pte) pte leaf 127 1
      (s, physNat s pte 8)
    | none =>
      if dirCount s (homeSlice pa) ≥ 2048 then
        let s := rewriteLeaf s pte leaf 127 1
        (s, physNat s pte 8)
      else
        let s := rewriteLeaf s pte leaf who 0
        ({ s with owned := (s.owned.filter fun o => o.pte != at_) ++ [⟨pa, size, who, at_⟩] }, physNat s pte 8)

/-! ### Translation caches (07 R207) -/

/-- The entry translates va for this ASID and kind of access. -/
def tlbHit (asid : BitVec 16) (va : Nat) (fetch : Bool) (e : TlbEntry) : Bool :=
  e.fetch == fetch && (e.asid == asid || bit e.leaf.toNat 10) && e.va / 2 ^ e.bits == va / 2 ^ e.bits

/-- l with entry e added, the oldest dropped beyond n entries (07 R207; DESIGN CHOICE 6 for the choice of victim). -/
def tlbAdd (n : Nat) (l : List TlbEntry) (e : TlbEntry) : List TlbEntry :=
  (e :: l.filter fun o => !(o.fetch == e.fetch && o.asid == e.asid && o.va == e.va && o.bits == e.bits)).take n

/-- The code of a core as an agent: 0 to 63 as in 07 R204, and 128 and 129, which are no OWNER, for Brass and Bronze. -/
def agentOf (c : CoreId) : Nat := if c.val < 64 then c.val else c.val + 64
/-- The core that an agent's code names. -/
def agentCore (who : Nat) : CoreId := coreOf (if who < 128 then who else who - 64)

/-- The translation that agent who keeps or its island keeps. -/
def tlbLookup (s : State) (who : Nat) (asid : BitVec 16) (va : Nat) (fetch : Bool) : Option TlbEntry :=
  if 64 ≤ who && who < 90 then (vget s.engTlb (who - 64)).find? (tlbHit asid va fetch)
  else
    let k := getCore s (agentCore who)
    ((if fetch then k.itlb else k.tlb).find? (tlbHit asid va fetch)).or
      (if who < 64 then (getIsland s (islandOf (agentCore who))).tlb.find? (tlbHit asid va fetch) else none)

/-- The translation is kept where agent who keeps translations (07 R207). -/
def tlbFill (s : State) (who : Nat) (e : TlbEntry) : State :=
  if 64 ≤ who && who < 90 then { s with engTlb := vmod s.engTlb (who - 64) fun l => tlbAdd 64 l e }
  else
    let s := modCore s (agentCore who) fun k =>
      if e.fetch then { k with itlb := tlbAdd 32 k.itlb e } else { k with tlb := tlbAdd 256 k.tlb e }
    if who < 64 then modIsland s (islandOf (agentCore who)) fun i => { i with tlb := tlbAdd 8192 i.tlb e } else s

/-- What a translation comes to: the physical address and the leaf, with the state after the walk's updates, or a
fault. -/
inductive Xlat
  | ok (pa cls : Nat) (own : Bool) (s : State)
  | fault (c : Cause) (s : State)

/-- The lines that a table walk reads from level l down (07 R203, R205). -/
def walkLines (s : State) (va : Nat) : (l : Nat) → (table : Nat) → List Nat
  | l, table =>
    let idx := if l = 6 then bits va 71 66 else bits va (9 * l + 20) (9 * l + 12)
    let addr := table + 8 * idx
    let pte := physNat s addr 8
    if !bit pte 0 then [addr / 64]
    else if bit pte 1 then (if bit pte 7 && l == 0 then [addr / 128 * 2, addr / 128 * 2 + 1] else [addr / 64])
    else addr / 64 :: match l with
      | 0 => []
      | l + 1 => walkLines s va l (ptePa pte)

/-- The entries that a walk reads are read at their home slices (07 R203; 04 R114). -/
def touchWalk (s : State) (asid : BitVec 16) (va : VAddr) (k : WalkKind) : State :=
  let entry := s.astBase.toNat * 2 ^ 21 + 32 * asid.toNat
  let root := physNat s (entry + if k == .fetch then 8 else 0) 8
  (entry / 64 :: walkLines s va.toNat (bits root 3 1) (bits root 47 12 * 4096)).foldl (fun s l => fillHome s l false) s

/-- The A and D bits of the leaf pte at addr are set at its home slice, by a write only where one is not set (07 R206). -/
def markEntry (s : State) (addr pte : Nat) (write : Bool) : State :=
  let marked := markLeaf pte write
  if marked = pte then s else fillHome { s with mem := memPut s.mem addr 8 marked } (addr / 64) true

/-- What a walk that faults has read is read at its home slices all the same (04 R114; 07 R203). -/
def touchFault (s : State) (asid : BitVec 16) (va : VAddr) (k : WalkKind) : State :=
  match walkTables s asid va k with
  | .fault _ => touchWalk s asid va k
  | .leaf _ _ _ => s

/-- A walk by agent who and what it leaves in the tables, the directory and the translation caches (07 R203 to R206,
R214). -/
def walkFor (s : State) (who : Nat) (asid : BitVec 16) (va : VAddr) (k : WalkKind) : Except Cause (TlbEntry × State) :=
  match walkTables s asid va k with
  | .fault c => .error c
  | .leaf addr pte size =>
    let page := ptePa pte / 2 ^ size * 2 ^ size
    let marked := markLeaf pte (kindWrites k)
    let s := markEntry (touchWalk s asid va k) addr pte (kindWrites k)
    let (s, leaf) := if k == .fetch then (s, marked) else claimPage s who page size addr marked
    let e : TlbEntry :=
      ⟨k == .fetch, asid, va.toNat / 2 ^ size * 2 ^ size, size, BitVec.ofNat 64 leaf, page, addr⟩
    .ok (e, tlbFill s who e)

/-- The translation of va by a kept entry. -/
def xlatOf (e : TlbEntry) (who : Nat) (va : VAddr) (s : State) : Xlat :=
  .ok (e.pa + va.toNat % 2 ^ e.bits) (leafClass e.leaf.toNat) (leafOwner e.leaf.toNat == who) s

/-- The translation of va by a walk (07 R203). -/
def walkXlat (s : State) (who : Nat) (asid : BitVec 16) (va : VAddr) (k : WalkKind) : Xlat :=
  match walkFor s who asid va k with
  | .error c => .fault c (touchFault s asid va k)
  | .ok (e, s) => xlatOf e who va s

/-- The translation of va for an access by agent who (07 R203 to R216). A kept translation whose D bit is 0 is not used
for a write, and one of a page claimed by another agent is classified. -/
def translate (s : State) (who : Nat) (asid : BitVec 16) (va : VAddr) (k : WalkKind) : Xlat :=
  match tlbLookup s who asid va.toNat (k == .fetch) with
  | none => walkXlat s who asid va k
  | some e =>
    let l := e.leaf.toNat
    if kindWrites k && !bit l 9 then walkXlat s who asid va k
    else if k != .fetch && leafClass l == 0 && leafOwner l != who then walkXlat s who asid va k
    else if !leafPermits l k || !classAllowed (placeOf s e.pa) (leafClass l) then .fault .access s
    else xlatOf e who va s

/-! ### Fetch (06 R157, R160; 07 R212, R213) -/

/-- The 64-byte line of text at virtual address line × 64, through the core's instruction cache and its island's
buffer. -/
def fetchLine (s : State) (c : CoreId) (asid : BitVec 16) (line pa : Nat) : BitVec 512 × State :=
  let hit (l : ILine) := l.tag == line && l.asid == asid
  match (getCore s c).icache.find? hit with
  | some l => (l.data, s)
  | none =>
    let keep (l : ILine) (s : State) := modCore s c fun k => { k with icache := (l :: k.icache).take 1024 }
    match (getIsland s (islandOf c)).ibuf.find? hit with
    | some l => (l.data, keep l s)
    | none =>
      let l : ILine := ⟨line, asid, ofBytes 512 (physRead s (pa / 64 * 64) 64)⟩
      let s := fillHome s (pa / 64) false
      (l.data, modIsland (keep l s) (islandOf c) fun i => { i with ibuf := (l :: i.ibuf).take 16384 })

/-- The parcel at a text address, or none for a fetch that faults with ACCESS. -/
def fetchParcel (s : State) (c : CoreId) (asid : BitVec 16) (pc : Nat) : Option Parcel × State :=
  match translate s (agentOf c) asid (vaddr 0 pc) .fetch with
  | .fault _ s => (none, chargeFills s c)
  | .ok pa _ _ s =>
    let (l, s) := fetchLine s c asid (pc / 64) pa
    let s := chargeFills s c
    (some (BitVec.ofNat 32 (l.toNat / 2 ^ (8 * (pc % 64)))), s)

/-- n parcels from a text address, as one number, or the address of the parcel that faults. -/
def fetchWord (s : State) (c : CoreId) (asid : BitVec 16) : (n : Nat) → (pc : Nat) → Except Nat Nat × State
  | 0, _ => (.ok 0, s)
  | n + 1, pc =>
    match fetchParcel s c asid pc with
    | (none, s) => (.error pc, s)
    | (some p, s) =>
      match fetchWord s c asid n ((pc + 4) % 2 ^ 64) with
      | (.ok w, s) => (.ok (p.toNat + 2 ^ 32 * w), s)
      | (.error e, s) => (.error e, s)

end Sys2Proof.Machine
end

