-- ==== Sys2Proof/Machine/Access.lean ====
section
/-!
DEFINITION. The memory accesses of the A-stream and of the engines: which pieces an access has and whether it may be
made (07 R196 to R200, R221), what loads return and where stores land (07 R217 to R220; 08 R224 to R236), the store
queue, the versions of acquires, monitors and the outstanding writes of a scope.
-/
namespace Sys2Proof.Machine

/-! ### Pieces of an access -/

/-- The detail code of an access fault (10 R278). -/
def kindDetail : WalkKind → Nat
  | .read => 0 | .write => 1 | .atomic => 2 | .fetch => 3

/-- Agent who, acting for an ASID, may use staging slice i; the slice is claimed when it has no owner (07 R198).
It waits while the slice is being zero-filled (07 R199). -/
def claimSlice (s : State) (asid : BitVec 16) (i : Nat) : Res State :=
  let sl := vget s.slices i
  if sl.scrub then .wait
  else match sl.owner with
    | none => .ok { s with slices := vset s.slices i { sl with owner := some asid } }
    | some o => if o == asid then .ok s else .fail .access

/-- An ASID may use the scratchpad of core d through region 0xFD: the core holds a resident task of it (07 R198). -/
def mayUseScratch (s : State) (asid : BitVec 16) (d : Nat) : Bool :=
  (getCore s (coreOf d)).busy && (getCore s (coreOf d)).ctx.asid == asid

/-- One piece of an access by agent who, which lies within one page, slice or scratchpad (07 R196 to R200). home is
the core whose scratchpad region 0xFE names. -/
def resolvePart (s : State) (who : Nat) (asid : BitVec 16) (home : Nat) (va : VAddr) (off len : Nat) (k : WalkKind) :
    Res (Part × State) :=
  let o := offset va
  let fail : Res (Part × State) := .trap .access (kindDetail k) va
  match region va with
  | 0xFC =>
    if o / 2 ^ 27 != 0 || k == .atomic then fail
    else match claimSlice s asid (bits o 26 21) with
      | .ok s => .ok (⟨stagingBase + o, len, off, 2, false⟩, s)
      | .wait => .wait
      | _ => fail
  | 0xFD =>
    if o / 2 ^ 26 != 0 || k == .atomic then fail
    else if bits o 25 20 == home || mayUseScratch s asid (bits o 25 20) then
      .ok (⟨scratchBase + o, len, off, 2, false⟩, s)
    else fail
  | 0xFE =>
    if o / 2 ^ 20 != 0 || k == .atomic then fail
    else .ok (⟨scratchBase + home * 2 ^ 20 + o, len, off, 2, false⟩, s)
  | r =>
    if r ≥ 0xF0 then fail
    else match translate s who asid va k with
      | .fault c _ => .trap c (kindDetail k) va
      | .ok pa cls own s =>
        let s := if cls != 0 && placeOf s pa == .local then freePage s pa else s
        let s := if 64 ≤ who && who < 90 then s else chargeFills s (agentCore who)
        let p : Part := ⟨pa, len, off, cls, own⟩
        match placeOf s pa with
        | .reserved => fail
        | .staging i => if (vget s.slices i).scrub then .wait else .ok (p, s)
        | .peer => if s.links.paired && s.links.up then .ok (p, s) else fail
        | .mmio =>
          if k == .write && who < 64 && cls == 3 && doorbellPage + 64 * who ≤ pa
              && pa + len ≤ doorbellPage + 64 * (who + 1) then .ok (p, s) else fail
        | _ => .ok (p, s)

/-- The size of the units at whose boundaries an access in this region is split (07 R221). -/
def splitUnit (r : Nat) : Nat :=
  match r with
  | 0xFC => 0x200000
  | 0xFD => 0x100000
  | 0xFE => 0x100000
  | _ => 4096

/-- The pieces of an access of len bytes at va, all of them checked (07 R221). fuel bounds the number of pieces. -/
def resolveFrom (s : State) (who : Nat) (asid : BitVec 16) (home : Nat) (k : WalkKind) :
    (fuel : Nat) → (va : VAddr) → (off len : Nat) → Res (List Part × State)
  | 0, _, _, _ => .ok ([], s)
  | fuel + 1, va, off, len =>
    if len = 0 then .ok ([], s)
    else
      let n := min len (splitUnit (region va) - offset va % splitUnit (region va))
      if offset va + len > 2 ^ 64 then .trap .region 0 va
      else (resolvePart s who asid home va off n k).andThen fun (p, s) =>
        (resolveFrom s who asid home k fuel (vaddr (region va) (offset va + n)) (off + n) (len - n)).mapTo
          fun (ps, s) => (p :: ps, s)

/-- The pieces of an access of len bytes at va. -/
def resolve (s : State) (who : Nat) (asid : BitVec 16) (home : Nat) (va : VAddr) (off len : Nat) (k : WalkKind) :
    Res (List Part × State) :=
  resolveFrom s who asid home k (len / 4096 + 2) va off len

/-- The pieces of several accesses, in order, all of them checked before any is made (15 R418). -/
def resolveAll (s : State) (who : Nat) (asid : BitVec 16) (home : Nat) (k : WalkKind) :
    List (VAddr × Nat × Nat) → Res (List Part × State)
  | [] => .ok ([], s)
  | (va, off, len) :: r =>
    (resolve s who asid home va off len k).andThen fun (ps, s) =>
      (resolveAll s who asid home k r).mapTo fun (qs, s) => (ps ++ qs, s)

/-! ### Locations, lines and homes -/

/-- Two pieces share a location, that is, naturally aligned 8 bytes (08 R224). -/
def overlaps (p q : Part) : Bool := p.pa / 8 ≤ (q.pa + q.len - 1) / 8 && q.pa / 8 ≤ (p.pa + p.len - 1) / 8
/-- Two lists of pieces share a location. -/
def partsOverlap (a b : List Part) : Bool := a.any fun p => b.any fun q => overlaps p q
/-- The lines that a piece touches, as line numbers. -/
def linesOf (p : Part) : List Nat := blocksOf 64 p.pa p.len
/-- Two lists of pieces share a line. -/
def linesOverlap (a b : List Part) : Bool := a.any fun p => b.any fun q => (linesOf p).any (linesOf q).contains

/-- The pieces of a part at the boundaries of locations; a part of the peer's memory is cut at lines, which its messages
carry (08 R224; 02 R58). -/
def locPieces (s : State) (p : Part) : List Part :=
  let unit := if placeOf s p.pa = .peer then 64 else 8
  (blocksOf unit p.pa p.len).map fun b =>
    let lo := max p.pa (unit * b)
    { p with pa := lo, len := min (p.pa + p.len) (unit * (b + 1)) - lo, off := p.off + (lo - p.pa) }

/-- The piece is of a PRIVATE page that the issuing core owns (07 R214). -/
def mine (p : Part) : Bool := p.own && p.cls == 0

/-- Whether a staging line is held by a pin of a core or by a running tile command (07 R219; 17 R483). A stop for
PREEMPT, CANCEL or a fatal cause releases the pins (17 R484). -/
def pinned (s : State) (line : Nat) : Bool :=
  s.cores.toList.any fun k =>
    let holds (p : Pin) := (stagingBase + p.slice * 0x200000 + p.off) / 64 ≤ line
      && line * 64 < stagingBase + p.slice * 0x200000 + p.off + p.len
    let frees := match k.stop with
      | some x => x.info.fatal || x.info.cause == .preempt || x.info.cause == .cancel
      | none => false
    k.busy && !frees && (k.ctx.m.pins.any holds || match k.ctx.m.cmd with | some t => t.reads.any holds | none => false)

/-- A line of card memory is read or written at its home slice on behalf of the task on core c (04 R114). -/
def touchHome (s : State) (c : Option CoreId) (line : Nat) (write : Bool) : State :=
  let (n, s) := homeLine s line write
  match c with
  | some c => if n = 0 then s else chargeExternal s c n
  | none => s

/-- The function of the context of the task on core c, which its requests to host memory name (02 R41). -/
def funcOf (s : State) (c : CoreId) : BitVec 4 := (getContext s (getCore s c).ctx.context.val).func

/-- The granules of 64 bytes of a piece are charged to the task on core c (04 R112). -/
def chargePart (s : State) (c : CoreId) (p : Part) : State :=
  let n := (linesOf p).length
  match placeOf s p.pa with
  | .staging _ => charge s c costStaging n
  | .scratch _ => charge s c costL1 n
  | .local => if p.cls ≤ 1 then charge s c costL1 n else s
  | .peer => if p.cls ≤ 1 then charge s c costL1 n else s
  | _ => s

/-! ### Caches (07 R217) -/

/-- The line of a cache, at this version or PRIVATE. -/
def cacheHit (l : List Line) (ver : BitVec 4) (line : Nat) : Option Line :=
  l.find? fun e => e.tag == line && (e.priv || e.ver == ver)

/-- The line put into a cache of n lines in place of any other copy. -/
def cacheFill (n : Nat) (l : List Line) (e : Line) : List Line := (e :: l.filter fun o => o.tag != e.tag).take n

/-- A line enters the L1 of core c; a dirty victim is written back (DESIGN CHOICE 7 for the victim). -/
def l1Fill (s : State) (c : CoreId) (e : Line) : State :=
  let k := getCore s c
  let victims := ((k.l1.filter fun o => o.tag != e.tag).drop 8191).filter fun o => o.dirty
  let s := victims.foldl (fun s l =>
    touchHome { s with mem := memWriteN s.mem (l.tag * 64) (bytesOf l.data 0 64) } (some c) l.tag true) s
  modCore s c fun k => { k with l1 := cacheFill 8192 k.l1 e }

/-- The SHARED line of core c: from its L1, else from its island's cache, else from memory data, filling both
(07 R217, R218). fill is false for data that are too old to enter the caches. -/
def sharedLine (s : State) (c : CoreId) (line : Nat) (data : BitVec 512) (fill : Bool) : BitVec 512 × State :=
  let k := getCore s c
  match cacheHit k.l1 k.ver line with
  | some e => (e.data, s)
  | none =>
    let i := getIsland s (islandOf c)
    match cacheHit i.cache i.ver line with
    | some e => (e.data, l1Fill s c ⟨line, k.ver, false, false, e.data⟩)
    | none =>
      if !fill then (data, s)
      else
      let s := modIsland s (islandOf c) fun i =>
        { i with cache := cacheFill 32768 i.cache ⟨line, i.ver, false, false, data⟩ }
      (data, l1Fill s c ⟨line, k.ver, false, false, data⟩)

/-- The PRIVATE line of its owner core c, filled from its home on a miss. -/
def privateLine (s : State) (c : CoreId) (line : Nat) : BitVec 512 × State :=
  match (getCore s c).l1.find? fun e => e.tag == line && e.priv with
  | some e => (e.data, s)
  | none =>
    let d := ofBytes 512 (memReadN s.mem (line * 64) 64)
    (d, l1Fill (touchHome s (some c) line false) c ⟨line, 0, true, false, d⟩)

/-- A SHARED line misses both caches of core c. -/
def sharedMiss (s : State) (c : CoreId) (line : Nat) : Bool :=
  let i := getIsland s (islandOf c)
  (cacheHit (getCore s c).l1 (getCore s c).ver line).isNone && (cacheHit i.cache i.ver line).isNone

/-- The bytes of a piece within the lines that hold it. get gives a line's data and the state after. -/
def readLines (p : Part) (get : State → Nat → BitVec 512 × State) (s : State) : List Byte × State :=
  let (bytes, s) := (linesOf p).foldl (fun (acc : List Byte × State) line =>
    let (d, s) := get acc.2 line
    (acc.1 ++ bytesOf d 0 64, s)) ([], s)
  ((bytes.drop (p.pa % 64)).take p.len, s)

/-- The request for a line of the peer's memory that has been answered. -/
def gotAsk (asks : List PeerAsk) (line : Nat) : Option PeerAsk := asks.find? fun e => e.line == line && e.data.isSome
/-- A line that the peer has answered. -/
def gotLine (asks : List PeerAsk) (line : Nat) : BitVec 512 := ((gotAsk asks line).bind fun e => e.data).getD 0
/-- The answer may enter the caches of core c: since it was asked for no acquire has made lines of that age miss, and no
write of the island has gone to the peer (08 R231, R234). -/
def freshAsk (s : State) (c : CoreId) (asks : List PeerAsk) (line : Nat) : Bool :=
  match gotAsk asks line with
  | some e => e.core == (getCore s c).fills && e.island == (getIsland s (islandOf c)).fills
  | none => false

/-- The copy of a SHARED line that core c and its island hold goes, so that a later load does not go back behind what
the core has read at the line's home (08 R225). -/
def dropShared (s : State) (c : CoreId) (line : Nat) : State :=
  let stale (l : Line) : Bool := l.tag == line && !l.priv
  if (getCore s c).l1.any stale || (getIsland s (islandOf c)).cache.any stale then
    let s := modCore s c fun k => { k with l1 := k.l1.filter fun l => !stale l }
    modIsland s (islandOf c) fun i => { i with cache := i.cache.filter fun l => !stale l }
  else s

/-- The bytes that a read of a location returns where an append that nothing orders wrote some of them: those or, by
a free choice for the location, ones that they replaced (08 R240). -/
def looseBytes (s : State) (pa : Nat) (data : List Byte) : List Byte × State :=
  let mix := s.loose.filter fun e => pa ≤ e.pa && e.pa < pa + data.length
  if mix.isEmpty then (data, s)
  else (mix.foldl (fun b e =>
    let pick := Config.freeIndex s.freeCtr (e.pa / 8) % (e.old.length + 1)
    if pick = 0 then b else spliceBytes b (e.pa - pa) [e.old.getD (pick - 1) 0]) data,
      { s with freeCtr := s.freeCtr + 1 })

/-- The number at a physical address of n bytes, as one read of it returns it (08 R240). -/
def looseNat (s : State) (pa n : Nat) : Nat × State :=
  let (b, s) := looseBytes s pa (physRead s pa n)
  (bytesToNat b, s)

/-- The bytes of an append beyond the committed length, at va on, are ordered with no access (08 R240): what they
replace is kept, from the core's own line of a PRIVATE page or from memory. Of the peer's memory this card holds copies
alone, and keeps what they held when the write changes them. -/
def loosen (s : State) (c : CoreId) (asid : BitVec 16) (va : VAddr) (parts : List Part) : State :=
  let cells := parts.flatMap fun p => (List.range p.len).map fun i =>
    let line := (getCore s c).l1.find? fun e => e.tag == (p.pa + i) / 64 && e.priv
    let old : List Byte := if placeOf s p.pa = .peer then [] else match line with
      | some e => [if mine p then (bytesOf e.data 0 64).getD ((p.pa + i) % 64) 0 else memRead s.mem (p.pa + i)]
      | none => [(physRead s (p.pa + i) 1).getD 0 0]
    (p.pa + i, vaddr (region va) (offset va + p.off + i), old)
  { s with loose := cells.foldl (fun l (pa, a, old) =>
    if l.any fun e => e.pa == pa then
      l.map fun e => if e.pa == pa then ⟨pa, asid, a, old ++ e.old⟩ else e
    else l ++ [⟨pa, asid, a, old⟩]) s.loose }

/-- A commit of a window's bytes from base up to its new committed length n orders them (08 R241). -/
def commitLoose (s : State) (asid : BitVec 16) (base : VAddr) (n : Nat) : State :=
  { s with loose := s.loose.filter fun e =>
    !(e.asid == asid && region e.va == region base && offset base ≤ offset e.va && offset e.va < offset base + n) }

/-- The load of core c that returned the bytes b of piece p has returned the write o, whose bytes the copy that it read
has taken. -/
def markSeen (c : CoreId) (p : Part) (b : List Byte) (o : StoreRec) : StoreRec :=
  let lo := max p.pa o.part.pa
  let n := min (p.pa + p.len) (o.part.pa + o.data.length) - lo
  if o.part.cls ≤ 1 && n != 0 && (b.drop (lo - p.pa)).take n == (o.data.drop (lo - o.part.pa)).take n
      && !o.seen.contains c then { o with seen := c :: o.seen }
  else o

/-- The writes of the island of core c on their way to the home slice that its load returned through a SHARED copy: it
goes back behind none of them (08 R225). -/
def noteSeen (s : State) (c : CoreId) (p : Part) (b : List Byte) : State :=
  let near := ((List.range 66).map coreOf).filter fun d => islandOf d == islandOf c
    && (getCore s d).ctx.aq.inflight.any fun o => overlaps o.part p
  near.foldl (fun s d => modCtx s d fun t =>
    { t with aq := { t.aq with inflight := t.aq.inflight.map (markSeen c p b) } }) s

/-- The bytes that a load of core c reads for a piece, when it is performed now. asks holds the lines that the peer
answered. -/
def readPart (s : State) (c : CoreId) (p : Part) (asks : List PeerAsk) : List Byte × State :=
  let (b, s) := match placeOf s p.pa with
    | .peer =>
      if p.cls == 1 then
        let (b, s) := readLines p (fun s line => sharedLine s c line (gotLine asks line) (freshAsk s c asks line)) s
        (b, noteSeen s c p b)
      else readLines p (fun s line => (gotLine asks line, dropShared s c line)) s
    | .local =>
      if mine p then readLines p (fun s line => privateLine s c line) s
      else if p.cls ≤ 1 then
        let (b, s) := readLines p (fun s line =>
          let s := if sharedMiss s c line then touchHome s (some c) line false else s
          sharedLine s c line (ofBytes 512 (memReadN s.mem (line * 64) 64)) true) s
        (b, noteSeen s c p b)
      else (memReadN s.mem p.pa p.len,
        (linesOf p).foldl (fun s l => dropShared (touchHome s (some c) l false) c l) s)
    | _ => (physRead s p.pa p.len, hostRequest s (funcOf s c) false p.pa p.len)
  looseBytes s p.pa b

/-- The bytes of an access whose pieces are given, put over data. -/
def readParts (s : State) (c : CoreId) (asks : List PeerAsk) (data : List Byte) : List Part → List Byte × State
  | [] => (data, s)
  | p :: r =>
    let (b, s) := readPart s c p asks
    readParts s c asks (spliceBytes data p.off b) r

/-! ### Monitors (09 R257 to R259) -/

/-- The waiters of a line are woken and its entry freed; those of the peer by the status of their WAITA (09 R257, R259).
-/
def wakeLine (s : State) (line : Nat) : State :=
  match s.monitors.find? fun m => m.line == line with
  | none => s
  | some m =>
    let s := m.waiters.foldl (fun s c => modCtx s c fun t =>
      match t.aq.waita with
      | .registered l d => if l == line then clearWaits { t with aq := { t.aq with waita := .woken d } } else t
      | _ => t) s
    { s with
      monitors := s.monitors.filter fun m => m.line != line
      sent := m.peers.map (fun c => .bridgeStatus c 1) ++ s.sent }

/-- The waiters of every line of a piece are woken. -/
def wakePart (s : State) (p : Part) : State := (linesOf p).foldl wakeLine s

/-! ### Doorbell slots (02 R63, R64) -/

/-- Bytes stored to the doorbell slot of core c; the store that completes bytes 0x38 to 0x3F latches the packet, with
bytes that nothing wrote as zero, as 02 R46 has it. It is lost when the card is unpaired or the bridge is down. -/
def ringDoorbell (s : State) (c : CoreId) (off : Nat) (data : List Byte) : State :=
  let k := getCore s c
  let slot := ofBytes 512 (spliceBytes (bytesOf k.dbSlot 0 64) off data)
  let mask := setBits k.dbMask ((List.range data.length).map (off + ·))
  if bits mask.toNat 63 56 == 0xFF then
    let k := { k with dbSlot := 0, dbMask := 0 }
    if s.links.paired && s.links.up then setCore s c { k with dbOut := k.dbOut ++ [slot] }
    else setCore s c { k with ctx := { k.ctx with csr := { k.ctx.csr with dbLost := true } } }
  else setCore s c { k with dbSlot := slot, dbMask := mask }

/-! ### Stores (08 R226 to R230) -/

/-- A piece of a write that has left the store queue is performed at a scope (08 R229). -/
def doneAt (s : State) (r : StoreRec) (scope : Nat) : Bool :=
  let held := (scope == 0 && r.coreDone) || (scope == 1 && r.islandDone)
  match placeOf s r.part.pa with
  | .host => scope < 4
  | .local => r.part.cls ≤ 1 && held
  | .peer => r.part.cls == 1 && held
  | _ => false

/-- The writes of core c that have left its store queue and are not performed at a scope, by their numbers. -/
def outWrites (s : State) (c : CoreId) (scope : Nat) : List Nat :=
  let q := (getCore s c).ctx.aq
  (((q.inflight ++ q.lost).filter fun r => !doneAt s r scope).map fun r => r.id).eraseDups

/-- The outstanding-write counter of core c at a scope (08 R230): its writes in flight, or lost by the bridge, not yet
performed there. -/
def outstanding (s : State) (c : CoreId) (scope : Nat) : Nat := (outWrites s c scope).length

/-- A write that the bridge lost before it was performed at a scope: a release at the scope can never complete
(02 R61). -/
def lostWrite (s : State) (c : CoreId) (scope : Nat) : Option StoreRec :=
  (getCore s c).ctx.aq.lost.find? fun r => !doneAt s r scope

/-- Whether a load or atomic numbered below n is still out. -/
def readsBefore (t : Ctx) (n : Nat) : Bool :=
  t.aq.loads.any (fun l => l.id < n) || t.aq.stores.any fun e => match e with
    | .atomic a => a.id < n
    | _ => false

/-- Whether a store or atomic numbered below n is not performed at CORE scope (08 R228). -/
def writesBefore (s : State) (t : Ctx) (n : Nat) : Bool :=
  t.aq.stores.any (fun e => match e with
    | .write r => r.id < n
    | .atomic a => a.id < n
    | _ => false) || t.aq.inflight.any fun r => r.id < n && !doneAt s r 0

/-- The copy of a line in a cache takes the bytes of a piece, keeping its version (07 R217). -/
def patchLine (p : Part) (data : List Byte) (dirty : Bool) (l : Line) : Line :=
  if (linesOf p).contains l.tag then
    let bytes := bytesOf l.data 0 64
    let start := p.pa - l.tag * 64
    let skip := l.tag * 64 - p.pa
    { l with data := ofBytes 512 (spliceBytes bytes start (data.drop skip)), dirty := l.dirty || dirty }
  else l

/-- The bytes of a piece cut at lines: the messages that carry a write of the peer's memory (02 R58). -/
def linePieces (p : Part) (data : List Byte) : List (Nat × List Byte) :=
  (linesOf p).map fun l =>
    let lo := max p.pa (64 * l)
    (lo, (data.drop (lo - p.pa)).take (64 * (l + 1) - lo))

/-- A DEVICE access of core c numbered n may be performed: none of its DEVICE accesses before it is still to be; a write
that has been sent to the host is performed (07 R200; 08 R226, R229). -/
def deviceTurn (s : State) (t : Ctx) (n : Nat) : Bool :=
  let ok (id : Nat) (p : Part) : Bool := id ≥ n || p.cls != 3
  t.aq.loads.all (fun l => l.parts.all (ok l.id)) && t.aq.inflight.all (fun r => doneAt s r 0 || ok r.id r.part)
    && t.aq.stores.all fun e => match e with
      | .write r => ok r.id r.part
      | .atomic a => ok a.id a.part
      | _ => true

/-- The piece of a write as it is once it has left the store queue of core c: the copies of its line that the core and
its island hold have taken it (08 R229). -/
def leftRecord (s : State) (c : CoreId) (r : StoreRec) : StoreRec :=
  let held (l : List Line) : Bool := r.part.cls ≤ 1 && !mine r.part && (linesOf r.part).all fun n => l.any fun e =>
    e.tag == n
  { r with left := s.stamp, coreDone := held (getCore s c).l1, islandDone := held (getIsland s (islandOf c)).cache }

/-- A piece of a PRIVATE page of core c lands in its L1 (08 R229). -/
def ownStore (s : State) (c : CoreId) (r : StoreRec) : State :=
  let s := (linesOf r.part).foldl (fun s l => (privateLine s c l).2) s
  let s := modCore s c fun k => { k with l1 := k.l1.map (patchLine r.part r.data true) }
  if r.appended then s else { s with loose := tighten s.loose r.part.pa r.data.length }

/-- An appended piece of the peer's memory is about to change a copy that the core or its island holds: the byte that it
replaces is kept (08 R240). -/
def loosenCopy (s : State) (c : CoreId) (r : StoreRec) : State :=
  let byteOf (pa : Nat) : Option Byte :=
    (((getCore s c).l1 ++ (getIsland s (islandOf c)).cache).find? fun e => e.tag == pa / 64 && !e.priv).bind fun e =>
      (bytesOf e.data 0 64)[pa % 64]?
  { s with loose := s.loose.map fun e =>
    if r.part.pa ≤ e.pa && e.pa < r.part.pa + r.data.length then { e with old := (byteOf e.pa).toList ++ e.old } else e }

/-- A piece of a write goes out on the host link: it is performed at the host, in the order of the link, and waits for
its zero-length read (02 R51; 08 R225, R229). An appended one stays among those that nothing orders (08 R240). -/
def sendHost (s : State) (c : CoreId) (r : StoreRec) : State :=
  let u := physWrite (hostRequest s (funcOf s c) true r.part.pa r.data.length) r.part.pa r.data
  let u := if r.appended then { u with loose := s.loose } else u
  if r.signal then wakePart u r.part else u

/-- A piece of a write of core c leaves the store queue: one of a PRIVATE page of the core lands in its L1, one of a
SHARED page updates the copies of the core and of its island, one of the peer's memory or the host's goes out; all but
the first are in flight (07 R217; 08 R229, R230). A signalling write is performed at the home slice (09 R258). -/
def leaveQueue (s : State) (c : CoreId) (r : StoreRec) : State :=
  let p := r.part
  if mine p && !r.signal then ownStore s c r
  else
    let left := leftRecord s c r
    let s := (takeStamp s).2
    let s := if p.cls ≤ 1 && !mine p then
      let s := if placeOf s p.pa != .peer then s
        else if r.appended then loosenCopy s c r
        else { s with loose := tighten s.loose p.pa r.data.length }
      let s := modCore s c fun k => { k with l1 := k.l1.map (patchLine p r.data false) }
      modIsland s (islandOf c) fun i => { i with cache := i.cache.map (patchLine p r.data false) }
    else s
    let s := if placeOf s p.pa = .peer then
      let s := modIsland s (islandOf c) fun i => { i with fills := i.fills + 1 }
      chargeExternal { s with sent := .bridgeStore c left.left p.pa r.data r.signal :: s.sent } c 1
    else if placeOf s p.pa = .host then sendHost s c r
    else s
    modCtx s c fun t => { t with aq := { t.aq with inflight := t.aq.inflight ++ [left] } }

/-- The piece r of a write of core c, at the head of its store queue, may leave it: no counter would pass 1,023
(08 R230), and it keeps the order of DEVICE accesses. One that lands in the L1 waits for a write of its location that is
on its way to the home slice (08 R225). -/
def writeMayLeave (s : State) (c : CoreId) (r : StoreRec) : Bool :=
  let left := leftRecord s c r
  (r.part.cls != 3 || deviceTurn s (getCore s c).ctx r.id)
    && if mine r.part && !r.signal then (getCore s c).ctx.aq.inflight.all fun o => !overlaps o.part r.part
    else [1, 2, 3, 4].all fun sc =>
      doneAt s left sc || (r.id :: outWrites s c sc).eraseDups.length ≤ 1023

/-- A MARK or a REL at the head of the store queue of core c may leave it (08 R228, R231). -/
def mayLeave (s : State) (c : CoreId) (e : SqEntry) : Bool :=
  let t := (getCore s c).ctx
  match e with
  | .write _ => false
  | .atomic _ => false
  | .mark n => !readsBefore t n
  | .rel n sc => !readsBefore t n && outstanding s c sc == 0

/-- MARKs and RELs leave the store queue of core c in order while they may (08 R226). fuel bounds their number. -/
def drainFrom (c : CoreId) : (fuel : Nat) → State → State
  | 0, s => s
  | fuel + 1, s =>
    match (getCore s c).ctx.aq.stores with
    | [] => s
    | e :: r =>
      if mayLeave s c e then drainFrom c fuel (modCtx s c fun t => { t with aq := { t.aq with stores := r } })
      else s

/-- MARKs and RELs leave the store queue of core c while they may. -/
def drainStores (s : State) (c : CoreId) : State := drainFrom c (getCore s c).ctx.aq.stores.length s

/-- A piece in flight is performed at its home slice, slice, scratchpad or doorbell slot; one that went to the host has
been performed, and its zero-length read completes (02 R51). An appended one stays among those that nothing orders
(08 R240). -/
def landPart (s : State) (c : CoreId) (r : StoreRec) : State :=
  let p := r.part
  let loose := s.loose
  let s := match placeOf s p.pa with
    | .mmio => ringDoorbell s c (p.pa % 64) r.data
    | .peer => s
    | .host => hostRequest s (funcOf s c) false p.pa 0
    | .local =>
      let s := if mine p then chargeFills (flushLines s c fun l => (linesOf p).contains l.tag) c else s
      (linesOf p).foldl (fun s l => touchHome s (some c) l true) (physWrite s p.pa r.data)
    | _ => physWrite s p.pa r.data
  let s := if r.appended then { s with loose := loose } else s
  if r.signal && placeOf s p.pa != .host then wakePart s p else s

/-- The piece r in flight from core c may be performed: no write that left a store queue of its island before it to a
shared location is in flight, and no line is pinned (07 R219; 08 R225, R226). The peer performs those of its memory. -/
def mayPerform (s : State) (c : CoreId) (r : StoreRec) : Bool :=
  s.cores.toList.zipIdx.all (fun (k, i) => islandOf (coreOf i) != islandOf c
      || k.ctx.aq.inflight.all fun o => o.left ≥ r.left || !overlaps o.part r.part)
    && match placeOf s r.part.pa with
      | .staging _ => (linesOf r.part).all fun l => !pinned s l
      | .peer => false
      | _ => true

/-- The pieces of the write at the head of the store queue of core c. -/
def headPieces (t : Ctx) : List StoreRec :=
  match t.aq.stores with
  | .write r :: _ => t.aq.stores.filterMap fun e => match e with
    | .write o => if o.id == r.id then some o else none
    | _ => none
  | _ => []

/-- The piece r of the write at the head of the store queue of core c leaves the queue. -/
def leaveHead (s : State) (c : CoreId) (r : StoreRec) : State :=
  let s := modCtx s c fun t => { t with aq := { t.aq with stores := t.aq.stores.erase (.write r) } }
  drainStores (leaveQueue s c r) c

/-- The k-th piece of a write that core c has under way is performed further, if it may be (08 R229): one in flight is
performed at its home; after those come the pieces of the write at the head of the store queue, which leave it. -/
def performStore (s : State) (c : CoreId) (k : Nat) : State :=
  let t := (getCore s c).ctx
  match t.aq.inflight[k]? with
  | some r =>
    if mayPerform s c r then
      let s := landPart s c r
      drainStores (modCtx s c fun t =>
        clearWaits { t with aq := { t.aq with inflight := listErase t.aq.inflight k } }) c
    else s
  | none =>
    match (headPieces t)[k - t.aq.inflight.length]? with
    | some r => if writeMayLeave s c r then modCtx (leaveHead s c r) c clearWaits else s
    | none => s

/-! ### Loads (08 R226, R234) -/

/-- The result of a load or an atomic reaches A[d]. One that issued before the A-stream entered speculative mode is part
of the value that a discard restores (06 R184; 12 R349). -/
def aLand (t : Ctx) (d : Fin 32) (v : Nat) (spec : Bool) : Ctx :=
  let t := { aSet64 t d v with aBusy := t.aBusy.erase d }
  if spec || !inLastRound t .a then t
  else { t with spec := { t.spec with snap := t.spec.snap.map fun p =>
    if d = 0 then p else { p with a := p.a.set d.val (vaddr 0 v) d.isLt } } }

/-- The data of a load reach their queue entry or their register (15 R413, R414). -/
def deliver (t : Ctx) (l : LoadRec) (data : List Byte) : Ctx :=
  let v : Seg := ofBytes 2048 data
  match l.dest with
  | .ql q => modQ t fun x => { x with ql := vmod x.ql q.val fun e => fillSlot e l.id v }
  | .qap => modQ t fun x => { x with qap := fillSlot x.qap l.id v }
  | .qas => modQ t fun x => { x with qas := fillSlot x.qas l.id v }
  | .areg d => aLand t d (bytesToNat data) l.spec
  | .drop => t

/-- The lines of the peer's memory that these pieces must ask the peer for and that asks do not name (02 R58). -/
def neededLines (s : State) (c : CoreId) (asks : List PeerAsk) (parts : List Part) : List Nat :=
  ((parts.flatMap fun p => if placeOf s p.pa = .peer then (linesOf p).filter fun n => p.cls != 1 || sharedMiss s c n
    else []).eraseDups).filter
    fun n => !asks.any fun e => e.line == n

/-- Core c asks the peer for lines: the requests, and the state after. -/
def askPeer (s : State) (c : CoreId) (lines : List Nat) : List PeerAsk × State :=
  lines.foldl (fun acc l =>
    let (n, s) := takeStamp acc.2
    (acc.1 ++ [⟨n, l, (getCore s c).fills, (getIsland s (islandOf c)).fills, none⟩],
      chargeExternal { s with sent := .bridgeLoad c n (l * 64) 64 :: s.sent } c 1)) ([], s)

/-- The piece p of the load l of core c may be performed, but for the peer's answer: the marks before the load, the
earlier loads of its location, the order of DEVICE accesses, and the writes of the island that are on their way to the
home of a line that no cache holds, or that an earlier load has returned from a copy (08 R225, R226, R228). -/
def mayRead (s : State) (c : CoreId) (l : LoadRec) (p : Part) : Bool :=
  let t := (getCore s c).ctx
  !writesBefore s t l.mark
    && t.aq.loads.all (fun o => o.id ≥ l.id || o.parts.all fun q => !overlaps q p)
    && (p.cls != 3 || deviceTurn s t l.id)
    && (mine p || (p.cls ≤ 1 && (linesOf p).all fun n => !sharedMiss s c n)
      || s.cores.toList.zipIdx.all fun (k, i) => islandOf (coreOf i) != islandOf c
        || k.ctx.aq.inflight.all fun o => if p.cls ≤ 1 then !linesOverlap [o.part] [p]
          else !(o.seen.contains c && overlaps o.part p))

/-- The piece p of the load l of core c may be performed now (08 R226, R234). -/
def mayReturn (s : State) (c : CoreId) (l : LoadRec) (p : Part) : Bool :=
  mayRead s c l p && (placeOf s p.pa != .peer || (linesOf p).all fun n =>
    (p.cls == 1 && !sharedMiss s c n) || (gotAsk l.ask n).isSome)

/-- The requests that a load of core c may send: those for its pieces that may be performed but for the answer. -/
def askFor (s : State) (c : CoreId) (l : LoadRec) : List PeerAsk × State :=
  askPeer s c (neededLines s c l.ask (l.parts.filter (mayRead s c l)))

/-- The k-th load of core c with its j-th piece, counting the pieces of all of its loads in order. -/
def pieceOf (l : List LoadRec) (k : Nat) : Option (Nat × Nat) :=
  (l.zipIdx.flatMap fun (r, i) => (List.range (max 1 r.parts.length)).map fun j => (i, j))[k]?

/-- The k-th piece of the loads of core c is performed, if it may be (08 R224, R234); with its last one a load returns.
Lines of the peer's memory that the load may ask for now are asked first. -/
def performLoad (s : State) (c : CoreId) (k : Nat) : State :=
  match pieceOf (getCore s c).ctx.aq.loads k with
  | none => s
  | some (i, j) =>
    match (getCore s c).ctx.aq.loads[i]? with
    | none => s
    | some l =>
      let (ask, s) := askFor s c l
      let put (s : State) (l : LoadRec) : State :=
        modCtx s c fun t => { t with aq := { t.aq with loads := t.aq.loads.set i l } }
      if ask ≠ [] then put s { l with ask := l.ask ++ ask }
      else if !(l.parts[j]?.all (mayReturn s c l)) then s
      else
        let (data, s) := readParts s c l.ask l.data (l.parts[j]?).toList
        let rest := listErase l.parts j
        if rest ≠ [] then put s { l with parts := rest, data := data }
        else
          drainStores (modCtx s c fun t => clearWaits
            (deliver { t with aq := { t.aq with loads := listErase t.aq.loads i } } l data)) c

/-- The granules of the parts of an access are charged to the task on core c (04 R112). -/
def chargeParts (s : State) (c : CoreId) (parts : List Part) : State := parts.foldl (fun s p => chargePart s c p) s

/-- A load of core c issues (15 R413). Pieces of the peer's memory go out as requests for whole lines (02 R58). -/
def issueLoad (s : State) (c : CoreId) (dest : LoadDest) (parts : List Part) (size : Nat) (spec : Bool) : State :=
  let (n, s) := takeStamp (chargeParts s c parts)
  let l : LoadRec := ⟨n, (getCore s c).ctx.aq.lastMark, dest, parts.flatMap (locPieces s), List.replicate size 0,
    spec, []⟩
  let (ask, s) := askFor s c l
  modCtx s c fun t =>
    let t := { t with aq := { t.aq with loads := t.aq.loads ++ [{ l with ask := ask }] } }
    let slot : LSlot := ⟨n, none, spec⟩
    match dest with
    | .ql q => modQ t fun x => { x with ql := vmod x.ql q.val fun e => e ++ [slot] }
    | .qap => modQ t fun x => { x with qap := x.qap ++ [slot] }
    | .qas => modQ t fun x => { x with qas := x.qas ++ [slot] }
    | .areg d => { t with aBusy := d :: t.aBusy }
    | .drop => t

/-- The pieces of a write of these bytes, whose number is n. -/
def writePieces (s : State) (n : Nat) (parts : List Part) (data : List Byte) (signal appended : Bool) : List SqEntry :=
  (parts.flatMap (locPieces s)).map fun p => .write ⟨n, 0, p, (data.drop p.off).take p.len, signal, appended, false,
    false, []⟩

/-- A store of core c issues: it enters the store queue (08 R226). -/
def issueStore (s : State) (c : CoreId) (parts : List Part) (data : List Byte) (signal appended : Bool) : State :=
  let (n, s) := takeStamp (chargeParts s c parts)
  modCtx s c fun t =>
    { t with aq := { t.aq with stores := t.aq.stores ++ writePieces s n parts data signal appended } }

/-! ### Atomics (08 R236; 15 R421 to R423) -/

/-- Op of 15 R421 for a size of n bits, without the FP32 add; fadd is that of 15 R422. -/
def atomicOp (fadd : Nat → Nat → Nat) (op n old v : Nat) : Nat :=
  match op with
  | 0 => (old + v) % 2 ^ n
  | 1 => old &&& v
  | 2 => old ||| v
  | 3 => old ^^^ v
  | 4 => v
  | 5 => if signed n old ≤ signed n v then old else v
  | 6 => if signed n old ≥ signed n v then old else v
  | 7 => min old v
  | 8 => max old v
  | _ => fadd old v

/-- The copies of a line that core c and its island hold go, the dirty bytes first (08 R236). -/
def dropLine (s : State) (c : CoreId) (line : Nat) : State :=
  let s := chargeFills (flushLines s c fun l => l.tag == line) c
  modIsland s (islandOf c) fun i => { i with cache := i.cache.filter fun l => l.tag != line }

/-- What an atomic leaves at a location of n bytes that held old (15 R421, R422). -/
def atomicResult (fadd : Nat → Nat → Nat) (cas : Bool) (op : BitVec 4) (n old : Nat) (operand cmp : Word) : Nat :=
  let v := operand.toNat % 2 ^ (8 * n)
  if cas then (if old = cmp.toNat % 2 ^ (8 * n) then v else old) else atomicOp fadd op.toNat (8 * n) old v

/-- The atomic a applied at its location: the old value, and the state after (08 R236). The copies of the issuing core
and its island go, and a PRIVATE owner writes back first (07 R215). -/
def applyAtomic (fadd : Nat → Nat → Nat) (s : State) (c : CoreId) (a : AtomicRec) : Nat × State :=
  let n := if a.wide then 8 else 4
  let line := a.part.pa / 64
  let s := hostRequest (dropLine s c line) (funcOf s c) true a.part.pa n
  let (old, s) := looseNat s a.part.pa n
  let s := physWrite s a.part.pa (natToBytes n (atomicResult fadd a.cas a.op n old a.operand a.cmp))
  let s := if placeOf s a.part.pa = .local then touchHome s (some c) line true else s
  (old, if a.signal then wakeLine s line else s)

/-- The result of an atomic reaches its register, and its place in the store queue goes (15 R421). -/
def finishAtomic (s : State) (c : CoreId) (a : AtomicRec) (old : Nat) : State :=
  drainStores (modCtx s c fun t =>
    let t := clearWaits { t with aq := { t.aq with stores := t.aq.stores.tail } }
    match a.dest with
    | some d => aLand t d old false
    | none => t) c

/-- The atomic at the head of the store queue may be performed: every earlier load has returned, every earlier store is
performed at CORE scope, as a MARK before it asks, no write of the island to its location is in flight, DEVICE accesses
keep their order, and its line is not pinned (07 R200, R219; 08 R225, R228, R233). -/
def mayApplyAtomic (s : State) (c : CoreId) (a : AtomicRec) : Bool :=
  let t := (getCore s c).ctx
  t.aq.loads.all (fun l => l.id ≥ a.id) && !writesBefore s t a.id
    && s.cores.toList.zipIdx.all (fun (k, i) =>
      islandOf (coreOf i) != islandOf c
        || k.ctx.aq.inflight.all fun o => placeOf s o.part.pa == .host || !overlaps o.part a.part)
    && (a.part.cls != 3 || deviceTurn s t a.id)
    && match placeOf s a.part.pa with
      | .staging _ => !pinned s (a.part.pa / 64)
      | _ => true

/-- The atomic at the head of the store queue of core c is performed, if it may be; one in the peer's memory goes out
as a request (02 R59). -/
def performAtomic (fadd : Nat → Nat → Nat) (s : State) (c : CoreId) : State :=
  match (getCore s c).ctx.aq.stores with
  | .atomic a :: r =>
    if !mayApplyAtomic s c a then s
    else if placeOf s a.part.pa = .peer then
      if a.sent then s
      else
        let m : BridgeAtomic := ⟨a.part.pa, a.op, a.cas, a.wide, a.signal, a.operand, a.cmp, Fin.ofNat 64 c.val,
          false, false⟩
        let s := dropLine s c (a.part.pa / 64)
        let s := modIsland s (islandOf c) fun i => { i with fills := i.fills + 1 }
        let s := chargeExternal { s with sent := .bridgeAtomic a.id m :: s.sent } c 1
        modCtx s c fun t => { t with aq := { t.aq with stores := .atomic { a with sent := true } :: r } }
    else
      let (old, s) := applyAtomic fadd s c a
      finishAtomic s c a old
  | _ => s

/-! ### Releases and acquires (08 R231; 07 R218) -/

/-- Every load and atomic of core c has returned. -/
def readsDone (s : State) (c : CoreId) : Bool :=
  let t := (getCore s c).ctx
  t.aq.loads.isEmpty && t.aq.stores.all fun e => match e with
    | .atomic _ => false
    | _ => true

/-- A release at a scope by core c has nothing left to wait for (08 R231). -/
def releaseReady (s : State) (c : CoreId) (scope : Nat) : Bool :=
  readsDone s c && (getCore s c).ctx.aq.stores.isEmpty && outstanding s c scope == 0

/-- A bump of a version; at the wrap to 0 the SHARED lines go (07 R218). -/
def bumpLines (ver : BitVec 4) (l : List Line) : BitVec 4 × List Line :=
  (ver + 1, if ver + 1 = 0 then l.filter (·.priv) else l)

/-- The versions that an acquire at a scope by core c bumps (07 R218). -/
def bumpVersions (s : State) (c : CoreId) (scope : Nat) : State :=
  let s := if scope ≥ 1 then modCore s c fun k =>
    { k with fills := k.fills + 1, ver := (bumpLines k.ver k.l1).1, l1 := (bumpLines k.ver k.l1).2 } else s
  if scope ≥ 2 then modIsland s (islandOf c) fun i =>
    { i with fills := i.fills + 1, ver := (bumpLines i.ver i.cache).1, cache := (bumpLines i.ver i.cache).2 } else s

end Sys2Proof.Machine
end

