-- ==== Sys2Proof/Machine/EngineIo.lean ====
section
/-!
DEFINITION. The memory accesses of the hub's engines and of the firmware: reads and writes at the home slice, slice or
scratchpad (08 R237, R238), the lines that they need of the peer's memory, the events that they charge (04 R114), and
the trap records that they post (10 R277, R287).
-/
namespace Sys2Proof.Machine

/-- Who accesses memory outside the L1s: its agent code, the ASID, the core whose scratchpad region 0xFE names, and the
function whose requester ID its requests to the host carry (02 R41). -/
structure Acc0 where
  who  : Nat
  asid : BitVec 16
  home : Nat
  func : BitVec 4

/-- What an engine's access comes to: a result, a location of a transfer, after which it goes on, lines of the peer's
memory that it must wait for, another wait, a replayable page fault, or a failure of any other kind. -/
inductive Eng (α : Type)
  | ok (a : α) (io : EngIo) (s : State)
  | again (io : EngIo) (s : State)
  | need (lines : List Nat)
  | wait
  | page (va : VAddr) (k : WalkKind)
  | fail

/-- The engine goes on with the result. -/
def Eng.andThen {α β : Type} (r : Eng α) (f : α → EngIo → State → Eng β) : Eng β :=
  match r with
  | .ok a io s => f a io s
  | .again io s => .again io s
  | .need l => .need l
  | .wait => .wait
  | .page v k => .page v k
  | .fail => .fail

/-- The transactions of walks and write-backs that an engine's access caused are counted to it (04 R114). -/
def countFills (io : EngIo) (s : State) : EngIo × State :=
  ({ io with jmem := io.jmem + 1536 * s.walkFills }, { s with walkFills := 0 })

/-- The reads of a walk that faulted are counted to the engine's access (04 R114). -/
def countFault (s : State) (io : EngIo) (asid : BitVec 16) (va : VAddr) (k : WalkKind) : EngIo × State :=
  countFills io (touchFault { s with walkFills := 0 } asid va k)

/-- The pieces of an engine's access, all of them checked. -/
def engResolve (s : State) (io : EngIo) (w : Acc0) (va : VAddr) (len : Nat) (k : WalkKind) : Eng (List Part) :=
  match resolve { s with walkFills := 0 } w.who w.asid w.home va 0 len k with
  | .ok (ps, s) =>
    let (io, s) := countFills io s
    .ok ps io s
  | .wait => .wait
  | .waitAs _ => .wait
  | .again _ => .wait
  | .trap .pageFault _ a => .page a k
  | .trap _ _ _ => .fail

/-- Staging granules and external transactions that an engine counts (04 R113, R114). -/
def countIo (io : EngIo) (granules transactions : Nat) : EngIo :=
  { io with work := io.work + costStaging * granules * 202500, jmem := io.jmem + 1536 * transactions }

/-- The scratchpad granules that a job's engine counts, at the voltage of the scratchpad's core (04 R112, R113); those
of a sampler engine fall within HUBRES (04 R114). -/
def countScratch (s : State) (io : EngIo) (w : Acc0) (core granules : Nat) : EngIo :=
  if 86 ≤ w.who && w.who < 90 then io
  else { io with work := io.work + costL1 * granules * volt2 s (coreOf core) }

/-- Every line of a piece of card memory is read or written at its home slice. -/
def homeLines (s : State) (p : Part) (write : Bool) : Nat × State :=
  (linesOf p).foldl (fun acc l => let (n, s) := homeLine acc.2 l write; (acc.1 + n, s)) (0, s)

/-- The bytes of a piece that an engine reads, all at once. -/
def engPart (s : State) (io : EngIo) (w : Acc0) (p : Part) : Eng (List Byte) :=
  let read (io : EngIo) (s : State) : Eng (List Byte) :=
    let (b, s) := looseBytes s p.pa (physRead s p.pa p.len)
    .ok b io s
  match placeOf s p.pa with
  | .peer =>
    let missing := (linesOf p).filter fun l => !io.got.any fun e => e.1 == l
    if missing ≠ [] then .need missing
    else
      let bytes := (linesOf p).flatMap fun l => match io.got.find? fun e => e.1 == l with
        | some e => bytesOf e.2 0 64
        | none => []
      .ok ((bytes.drop (p.pa % 64)).take p.len) io s
  | .local =>
    let (n, s) := homeLines s p false
    read (countIo io 0 n) s
  | .staging _ => read (countIo io (linesOf p).length 0) s
  | .scratch c => read (countScratch s io w c (linesOf p).length) s
  | .mmio => .fail
  | _ => read io (hostRequest s w.func false p.pa p.len)

/-- The bytes of the pieces that an engine reads, in order. -/
def engParts (s : State) (io : EngIo) (w : Acc0) : List Part → Eng (List Byte)
  | [] => .ok [] io s
  | p :: r => (engPart s io w p).andThen fun b io s =>
    (engParts s io w r).andThen fun c io s => .ok (b ++ c) io s

/-- len bytes at va, read at once. -/
def engLoad (s : State) (io : EngIo) (w : Acc0) (va : VAddr) (len : Nat) : Eng (List Byte) :=
  (engResolve s io w va len .read).andThen fun ps io s => engParts s io w ps

/-- The piece q of a transfer goes on within a granule of 64 bytes that has been counted: the granule, or the message to
the peer, is not counted again (04 R112, R114). -/
def countOnce (s : State) (q : Part) (first : Bool) (before after : EngIo) : EngIo :=
  if first || q.pa % 64 = 0 then after
  else if placeOf s q.pa = .peer then { after with jmem := before.jmem }
  else { after with work := before.work }

/-- The locations of the pieces that an engine reads, one after another: the next that it has not read, and the bytes
once it has read them all (08 R224, R237). The lines of the peer's memory come by their messages. -/
def readLocations (s : State) (io : EngIo) (w : Acc0) (ps : List Part) : Eng (List Byte) :=
  match ps.find? fun p => placeOf s p.pa == .peer with
  | some _ => engParts s io w ps
  | none =>
    let locs := ps.flatMap fun p => (locPieces s p).map fun q => (q, q.pa == p.pa)
    match locs.find? fun e => !io.seen.any fun x => x.1 == e.1.pa with
    | none => .ok (locs.flatMap fun e => ((io.seen.find? fun x => x.1 == e.1.pa).map (·.2)).getD []) io s
    | some (q, first) => (engPart s io w q).andThen fun b io' s =>
      .again { countOnce s q first io io' with seen := io.seen ++ [(q.pa, b)] } s

/-- len bytes at va, as an engine's transfer reads them. -/
def engRead (s : State) (io : EngIo) (w : Acc0) (va : VAddr) (len : Nat) : Eng (List Byte) :=
  (engResolve s io w va len .read).andThen fun ps io s => readLocations s io w ps

/-- The copies of a line in the L1 and the island cache of the core that w names go, the dirty bytes first, before the
core's firmware or A-stream accesses the line at its home. -/
def dropCopies (s : State) (w : Acc0) (line : Nat) : State :=
  if w.who < 64 then
    let c := coreOf w.who
    modIsland (flushLines s c fun l => l.tag == line) (islandOf c) fun i =>
      { i with cache := i.cache.filter fun l => l.tag != line }
  else s

/-- A piece that an engine writes; core names the core whose store messages carry writes of the peer's memory. -/
def engStorePart (s : State) (io : EngIo) (w : Acc0) (core : CoreId) (signal : Bool) (p : Part) (data : List Byte) :
    Eng Unit :=
  let land (io : EngIo) (s : State) : Eng Unit :=
    let s := physWrite s p.pa data
    .ok () io (if signal then wakePart s p else s)
  match placeOf s p.pa with
  | .peer =>
    let pieces := linePieces p data
    let (out, s) := pieces.foldl (fun acc e =>
      let (n, s) := takeStamp acc.2
      (acc.1 ++ [(n, e.2.length)], { s with sent := .bridgeStore core n e.1 e.2 signal :: s.sent })) ([], s)
    .ok () { countIo io 0 pieces.length with out := io.out ++ out } s
  | .local =>
    let s := (linesOf p).foldl (fun s l => dropCopies s w l) s
    let (n, s) := homeLines s p true
    let (io, s) := countFills (countIo io 0 n) s
    land io s
  | .staging _ =>
    if (linesOf p).any (pinned s) then .wait
    else land (countIo io (linesOf p).length 0) s
  | .scratch c => land (countScratch s io w c (linesOf p).length) s
  | .mmio => .fail
  | _ => land io (hostRequest s w.func true p.pa data.length)

/-- The pieces that an engine writes; data are the bytes of the whole access. -/
def engStoreParts (s : State) (io : EngIo) (w : Acc0) (core : CoreId) (signal : Bool) (data : List Byte) :
    List Part → Eng Unit
  | [] => .ok () io s
  | p :: r => (engStorePart s io w core signal p ((data.drop p.off).take p.len)).andThen fun _ io s =>
    engStoreParts s io w core signal data r

/-- Bytes at va, written at once. -/
def engStore (s : State) (io : EngIo) (w : Acc0) (core : CoreId) (signal : Bool) (va : VAddr) (data : List Byte) :
    Eng Unit :=
  (engResolve s io w va data.length .write).andThen fun ps io s => engStoreParts s io w core signal data ps

/-- The locations of the pieces that an engine writes, one after another (08 R224, R237). -/
def writeLocations (s : State) (io : EngIo) (w : Acc0) (core : CoreId) (signal : Bool) (data : List Byte)
    (ps : List Part) : Eng Unit :=
  let locs := ps.flatMap fun p => (locPieces s p).map fun q => (q, q.pa == p.pa)
  match locs[io.put]? with
  | none => .ok () { io with put := 0 } s
  | some (q, first) => (engStorePart s io w core signal q ((data.drop q.off).take q.len)).andThen fun _ io' s =>
    let io' := countOnce s q first io io'
    if io.put + 1 < locs.length then .again { io' with put := io.put + 1 } s else .ok () { io' with put := 0 } s

/-- Bytes at va, as an engine's transfer writes them. -/
def engWrite (s : State) (io : EngIo) (w : Acc0) (core : CoreId) (signal : Bool) (va : VAddr) (data : List Byte) :
    Eng Unit :=
  (engResolve s io w va data.length .write).andThen fun ps io s => writeLocations s io w core signal data ps

/-- What a transfer that is over, or a read whose bytes are used, leaves of its progress. -/
def EngIo.fresh (io : EngIo) : EngIo := { io with got := [], seen := [], put := 0 }

/-- Requests for the lines of the peer's memory that were not asked for yet (02 R58). Replies name core c. -/
def askLines (s : State) (c : CoreId) (io : EngIo) (lines : List Nat) : EngIo × State :=
  lines.foldl (fun (acc : EngIo × State) l =>
    if acc.1.ask.any fun e => e.2 == l then acc
    else
      let (n, s) := takeStamp acc.2
      ({ countIo acc.1 0 1 with ask := acc.1.ask ++ [(n, l)] },
        { s with sent := .bridgeLoad c n (l * 64) 64 :: s.sent }))
    (io, s)

/-- The peer's answer to atomic n reaches the engine that sent it. -/
def answerAtom (io : EngIo) (n old : Nat) : EngIo :=
  match io.atoms.find? fun e => e.1 == n with
  | some e => { io with atoms := io.atoms.filter (fun e => e.1 != n), old := (e.2.map fun g => (g, old)).or io.old }
  | none => io

/-- The peer's acknowledgement of write n reaches the engine that made it. -/
def ackIo (io : EngIo) (n : Nat) : EngIo := { io with out := io.out.filter fun e => e.1 != n }

/-- An answer of the peer to request n reaches the engine that asked. -/
def answerIo (io : EngIo) (n : Nat) (data : List Byte) : EngIo :=
  match io.ask.find? fun e => e.1 == n with
  | some e => { io with ask := io.ask.filter (fun e => e.1 != n), got := (e.2, ofBytes 512 data) :: io.got }
  | none => io

/-! ### Trap records (10 R277) -/

/-- The agent's code in a record: cores and engines by the OWNER encoding, dispatch cores as 127. -/
def recordAgent (who : Nat) : Nat := if who < 90 then who else 127

/-- A field of n bytes put at byte i of a record. -/
def recPut (l : List Byte) (i n v : Nat) : List Byte := spliceBytes l i (natToBytes n v)

/-- A record that holds nothing. -/
def recEmpty : List Byte := List.replicate 256 0

/-- The replayable record of an engine (10 R277, R287). -/
def engineRecord (seq : BitVec 32) (task : Nat) (asid : BitVec 16) (agent : Nat) (va : VAddr) (k : WalkKind)
    (card : VAddr) (progress : Nat) : BitVec 2048 :=
  let l := recPut recEmpty 0 4 seq.toNat
  let l := recPut l 4 2 Cause.pageFault.code
  let l := recPut l 6 1 6
  let l := recPut l 7 1 2
  let l := recPut l 8 4 task
  let l := recPut l 12 2 asid.toNat
  let l := recPut l 14 1 agent
  let l := recPut l 15 1 (kindDetail k)
  let l := recPut l 16 8 (offset va)
  let l := recPut l 24 1 (region va)
  let l := recPut l 152 8 (offset card)
  let l := recPut l 160 1 (region card)
  ofBytes 2048 (recPut l 164 4 progress)

/-- A replayable record is posted while the trap queue holds fewer than 248 (10 R287); mk makes it from its sequence
number. -/
def postReplay (s : State) (r : Replay) (mk : BitVec 32 → BitVec 2048) : Replay × State :=
  if r.record.isSome || s.trapq.length ≥ 248 then (r, s)
  else
    let (n, s) := takeSeq s
    ({ r with record := some n }, { s with trapq := s.trapq ++ [mk n] })

/-! ### The replay journal (12 R337 to R339) -/

/-- The 16 bytes of an entry (12 R338). -/
def JEntry.bytes (e : JEntry) : List Byte :=
  natToBytes 4 e.seq.toNat ++ natToBytes 1 e.kind ++ natToBytes 1 e.flags ++ natToBytes 1 e.iter ++ natToBytes 1 e.sib
    ++ natToBytes 4 e.step ++ natToBytes 4 e.value

/-- The first 16 bytes of the journal header, updated as an atomic does (12 R337), at its home slice on either card or
at the host. -/
def headerPart (s : State) (io : EngIo) (w : Acc0) (hdr : Nat) : Eng Part :=
  (engResolve s io w (vaddr 0 hdr) 16 .atomic).andThen fun ps io s =>
    match ps with
    | [p] => match placeOf s p.pa with
      | .local => .ok p io s
      | .host => .ok p io s
      | .peer => .ok p io s
      | _ => .fail
    | _ => .fail

/-- The header's bytes 0 to 15 as a number; those of a header in the peer's memory are as the peer last answered them. -/
def headerRead (s : State) (io : EngIo) (w : Acc0) (p : Part) : Eng Nat :=
  (engPart (dropCopies s w (p.pa / 64)) io w p).andThen fun b io s => .ok (bytesToNat b) io s

/-- An atomic of an engine or of a core's journal goes to the peer; with guess, the compare and swap that takes that
index (02 R59). -/
def sendAtomic (s : State) (io : EngIo) (w : Acc0) (pa : Nat) (op : BitVec 4) (v : Nat) (guess : Option Nat) :
    EngIo × State :=
  let (n, s) := takeStamp s
  let m : BridgeAtomic :=
    ⟨pa, op, guess.isSome, false, false, BitVec.ofNat 64 v, BitVec.ofNat 64 (guess.getD 0), Fin.ofNat 64 w.home, false,
      false⟩
  ({ countIo io 0 1 with atoms := io.atoms ++ [(n, guess)], old := none }, { s with sent := .bridgeAtomic n m :: s.sent })

/-- A field of the header set to v, n bytes from byte i: by an atomic at its home slice, which for the peer's memory
swaps RNEXT or sets the bits of byte 12 (12 R337; 02 R59). -/
def headerPut (s : State) (io : EngIo) (w : Acc0) (p : Part) (i n v : Nat) : EngIo × State :=
  match placeOf s p.pa with
  | .peer => sendAtomic s io w (p.pa + i) (if i = 8 then 4 else 2) v none
  | .local =>
    let (m, s) := homeLines s p true
    countFills (countIo io 0 m) (physWrite s (p.pa + i) (natToBytes n v))
  | _ => (io, physWrite (hostRequest s w.func true (p.pa + i) n) (p.pa + i) (natToBytes n v))

/-- An entry stays unwritten, and LOST is set (12 R337). -/
def loseEntry (s : State) (io : EngIo) (w : Acc0) (p : Part) (rest : List JEntry) : Eng JPut :=
  (headerRead s io w p).andThen fun h io s =>
    let (io, s) := headerPut s io w p 12 1 (bits h 103 96 ||| 2)
    .ok ⟨rest, none⟩ io s

/-- The index for the next entry is taken from NEXT, or the entry is lost since NEXT has reached LIMIT (12 R337). In the
peer's memory a compare and swap takes it, repeated with the NEXT that it found (DESIGN CHOICE 129). -/
def takeIndex (s : State) (io : EngIo) (w : Acc0) (p : Part) (x : JPut) : Eng JPut :=
  (headerRead s io w p).andThen fun h io s =>
    let lost := loseEntry s { io with old := none } w p x.todo.tail
    let claim (n : Nat) : Eng JPut :=
      let (io, s) := sendAtomic s io w (p.pa + 4) 0 (n + 1) (some n)
      .ok x io s
    let try_ (n : Nat) : Eng JPut := if n ≥ bits h 31 0 then lost else claim n
    match placeOf s p.pa, io.old with
    | .peer, some (n, found) => if found = n then .ok ⟨x.todo, some n⟩ { io with old := none } s else try_ found
    | .peer, none => if io.atoms.any fun e => e.2.isSome then .wait else try_ (bits h 63 32)
    | _, _ =>
      if bits h 63 32 ≥ bits h 31 0 then lost
      else
        let (io, s) := headerPut s io w p 4 4 (bits h 63 32 + 1)
        .ok ⟨x.todo, some (bits h 63 32)⟩ io s

/-- Entry e written at index i (12 R337). Only a page fault of an engine's write, which stops the engine, comes back as
one: strict is true for an engine. No address of an entry wraps (07 R196). -/
def putEntry (s : State) (io : EngIo) (w : Acc0) (core : CoreId) (strict : Bool) (hdr : Nat) (p : Part) (e : JEntry)
    (i : Nat) (rest : List JEntry) : Eng JPut :=
  let lost := loseEntry s io w p rest
  let at_ := hdr + 64 + 16 * i
  match if at_ ≥ 2 ^ 64 then .fail else engWrite s io w core false (vaddr 0 at_) e.bytes with
  | .ok _ io s => .ok ⟨rest, none⟩ io s
  | .again io s => .again io s
  | .page va k => if strict then .page va k else lost
  | .wait => if strict then .wait else lost
  | _ => lost

/-- The next step of writing entries to the journal at hdr: the index of the first one, then the entry (12 R337). -/
def journalStep (s : State) (io : EngIo) (w : Acc0) (core : CoreId) (strict : Bool) (hdr : Nat) (x : JPut) : Eng JPut :=
  match x.todo with
  | [] => .ok x io s
  | e :: r => (headerPart s io w hdr).andThen fun p io s =>
    match x.index with
    | none => takeIndex s io w p x
    | some i => putEntry s io w core strict hdr p e i r

/-- Where work on a journal stops: it is done and performed, it has done a part of it, or it waits for lines of the
peer's memory, for something else, or for a page (12 R337; 07 R211). -/
inductive Halt
  | done
  | again
  | need (lines : List Nat)
  | wait
  | page (va : VAddr) (k : WalkKind)

/-- Entries are written until something holds them up; one whose header cannot be reached stays unwritten (12 R337). n
bounds the steps. -/
def journalRun (w : Acc0) (core : CoreId) (strict : Bool) (hdr : Nat) :
    (n : Nat) → State → EngIo → JPut → JPut × EngIo × State × Halt
  | 0, s, io, x => (x, io, s, .wait)
  | n + 1, s, io, x =>
    if x.todo.isEmpty then (x, io, s, if io.out.isEmpty && io.atoms.isEmpty then .done else .wait)
    else match journalStep s io w core strict hdr x with
      | .ok x io s => journalRun w core strict hdr n s io x
      | .again io s => if strict then (x, io, s, .again) else journalRun w core strict hdr n s io x
      | .need l => (x, io, s, .need l)
      | .wait => (x, io, s, .wait)
      | .page v k => if strict then (x, io, s, .page v k) else journalRun w core strict hdr n s io ⟨[], none⟩
      | .fail => journalRun w core strict hdr n s io ⟨[], none⟩

/-- The steps that writing x takes at most while nothing holds it up. -/
def JPut.steps (x : JPut) : Nat := 8 * x.todo.length + 4

/-- The entry of index i of the journal, none where its read fails; a page fault stops an engine (12 R329, R339). -/
def journalGet (s : State) (io : EngIo) (w : Acc0) (strict : Bool) (hdr i : Nat) : Eng (Option Nat) :=
  if hdr + 64 + 16 * i ≥ 2 ^ 64 then .ok none io s
  else match engRead s io w (vaddr 0 (hdr + 64 + 16 * i)) 16 with
    | .ok b io s => .ok (some (bytesToNat b)) io s
    | .again io s => .again io s
    | .page v k => if strict then .page v k else .ok none io s
    | .fail => .ok none io s
    | .need l => .need l
    | .wait => .wait

/-- The entry of highest index below n that ok accepts (12 R339). -/
def journalLast (w : Acc0) (strict : Bool) (hdr : Nat) (ok : Nat → Bool) :
    (n : Nat) → State → EngIo → Eng (Option Nat)
  | 0, s, io => .ok none io s
  | n + 1, s, io => (journalGet s io w strict hdr n).andThen fun e io s =>
    if e.any ok then .ok e io s else journalLast w strict hdr ok n s io

/-- The first entry that ok accepts from index i on, with its index; n bounds the search (12 R339). -/
def journalFirst (w : Acc0) (hdr : Nat) (ok : Nat → Bool) : (n i : Nat) → State → EngIo → Eng (Option (Nat × Nat))
  | 0, _, s, io => .ok none io s
  | n + 1, i, s, io => (journalGet s io w false hdr i).andThen fun e io s =>
    if e.any ok then .ok (e.map fun v => (i, v)) io s else journalFirst w hdr ok n (i + 1) s io

end Sys2Proof.Machine
end

