-- ==== Sys2Proof/Machine/Float.lean ====
section
/-!
DEFINITION. Number formats and arithmetic (11). A value is exact: a sign, a natural number and a power of two. Every
result is formed exactly and rounded once. A quotient or a root, which is no such value, is cut far below any
destination's last place with a last bit that tells whether something was cut off, which leaves every rounding as the
exact value would have it.
-/
namespace Sys2Proof.Machine

/-! ### Values -/

/-- A value: NaN (signalling or quiet), an infinity, or (−1)^neg × m × 2^e. -/
inductive FVal
  | nan (signalling : Bool)
  | inf (neg : Bool)
  | num (neg : Bool) (m : Nat) (e : Int)
  deriving DecidableEq, Repr

/-- The flags of 11 R322 by bit: NV, DZ, OF, UF, NX, SATF, PSU. -/
abbrev Flags := BitVec 7
/-- Invalid operation. -/
def flagNV : Flags := 1
/-- Division by zero. -/
def flagDZ : Flags := 2
/-- Overflow. -/
def flagOF : Flags := 4
/-- Underflow. -/
def flagUF : Flags := 8
/-- Inexact. -/
def flagNX : Flags := 16
/-- Saturated integer result. -/
def flagSATF : Flags := 32
/-- PS32 result below range. -/
def flagPSU : Flags := 64

/-- +0. -/
def fZero : FVal := .num false 0 0
/-- The value of an integer. -/
def fInt (i : Int) : FVal := .num (i < 0) i.natAbs 0
/-- The value is a zero. -/
def isZero : FVal → Bool
  | .num _ m _ => m == 0
  | _ => false
/-- The value is a NaN. -/
def isNaN : FVal → Bool
  | .nan _ => true
  | _ => false
/-- The value is a signalling NaN. -/
def isSNaN : FVal → Bool
  | .nan q => q
  | _ => false
/-- The sign of a value that is no NaN. -/
def signOf : FVal → Bool
  | .inf n => n
  | .num n _ _ => n
  | .nan _ => false

/-- The exponent of the leading bit of m × 2^e, for m > 0. -/
def leadExp (m : Nat) (e : Int) : Int := e + Nat.log2 m

/-- The signed integer (−1)^neg × m × 2^(e − lo), for lo ≤ e. -/
def scaled (neg : Bool) (m : Nat) (e lo : Int) : Int :=
  let v : Int := m * 2 ^ (e - lo).toNat
  if neg then -v else v

/-- −1, 0 or 1 as a is below, equal to or above b, for values that are no NaN; zeros are equal. -/
def fCompare (a b : FVal) : Int :=
  match a, b with
  | .inf x, .inf y => if x == y then 0 else if x then -1 else 1
  | .inf x, _ => if x then -1 else 1
  | _, .inf y => if y then 1 else -1
  | .num x m e, .num y n f =>
    let lo := min e f
    let u := scaled x m e lo
    let v := scaled y n f lo
    if u < v then -1 else if u = v then 0 else 1
  | _, _ => 0

/-! ### Exact operations -/

/-- The sum; down selects the sign of an exact zero sum of opposite signs (11 R318). invalid infinities give a NaN. -/
def fAdd (down : Bool) (a b : FVal) : FVal :=
  match a, b with
  | .nan x, .nan y => .nan (x || y)
  | .nan x, _ => .nan x
  | _, .nan y => .nan y
  | .inf x, .inf y => if x == y then .inf x else .nan false
  | .inf x, _ => .inf x
  | _, .inf y => .inf y
  | .num x m e, .num y n f =>
    if m = 0 ∧ n = 0 then .num (if x == y then x else down) 0 0
    else
      let lo := min e f
      let s := scaled x m e lo + scaled y n f lo
      if s = 0 then .num down 0 0 else .num (s < 0) s.natAbs lo

/-- The negative; a NaN keeps its kind. -/
def fNeg : FVal → FVal
  | .nan x => .nan x
  | .inf x => .inf !x
  | .num x m e => .num (!x) m e

/-- The product (11 R324). -/
def fMul (a b : FVal) : FVal :=
  match a, b with
  | .nan x, .nan y => .nan (x || y)
  | .nan x, _ => .nan x
  | _, .nan y => .nan y
  | .inf x, .inf y => .inf (x != y)
  | .inf x, .num y n _ => if n = 0 then .nan false else .inf (x != y)
  | .num x m _, .inf y => if m = 0 then .nan false else .inf (x != y)
  | .num x m e, .num y n f => .num (x != y) (m * n) (e + f)

/-- How far below the leading bit a quotient or a root is cut. -/
def cutBits : Nat := 200

/-- The quotient of m × 2^e by n × 2^f, for n > 0, cut with a last bit that tells whether something was cut off. -/
def divCut (neg : Bool) (m : Nat) (e : Int) (n : Nat) (f : Int) : FVal :=
  let sh := cutBits + Nat.log2 n + 1
  let q := m * 2 ^ sh / n
  let sticky := if m * 2 ^ sh % n = 0 then 0 else 1
  .num neg (2 * q + sticky) (e - f - sh - 1)

/-- The quotient; a zero divisor of a finite nonzero number gives an infinity. -/
def fDiv (a b : FVal) : FVal :=
  match a, b with
  | .nan x, .nan y => .nan (x || y)
  | .nan x, _ => .nan x
  | _, .nan y => .nan y
  | .inf _, .inf _ => .nan false
  | .inf x, .num y _ _ => .inf (x != y)
  | .num x _ _, .inf y => .num (x != y) 0 0
  | .num x m e, .num y n f =>
    if n = 0 then (if m = 0 then .nan false else .inf (x != y))
    else if m = 0 then .num (x != y) 0 0
    else divCut (x != y) m e n f

/-- The integer square root of n, whose root has at most k bits. -/
def isqrtFrom (n : Nat) : (k : Nat) → (r : Nat) → Nat
  | 0, r => r
  | k + 1, r => isqrtFrom n k (if (r + 2 ^ k) * (r + 2 ^ k) ≤ n then r + 2 ^ k else r)
/-- The integer square root. -/
def isqrt (n : Nat) : Nat := isqrtFrom n (Nat.log2 n / 2 + 1) 0

/-- The square root of m × 2^e, for m > 0, cut with a last bit that tells whether something was cut off. -/
def sqrtCut (m : Nat) (e : Int) : FVal :=
  let sh := 2 * cutBits + (if e % 2 = 0 then 0 else 1)
  let v := m * 2 ^ sh
  let r := isqrt v
  .num false (2 * r + if r * r = v then 0 else 1) ((e - sh) / 2 - 1)

/-! ### Floating-point formats (11 R308, R309) -/

/-- A floating-point layout: exponent bits, fraction bits, bias. top is the largest finite magnitude as a multiple of
2^topExp; inf tells that the format has infinities, sub that it has subnormals. -/
structure FFmt where
  ebits  : Nat
  fbits  : Nat
  bias   : Nat
  top    : Nat
  topExp : Int
  inf    : Bool
  sub    : Bool
  deriving DecidableEq, Repr

/-- FP32. -/
def fmtFP32 : FFmt := ⟨8, 23, 127, 2 ^ 24 - 1, 104, true, true⟩
/-- BF16. -/
def fmtBF16 : FFmt := ⟨8, 7, 127, 2 ^ 8 - 1, 120, true, true⟩
/-- FP16. -/
def fmtFP16 : FFmt := ⟨5, 10, 15, 2 ^ 11 - 1, 5, true, true⟩
/-- FP8 E5M2. -/
def fmtE5M2 : FFmt := ⟨5, 2, 15, 7, 13, true, true⟩
/-- FP8 E4M3. -/
def fmtE4M3 : FFmt := ⟨4, 3, 7, 14, 5, false, true⟩
/-- The E2M1 elements of MXFP4. -/
def fmtE2M1 : FFmt := ⟨2, 1, 1, 3, 1, false, true⟩
/-- ACC96. -/
def fmtACC96 : FFmt := ⟨15, 80, 16383, 2 ^ 81 - 1, 16303, true, false⟩

/-- The floating-point layout of a format code, FP32 for the codes that have none (11 R306). -/
def floatFmt (code : Nat) : FFmt :=
  match code with
  | 0 => fmtBF16 | 1 => fmtFP16 | 2 => fmtE4M3 | 3 => fmtE5M2 | 5 => fmtE2M1 | 7 => fmtE4M3 | 13 => fmtACC96
  | _ => fmtFP32

/-- The format code is a floating-point one of the V-stream. -/
def isFloat (code : Nat) : Bool := code ≤ 3 || code == 8 || code == 13
/-- The format code is an integer one. -/
def isInt (code : Nat) : Bool := code == 4 || (9 ≤ code && code ≤ 12)

/-- The element of layout f with these bits (11 R309). -/
def decodeFloat (f : FFmt) (v : Nat) : FVal :=
  let neg := bit v (f.ebits + f.fbits)
  let e := bits v (f.ebits + f.fbits - 1) f.fbits
  let m := v % 2 ^ f.fbits
  if e = 0 then .num neg (if f.sub then m else 0) (1 - (f.bias : Int) - f.fbits)
  else if f.inf && e = 2 ^ f.ebits - 1 then
    if m = 0 then .inf neg else .nan (f.fbits > 2 && !bit m (f.fbits - 1))
  else if f == fmtE4M3 && e = 15 && m = 7 then .nan false
  else .num neg (2 ^ f.fbits + m) ((e : Int) - f.bias - f.fbits)

/-- DefaultNaN of a layout (11 R310). -/
def defaultNaN (f : FFmt) : Nat :=
  if f == fmtE4M3 then 0x7F else (2 ^ f.ebits - 1) * 2 ^ f.fbits + 2 ^ (f.fbits - 1)

/-- The bits of the infinity of layout f. -/
def infBits (f : FFmt) (neg : Bool) : Nat := bitOf neg * 2 ^ (f.ebits + f.fbits) + (2 ^ f.ebits - 1) * 2 ^ f.fbits
/-- The bits of the largest finite value of layout f. -/
def maxBits (f : FFmt) (neg : Bool) : Nat :=
  bitOf neg * 2 ^ (f.ebits + f.fbits)
    + (if f == fmtE4M3 then 0x7E else if f == fmtE2M1 then 7 else (2 ^ f.ebits - 1) * 2 ^ f.fbits - 1)

/-- m / 2^sh rounded to an integer in a mode (0 nearest even, 1 toward zero, 2 down, 3 up), and whether it is
inexact (11 R317). -/
def roundShift (mode : Nat) (neg : Bool) (m sh : Nat) : Nat × Bool :=
  let q := m / 2 ^ sh
  let r := m % 2 ^ sh
  let half := 2 ^ sh / 2
  let up := match mode with
    | 0 => decide (r > half) || (decide (r = half) && sh != 0 && q % 2 == 1)
    | 1 => false
    | 2 => neg && r != 0
    | _ => !neg && r != 0
  (if up then q + 1 else q, r != 0)

/-- An overflow of layout f (11 R318). -/
def overflow (f : FFmt) (mode : Nat) (sat neg : Bool) : Nat × Flags :=
  let toInf := !sat && (mode == 0 || (mode == 2 && neg) || (mode == 3 && !neg))
  if f == fmtE2M1 || !toInf then (maxBits f neg, flagOF ||| flagNX)
  else if f.inf then (infBits f neg, flagOF ||| flagNX)
  else (bitOf neg * 128 + 0x7F, flagNV ||| flagNX)

/-- (−1)^neg × m × 2^e in layout f, rounded once (11 R317, R318). -/
def roundNum (f : FFmt) (mode : Nat) (sat neg : Bool) (m : Nat) (e : Int) : Nat × Flags :=
  let sign := bitOf neg * 2 ^ (f.ebits + f.fbits)
  if m = 0 then (sign, 0)
  else
    let emin : Int := 1 - f.bias
    let lead := leadExp m e
    let q : Int := (if f.sub && lead < emin then emin else lead) - f.fbits
    let (r, inexact) := if e ≥ q then (m * 2 ^ (e - q).toNat, false) else roundShift mode neg m (q - e).toNat
    let nx := if inexact then flagNX else 0
    if fCompare (.num false r q) (.num false f.top f.topExp) = 1 then overflow f mode sat neg
    else if r = 0 then (sign, flagUF ||| flagNX)
    else
      let lead' := leadExp r q
      if lead' < emin then
        if f.sub then (sign + r * 2 ^ (q - (emin - f.fbits)).toNat, nx ||| (if inexact then flagUF else 0))
        else (sign, flagUF ||| flagNX)
      else
        let frac := (if lead' - f.fbits ≥ q then r / 2 ^ (lead' - f.fbits - q).toNat
          else r * 2 ^ (q - (lead' - f.fbits)).toNat) % 2 ^ f.fbits
        (sign + (lead' + f.bias).toNat * 2 ^ f.fbits + frac, nx)

/-- A value in layout f: rounded once, with the fate of NaNs and infinities (11 R318, R319). NV is set for a signalling
NaN; invalid tells that the operation that formed the value was invalid. -/
def roundFloat (f : FFmt) (mode : Nat) (sat : Bool) (v : FVal) : Nat × Flags :=
  match v with
  | .nan s => (if f == fmtE2M1 then 7 else defaultNaN f, if s then flagNV else 0)
  | .inf neg =>
    if f == fmtE2M1 then (maxBits f neg, flagNV)
    else if f.inf then (infBits f neg, 0)
    else if sat then (maxBits f neg, flagNV) else (bitOf neg * 128 + 0x7F, flagNV)
  | .num neg m e => roundNum f mode sat neg m e

/-! ### PS32 (11 R315, R316) -/

/-- The PS32 NaN. -/
def ps32NaN : Nat := 0xFFF00000

/-- The value of a PS32 word (11 R315). -/
def decodePs32 (w : Nat) : FVal :=
  let e := bits w 31 20
  if e = 0 then fZero
  else if e = 4095 then .nan false
  else .num false (2 ^ 20 + w % 2 ^ 20) (2047 - (e : Int) - 20)

/-- The PS32 word of m × 2^e (11 R316). -/
def roundPs32 (m : Nat) (e : Int) : Nat × Flags :=
  if m = 0 then (0, 0)
  else
    let q := leadExp m e - 20
    let (r, inexact) := if e ≥ q then (m * 2 ^ (e - q).toNat, false) else roundShift 0 false m (q - e).toNat
    let lead := leadExp r q
    let frac := (if r = 2 ^ 21 then 0 else r) % 2 ^ 20
    if lead > 2046 then (0x001FFFFF, flagOF ||| flagNX)
    else if lead < -2047 then (0, flagPSU ||| flagUF ||| flagNX)
    else ((2047 - lead).toNat * 2 ^ 20 + frac, if inexact then flagNX else 0)

/-- The PS32 result of an exact value that is no conversion: a NaN sets no flag (11 R316). -/
def ps32Result (v : FVal) : Nat × Flags :=
  match v with
  | .nan _ => (ps32NaN, 0)
  | .inf _ => (0x001FFFFF, flagOF ||| flagNX)
  | .num _ m e => roundPs32 m e

/-- A conversion to PS32 (11 R316). -/
def toPs32 (v : FVal) : Nat × Flags :=
  match v with
  | .nan _ => (ps32NaN, flagNV)
  | .inf neg => if neg then (ps32NaN, flagNV) else (0x001FFFFF, flagOF ||| flagNX)
  | .num neg m e => if neg && m != 0 then (ps32NaN, flagNV) else roundPs32 m e

/-! ### Integers (11 R314, R320) -/

/-- The range of an integer format code. -/
def intRange (code : Nat) : Int × Int :=
  match code with
  | 4 => (-128, 127)
  | 9 => (-2147483648, 2147483647)
  | 10 => (-32768, 32767)
  | 11 => (0, 255)
  | _ => (0, 4294967295)

/-- The width of an integer format code. -/
def intBits (code : Nat) : Nat :=
  match code with
  | 4 => 8 | 10 => 16 | 11 => 8 | _ => 32

/-- The integer of an element (11 R314). -/
def decodeInt (code v : Nat) : Int :=
  if code == 11 || code == 12 then (v % 2 ^ intBits code : Nat) else signed (intBits code) v

/-- An integer result: wrapped, or clamped with SAT (11 R320). -/
def roundInt (code : Nat) (sat : Bool) (v : Int) : Nat × Flags :=
  let (lo, hi) := intRange code
  let n := intBits code
  if !sat then (wrap n v, 0)
  else if v < lo then (wrap n lo, flagSATF)
  else if v > hi then (wrap n hi, flagSATF)
  else (wrap n v, 0)

/-- A value rounded to an integer in a mode, and whether rounding changed it. -/
def roundToInt (mode : Nat) (neg : Bool) (m : Nat) (e : Int) : Int × Bool :=
  let (r, inexact) := if e ≥ 0 then (m * 2 ^ e.toNat, false) else roundShift mode neg m (-e).toNat
  (if neg then -(r : Int) else r, inexact)

/-- Float to integer (11 R320). -/
def floatToInt (code mode : Nat) (v : FVal) : Nat × Flags :=
  let (lo, hi) := intRange code
  let n := intBits code
  match v with
  | .nan _ => (0, flagNV)
  | .inf neg => (wrap n (if neg then lo else hi), flagNV)
  | .num neg m e =>
    let (i, inexact) := roundToInt mode neg m e
    let nx := if inexact then flagNX else 0
    if i < lo then (wrap n lo, nx ||| flagNV)
    else if i > hi then (wrap n hi, nx ||| flagNV)
    else (wrap n i, nx)

/-! ### Elements of any format -/

/-- The value of an element of a format code with these bits; an integer element is its integer. -/
def decodeElem (code v : Nat) : FVal :=
  if isInt code then fInt (decodeInt code v)
  else if code == 14 then decodePs32 v
  else decodeFloat (floatFmt code) v

/-- FP32 addition rounded to nearest, with no flag (15 R422). -/
def fadd32 (a b : Nat) : Nat :=
  (roundFloat fmtFP32 0 false (fAdd false (decodeFloat fmtFP32 a) (decodeFloat fmtFP32 b))).1

/-- A value in FP32, rounded to nearest, with no flag. -/
def round32 (v : FVal) : Nat := (roundFloat fmtFP32 0 false v).1
/-- A value rounded to FP32 and read again (11 R327). -/
def via32 (v : FVal) : FVal := decodeFloat fmtFP32 (round32 v)
/-- A value in ACC96, rounded to nearest (11 R324). -/
def roundAcc (v : FVal) : Nat := (roundFloat fmtACC96 0 false v).1

/-! ### Correctly rounded functions (11 R317, R319) -/

/-- Fraction bits of the fixed-point work below. -/
def fixBits : Nat := 448
/-- 1 in fixed point. -/
def fixOne : Nat := 2 ^ fixBits

/-- The series Σ 1 / (k 2^k) for ln 2, in fixed point, over the k largest k down to 1. -/
def ln2From : Nat → Nat
  | 0 => 0
  | k + 1 => fixOne / ((k + 1) * 2 ^ (k + 1)) + ln2From k
/-- ln 2 in fixed point. -/
def fixLn2 : Nat := ln2From 460

/-- e^t in fixed point for 0 ≤ t < 1, by n terms of its series. -/
def expFrom (t : Nat) : (n : Nat) → Nat
  | n => (List.range n).foldl (fun (acc : Nat × Nat) k =>
    (acc.1 + acc.2, acc.2 * t / fixOne / (k + 1))) (0, fixOne) |>.1
/-- e^t in fixed point for 0 ≤ t < 1. -/
def fixExp (t : Nat) : Nat := expFrom t 120

/-- ln m in fixed point for 1 ≤ m ≤ 2, by the series of the inverse hyperbolic tangent. -/
def fixLn (m : Nat) : Nat :=
  let z := (m - fixOne) * fixOne / (m + fixOne)
  let z2 := z * z / fixOne
  2 * ((List.range 160).foldl (fun (acc : Nat × Nat) k => (acc.1 + acc.2 / (2 * k + 1), acc.2 * z2 / fixOne)) (0, z)).1

/-- A fixed-point number, known to be no exact value, as a value with its last bit set. -/
def inexactFix (v : Int) (e : Int) : FVal := .num (v < 0) (2 * v.natAbs + 1) (e - fixBits - 1)

/-- m × 2^e, for a small enough value, as fixed point rounded down. -/
def toFix (neg : Bool) (m : Nat) (e : Int) : Int :=
  let v : Int := if e + fixBits ≥ 0 then m * 2 ^ (e + fixBits).toNat else (m / 2 ^ (-(e + fixBits)).toNat : Nat)
  if neg then -v else v

/-- A value so small that its function is the value's first terms alone: just below m × 2^e. -/
def justBelow (neg : Bool) (m : Nat) (e : Int) : FVal := .num neg (m * 2 ^ cutBits - 1) (e - cutBits)

/-- 2^x (11 R319). -/
def fExp2 : FVal → FVal
  | .nan s => .nan s
  | .inf neg => if neg then fZero else .inf false
  | .num neg m e =>
    if m = 0 then fInt 1
    else if leadExp m e > 20 then .num false 3 (if neg then -100000 else 100000)
    else
      let x := toFix neg m e
      let n := x / (fixOne : Int)
      let f := (x % (fixOne : Int)).toNat
      if f = 0 ∧ e ≥ 0 then .num false 1 n
      else if f = 0 ∧ e < 0 ∧ m % 2 ^ (-e).toNat = 0 then .num false 1 n
      else inexactFix (fixExp (f * fixLn2 / fixOne)) n

/-- log2 x, for a number above zero (11 R319). -/
def fLog2 (m : Nat) (e : Int) : FVal :=
  let k := Nat.log2 m
  if m = 2 ^ k then fInt (e + k)
  else
    let f : Int := fixLn (m * 2 ^ (fixBits - k)) * fixOne / fixLn2
    inexactFix ((e + k) * fixOne + f) 0

/-- ln x, for a number above zero (12 R332). -/
def fLn (m : Nat) (e : Int) : FVal :=
  let k := Nat.log2 m
  if m = 2 ^ k ∧ e + k = 0 then fZero
  else inexactFix ((e + k) * fixLn2 + fixLn (m * 2 ^ (fixBits - k))) 0

/-- e^x (12 R333). -/
def fExp : FVal → FVal
  | .nan s => .nan s
  | .inf neg => if neg then fZero else .inf false
  | .num neg m e =>
    if m = 0 then fInt 1
    else if leadExp m e > 20 then .num false 3 (if neg then -100000 else 100000)
    else
      let x := toFix neg m e
      let n := x / (fixLn2 : Int)
      inexactFix (fixExp (x % (fixLn2 : Int)).toNat) n

/-- tanh x (11 R319). -/
def fTanh : FVal → FVal
  | .nan s => .nan s
  | .inf neg => .num neg 1 0
  | .num neg m e =>
    if m = 0 then .num neg 0 0
    else if leadExp m e > 7 then justBelow neg 1 0
    else if leadExp m e < -60 then justBelow neg m e
    else
      let x := (toFix false m (e + 1)).toNat
      let n := x / fixLn2
      let y := fixExp (x % fixLn2) * 2 ^ n
      let t : Int := ((y - fixOne) * fixOne / (y + fixOne) : Nat)
      inexactFix (if neg then -t else t) 0

/-! ### Elements of blocks (11 R311 to R313) -/

/-- The magnitudes of the CB4 codes, in 1024ths (11 R312). -/
def cb4Table : List Nat := [43, 130, 221, 318, 427, 555, 725, 1024]

/-- The value of an element of a block of format 5 or 7 with scale byte s (11 R311). -/
def mxValue (fs s code : Nat) : FVal :=
  if s = 255 then .nan false
  else fMul (.num false 1 ((s : Int) - 127)) (decodeElem fs code)

/-- The value of a CB4 code with scale s8 under super-scale F (11 R312, R313). -/
def cb4Value (f : FVal) (s8 code : Nat) : FVal :=
  let m := cb4Table.getD (code % 8) 0
  fMul f (.num (bit code 3) ((s8 + 1) * m) (-18))

end Sys2Proof.Machine
end

