-- ==== Sys2Proof/Machine/Sampler.lean ====
section
/-!
DEFINITION. The sampler engines (12 R328 to R339): the descriptor and the chain of stages, softmax, the filters, the
draw, the journal of draws and ties, and one draw of a request as one step.
-/
namespace Sys2Proof.Machine

/-! ### Logits -/

/-- The logit of an excluded token, −∞ (12 R332). -/
def excludedLogit : Nat := 0xFF800000

/-- The value of an FP32 word. -/
def f32 (v : Nat) : FVal := decodeFloat fmtFP32 v

/-- Every NaN becomes −∞ (12 R332). -/
def scrubLogits (l : List Nat) : List Nat := l.map fun v => if isNaN (f32 v) then excludedLogit else v

/-- The tokens of a vector that are not excluded, with their logits. -/
def survivors (l : List Nat) : List (Nat × Nat) :=
  l.zipIdx.filterMap fun (v, t) => if v = excludedLogit then none else some (t, v)

/-- The greatest logit, none when every token is excluded. -/
def maxLogit (l : List Nat) : Option Nat :=
  (survivors l).foldl (fun best (_, v) => match best with
    | none => some v
    | some b => if fCompare (f32 b) (f32 v) < 0 then some v else some b) none

/-- Pair of 12 R333 over a list; fuel bounds its depth. -/
def pairSum : (fuel : Nat) → List Nat → Nat
  | 0, l => l.headD 0
  | fuel + 1, l =>
    if l.length ≤ 1 then l.headD 0
    else
      let h := 2 ^ Nat.log2 (l.length - 1)
      round32 (fAdd false (f32 (pairSum fuel (l.take h))) (f32 (pairSum fuel (l.drop h))))

/-- The probabilities of 12 R333 for logits whose greatest is m. -/
def softmax (l : List Nat) (m : Nat) : List Nat :=
  let e := l.map fun v =>
    if f32 m = .inf false then (if f32 v = .inf false then 0x3F800000 else 0)
    else if v = excludedLogit then 0
    else round32 (fExp (f32 (round32 (fAdd false (f32 v) (fNeg (f32 m))))))
  let s := pairSum 20 e
  e.map fun v => round32 (fDiv (f32 v) (f32 s))

/-- (t, p) placed into a list in rank order (12 R334): p descending, then t ascending. Probabilities are not negative,
so their words order as they do. -/
def rankInsert (x : Nat × Nat) : List (Nat × Nat) → List (Nat × Nat)
  | [] => [x]
  | y :: r => if y.2 > x.2 || (y.2 == x.2 && y.1 < x.1) then y :: rankInsert x r else x :: y :: r

/-- The surviving tokens in rank order, with their probabilities (12 R334). -/
def ranked (l p : List Nat) : List (Nat × Nat) :=
  (l.zip p).zipIdx.foldl (fun r ((v, q), t) => if v = excludedLogit then r else rankInsert (t, q) r) []

/-- The logits with every token outside keep excluded. -/
def keepOnly (l : List Nat) (keep : List Nat) : List Nat :=
  l.zipIdx.map fun (v, t) => if keep.contains t then v else excludedLogit

/-- The number of tokens that the walk of top-p keeps (12 R334). -/
def topPCount (q : Nat) : (c : Nat) → List (Nat × Nat) → Nat
  | _, [] => 0
  | c, (_, p) :: r =>
    let c := round32 (fAdd false (f32 c) (f32 p))
    if fCompare (f32 c) (f32 q) ≥ 0 then 1 else 1 + topPCount q c r

/-- The first n tokens of a ranking kept, with every token that ties with the last of them: the logits, and the number
that the tie rule alone kept (12 R334). -/
def keepRanked (l : List Nat) (rank : List (Nat × Nat)) (n : Nat) : List Nat × Nat :=
  let first := rank.take n
  let last := (first.getLast?.map fun x => x.2).getD 0
  let ties := (rank.drop n).takeWhile fun x => x.2 == last
  (keepOnly l ((first ++ ties).map fun x => x.1), ties.length)

/-! ### Random numbers (12 R335) -/

/-- One round of Rand. -/
def randRound (x : Word) : Word :=
  let x := x ^^^ (x >>> 29)
  let x := x * 0xE1C70F3942B65D9B
  x ^^^ (x >>> 32)

/-- Rand of 12 R335: 24 bits. -/
def rand (seed : Word) (stream step draw : Nat) : Nat :=
  let x := seed ^^^ (BitVec.ofNat 64 stream * 0x8F3B52D16C49A7E5)
  let x := x ^^^ BitVec.ofNat 64 (step * 2 ^ 24) ^^^ BitVec.ofNat 64 draw
  (randRound (randRound (randRound x))).toNat / 2 ^ 40

/-- DrawToken of 12 R335 over the surviving tokens in ascending order; u is the random number over 2^24. -/
def drawToken (u : Nat) : (c last : Nat) → List (Nat × Nat) → Nat
  | _, last, [] => last
  | c, _, (t, p) :: r =>
    let c := round32 (fAdd false (f32 c) (f32 p))
    if fCompare (.num false u (-24)) (f32 c) < 0 then t else drawToken u c t r

/-! ### Descriptors and chains -/

/-- The fields of a sample descriptor (12 R328). -/
structure SampleDesc where
  logits    : Nat
  lregion   : Nat
  nchain    : Nat
  nsib      : Nat
  vocab     : Nat
  rowstride : Nat
  stream    : Nat
  seed      : Word
  step      : Nat
  chain     : Nat
  journal   : Nat
  live      : Nat
  zero      : Bool

/-- The descriptor in its 64 bytes. -/
def sampleDesc (d : BitVec 512) : SampleDesc :=
  let f (i n : Nat) := d.toNat / 2 ^ (8 * i) % 2 ^ (8 * n)
  { logits := f 0 8, lregion := f 8 1, nchain := f 9 1, nsib := f 10 1, vocab := f 12 4, rowstride := f 16 4,
    stream := f 20 4, seed := BitVec.ofNat 64 (f 24 8), step := f 32 4, chain := f 40 8, journal := f 48 8,
    live := f 56 8, zero := f 11 1 == 0 && f 36 4 == 0 }

/-- The live siblings in ascending order. -/
def SampleDesc.siblings (d : SampleDesc) : List Nat := (List.range d.nsib).filter fun i => bit d.live i

/-- NSIB and LIVE tell the live siblings (12 R329). -/
def SampleDesc.known (d : SampleDesc) : Bool := 1 ≤ d.nsib && d.nsib ≤ 64 && d.siblings ≠ []

/-- The limits of 12 R328 and R329, for n + 1 iterations. -/
def SampleDesc.ok (d : SampleDesc) (iterations : Nat) : Bool :=
  d.known && d.logits % 64 == 0 && (d.lregion == 0xFC || d.lregion == 0xFD || d.lregion == 0xFE)
    && 1 ≤ d.nchain && d.nchain ≤ 16 && 1 ≤ d.vocab && d.vocab ≤ 262144 && d.rowstride % 64 == 0
    && 4 * d.vocab ≤ d.rowstride && d.chain % 64 == 0 && d.journal % 64 == 0 && d.zero
    && iterations * d.nsib ≤ 192

/-- The draws of a request in their order: iteration and sibling (12 R329). A request whose siblings are unknown counts
one reply for each iteration. -/
def SampleDesc.draws (d : SampleDesc) (iterations : Nat) : List (Nat × Nat) :=
  (List.range iterations).flatMap fun j => if d.known then d.siblings.map fun s => (j, s) else [(j, 0)]

/-- A stage control block (12 R331). -/
structure StageBlock where
  kind    : Nat
  mode    : Nat
  addr    : Nat
  aregion : Nat
  p0      : Nat
  p1      : Nat
  count   : Nat
  zero    : Bool

/-- The block in its 64 bytes. -/
def stageBlock (l : List Byte) : StageBlock :=
  let v := bytesToNat l
  let f (i n : Nat) := v / 2 ^ (8 * i) % 2 ^ (8 * n)
  { kind := f 0 1, mode := f 1 1, addr := f 8 8, aregion := f 16 1, p0 := f 20 4, p1 := f 24 4, count := f 28 4,
    zero := f 2 6 == 0 && f 17 3 == 0 && f 32 32 == 0 }

/-- The word is a finite FP32 value. -/
def finite32 (v : Nat) : Bool := match f32 v with
  | .num _ _ _ => true
  | _ => false

/-- The word is a finite FP32 value above zero. -/
def positive32 (v : Nat) : Bool := finite32 v && fCompare (f32 v) fZero > 0

/-- The word is a value between 0 and 1, zero allowed when low is true. -/
def unit32 (low : Bool) (v : Nat) : Bool :=
  finite32 v && (if low then fCompare (f32 v) fZero ≥ 0 else fCompare (f32 v) fZero > 0)
    && fCompare (f32 v) (fInt 1) ≤ 0

/-- The block's kind, mode, unused fields and limits (12 R331, R332, R334). -/
def StageBlock.ok (b : StageBlock) : Bool :=
  let noVec := b.addr == 0 && b.aregion == 0
  let regionOk := b.aregion ≤ 0xEF || b.aregion == 0xFC || b.aregion == 0xFD || b.aregion == 0xFE
  let noP := b.p0 == 0 && b.p1 == 0
  b.zero && match b.kind, b.mode with
    | 1, 0 => noVec && b.p1 == 0 && b.count == 0 && positive32 b.p0
    | 2, 0 => regionOk && noP && b.count == 0
    | 3, m => m ≤ 2 && regionOk && noP && b.count == 0
    | 4, 0 => regionOk && b.count ≤ 65536 && finite32 b.p0 && positive32 b.p1
    | 5, 0 => noVec && noP && 1 ≤ b.count && b.count ≤ 262144
    | 5, 1 => noVec && b.p1 == 0 && b.count == 0 && unit32 false b.p0
    | 5, 2 => noVec && b.p1 == 0 && b.count == 0 && unit32 true b.p0
    | 6, 0 => noVec && noP && b.count == 0
    | 7, 0 => noVec && noP && b.count == 0
    | _, _ => false

/-- The chain's blocks are legal and only the last is DRAW or GREEDY (12 R331). -/
def chainOk : List StageBlock → Bool
  | [] => false
  | [b] => b.ok && b.kind ≥ 6
  | b :: r => b.ok && b.kind < 6 && chainOk r

/-- The bytes of a stage's vector (12 R332). -/
def StageBlock.vectorBytes (b : StageBlock) (vocab : Nat) : Nat :=
  match b.kind, b.mode with
  | 2, _ => 4 * vocab
  | 3, 0 => (vocab + 7) / 8
  | 3, _ => 4 * vocab
  | 4, _ => 4 * b.count
  | _, _ => 0

/-- A list of bytes as little-endian 32-bit words. -/
def words32 : (n : Nat) → List Byte → List Nat
  | 0, _ => []
  | n + 1, l => bytesToNat (l.take 4) :: words32 n (l.drop 4)

/-- One stage that ends no chain, on the logits l with the bytes of its vector: the logits after it, and the value of
its TIE entry, 0 for none (12 R332 to R334). -/
def runStage (b : StageBlock) (vec : List Byte) (l : List Nat) : List Nat × Nat :=
  let vocab := l.length
  let zipVec (f : Nat → Nat → Nat) : List Nat := (l.zip (words32 vocab vec)).map fun (x, y) => f x y
  match b.kind, b.mode with
  | 1, _ => (l.map fun v => round32 (fDiv (f32 v) (f32 b.p0)), 0)
  | 2, _ => (zipVec fun v y => round32 (fAdd false (f32 v) (f32 y)), 0)
  | 3, 0 => (l.zipIdx.map fun (v, t) =>
      if bit ((vec.getD (t / 8) 0).toNat) (t % 8) then v else excludedLogit, 0)
  | 3, m => (zipVec fun v y => match decodePs32 y with
      | .num _ mant e =>
        if mant = 0 then excludedLogit else if m = 2 then round32 (fAdd false (f32 v) (fLn mant e)) else v
      | _ => excludedLogit, 0)
  | 4, _ =>
    let hit := (words32 b.count vec).filter fun t => t < vocab
    (l.zipIdx.map fun (v, t) =>
      if hit.contains t then
        let x := if fCompare (f32 v) fZero > 0 then round32 (fDiv (f32 v) (f32 b.p1))
          else round32 (fMul (f32 v) (f32 b.p1))
        round32 (fAdd false (f32 x) (fNeg (f32 b.p0)))
      else v, 0)
  | 5, m =>
    match maxLogit l with
    | none => (l, 0)
    | some top =>
      let rank := ranked l (softmax l top)
      if m = 0 then keepRanked l rank b.count
      else if m = 1 then keepRanked l rank (topPCount b.p0 0 rank)
      else
        let least := round32 (fMul (f32 b.p0) (f32 ((rank.headD (0, 0)).2)))
        (keepOnly l ((rank.filter fun x => fCompare (f32 x.2) (f32 least) ≥ 0).map fun x => x.1), 0)
  | _, _ => (l, 0)

/-- The token that DRAW or GREEDY chooses, and the value of its TIE entry (12 R334, R335). -/
def chooseToken (d : SampleDesc) (b : StageBlock) (j sib : Nat) (l : List Nat) (top : Nat) : Nat × Nat :=
  let p := softmax l top
  if b.kind = 7 then
    let rank := ranked l p
    let best := rank.headD (0, 0)
    let same := (rank.takeWhile fun x => x.2 == best.2).length
    (best.1, if same ≥ 2 then same else 0)
  else
    let u := rand d.seed d.stream ((d.step + j) % 2 ^ 32) sib
    let live := (l.zip p).zipIdx.filterMap fun ((v, q), t) => if v = excludedLogit then none else some (t, q)
    (drawToken u 0 0 live, 0)

/-- The reply when no token survived (12 R329). -/
def noToken : Nat := 0xFFFFFFFF
/-- The reply of a request that broke a limit or met a failure (12 R329). -/
def badReply : Nat := 0xFFFFFFFE

/-- The stages of a draw in order from the logits l: the reply and the values of the TIE entries (12 R332 to R335). -/
def runChain (s : State) (io : EngIo) (w : Acc0) (d : SampleDesc) (j sib : Nat) (ties : List Nat) :
    List StageBlock → List Nat → Eng (Nat × List Nat)
  | [], _ => .fail
  | b :: r, l =>
    let l := scrubLogits l
    match maxLogit l with
    | none => .ok (noToken, ties) io s
    | some top =>
      if b.kind ≥ 6 then
        let (t, tie) := chooseToken d b j sib l top
        .ok (t, if tie = 0 then ties else ties ++ [tie]) io s
      else
        (engRead s io w (vaddr b.aregion b.addr) (b.vectorBytes d.vocab)).andThen fun vec io s =>
          let (l, tie) := runStage b vec l
          runChain s io w d j sib (if tie = 0 then ties else ties ++ [tie]) r l

/-- The blocks of a chain, read one after the other; no address wraps (07 R196). -/
def readChain (s : State) (io : EngIo) (w : Acc0) : (n addr : Nat) → Eng (List StageBlock)
  | 0, _ => .ok [] io s
  | n + 1, addr =>
    if addr ≥ 2 ^ 64 then .fail
    else (engRead s io w (vaddr 0 addr) 64).andThen fun b io s =>
      (readChain s io w n (addr + 64)).andThen fun r io s => .ok (stageBlock b :: r) io s

/-- What draw (j, sib) replies, with the values of its TIE entries (12 R329 to R335). -/
def computeDraw (s : State) (io : EngIo) (w : Acc0) (d : SampleDesc) (j sib : Nat) : Eng (Nat × List Nat) :=
  (readChain s io w d.nchain d.chain).andThen fun chain io s =>
    let at_ := d.logits + (j * d.nsib + sib) * d.rowstride
    if !chainOk chain || at_ ≥ 2 ^ 64 then .fail
    else
      (engRead s io w (vaddr d.lregion at_) (4 * d.vocab)).andThen
        fun row io s => runChain s io w d j sib [] chain (words32 d.vocab row)

/-! ### One draw (12 R329, R330, R337 to R339) -/

/-- The header of the request's journal, none when there is none or it cannot be read; a page fault stops a request that
is not cancelled. -/
def drawHeader (s : State) (io : EngIo) (w : Acc0) (d : SampleDesc) (strict : Bool) : Eng (Option (Part × Nat)) :=
  if d.journal = 0 then .ok none io s
  else match (headerPart s io w d.journal).andThen fun p io s =>
      (headerRead s io w p).andThen fun h io s => .ok (some (p, h)) io s with
    | .fail => .ok none io s
    | .page v k => if strict then .page v k else .ok none io s
    | r => r

/-- What a draw comes to by its stages: the reply, the values of its TIE entries, and whether the request failed
(12 R329 to R335). -/
def decideDraw (s : State) (io : EngIo) (w : Acc0) (d : SampleDesc) (bad : Bool) (spec : Option Nat) (j sib : Nat) :
    Eng (Nat × List Nat × Bool) :=
  if bad || !d.ok (spec.getD 0 + 1) then .ok (badReply, [], true) io s
  else match computeDraw s io w d j sib with
    | .ok (r, ties) io s => .ok (r, ties, false) io s
    | .again io s => .again io s
    | .fail => .ok (badReply, [], true) io s
    | .need l => .need l
    | .wait => .wait
    | .page v k => .page v k

/-- The journal entries of a draw: its TIE entries, then its DRAW entry (12 R329, R338). -/
def drawEntries (d : SampleDesc) (spec : Option Nat) (j sib : Nat) (x : DrawRecord) : List JEntry :=
  let step := (d.step + j) % 2 ^ 32
  let spc := if spec.isSome then 2 else 0
  let flags := spc + (if x.reply = badReply then 4 else 0) + (if x.reply = noToken then 8 else 0)
  x.ties.map (fun v => ⟨x.seq, 2, spc, j, sib, step, v⟩) ++ [⟨x.seq, 1, flags, j, sib, step, x.reply⟩]

/-- What a draw that has been decided writes to the journal, or, in replay mode, the reply that the journal forces
(12 R329, R339). -/
def openRecord (s : State) (io : EngIo) (w : Acc0) (d : SampleDesc) (strict : Bool) (spec : Option Nat) (j sib : Nat)
    (x : DrawRecord) : Eng DrawRecord :=
  let step := (d.step + j) % 2 ^ 32
  (drawHeader s io w d strict).andThen fun hdr io s => match hdr with
    | none => .ok { x with put := some ⟨[], none⟩ } io s
    | some (p, h) =>
      if bit h 96 then
        let want (e : Nat) := bits e 39 32 == 1 && bits e 95 64 == step && bits e 63 56 == sib
        (journalLast w strict d.journal want (bits h 63 32) s io).andThen fun e io s => match e with
          | some e => .ok { x with reply := bits e 127 96, put := some ⟨[], none⟩ } io s
          | none =>
            let (io, s) := headerPut s io w p 12 1 (bits h 103 96 ||| 4)
            .ok { x with put := some ⟨[], none⟩ } io s
      else .ok { x with put := some ⟨drawEntries d spec j sib x, none⟩ } io s

/-- The journal entries of a draw that has been decided are written, as far as nothing holds them up: the draw after,
and where it stops. A page fault stops a request that is not cancelled (12 R329, R337). -/
def recordDraw (s : State) (io : EngIo) (w : Acc0) (core : CoreId) (d : SampleDesc) (strict : Bool) (spec : Option Nat)
    (j sib : Nat) (x : DrawRecord) : DrawRecord × EngIo × State × Halt :=
  let opened : Eng DrawRecord := if x.put.isSome then .ok x io s else openRecord s io w d strict spec j sib x
  match opened with
  | .ok x io s =>
    let put := x.put.getD ⟨[], none⟩
    let (put, io, s, halt) := journalRun w core strict d.journal put.steps s io put
    ({ x with put := some put }, io, s, halt)
  | .again io s => (x, io, s, .again)
  | .need l => (x, io, s, .need l)
  | .page v k => (x, io, s, .page v k)
  | _ => (x, io, s, .wait)

/-- The tile core that holds a task. -/
def coreHolding (s : State) (r : TaskRef) : Option CoreId :=
  (List.range 64).findSome? fun i =>
    let k := getCore s (coreOf i)
    if k.busy && k.ctx.task == r then some (coreOf i) else none

/-- Every write that core c issued before number n is performed at a scope (08 R237; 12 R330). -/
def writesDone (s : State) (c : CoreId) (n scope : Nat) : Bool :=
  let t := (getCore s c).ctx
  t.aq.stores.all (fun e => match e with
    | .write r => r.id ≥ n
    | .atomic a => a.id ≥ n
    | _ => true) && t.aq.inflight.all fun r => r.id ≥ n || doneAt s r scope

/-- The events of accesses made for the task on core c are charged to it and to its island (04 R114, R116). -/
def chargeIo (s : State) (c : CoreId) (io : EngIo) : State :=
  let s := modCtx s c fun t => { t with acct := { t.acct with
    work := t.acct.work + io.work, jmem := t.acct.jmem + BitVec.ofNat 64 io.jmem } }
  modIsland s (islandOf c) fun i => { i with mmeter := i.mmeter + io.jmem }

/-- The events of a job or a sample request go to the task's counters and the memory meter of the island that the task
runs on or ran on (04 R114, R116). -/
def settleIo (s : State) (task : TaskRef) (io : EngIo) : State :=
  match coreHolding s task with
  | some c => chargeIo s c io
  | none =>
    let add (a : Account) : Account := { a with work := a.work + io.work, jmem := a.jmem + BitVec.ofNat 64 io.jmem }
    let s := match s.settling.find? fun v => v.ref == task with
      | some v => modIsland s v.island fun i => { i with mmeter := i.mmeter + io.jmem }
      | none => match s.disp.saved.find? fun (v : SavedTask) => v.ref == task with
        | some v => modIsland s v.island fun i => { i with mmeter := i.mmeter + io.jmem }
        | none => s
    { s with
      disp := { s.disp with saved := s.disp.saved.map fun v =>
        if v.ref == task then { v with ctx := { v.ctx with acct := add v.ctx.acct } } else v }
      settling := s.settling.map fun v => if v.ref == task then { v with acct := add v.acct } else v }

/-- s with request n replaced. -/
def setSample (s : State) (r : Sample) : State :=
  { s with samples := s.samples.map fun o => if o.num == r.num then r else o }

/-- A save or restore sequence of the task runs (10 R296). -/
def inSequence (t : Ctx) : Bool :=
  match t.yieldPhase with
  | .saving _ _ => true
  | .restoring _ _ => true
  | _ => false

/-- The request was there when the yield sequence that runs on core c began: its replies wait for the sequence's end. -/
def heldBack (s : State) (c : CoreId) (r : Sample) : Bool := r.kept && inSequence (getCore s c).ctx

/-- An earlier request of the same task still owes replies: they enter the reply queue in the order of the requests
(06 R171; 12 R329; DEDUCED 54). -/
def awaitsEarlier (s : State) (c : CoreId) (r : Sample) : Bool :=
  (s.samples.takeWhile fun o => o.num != r.num).any fun o => o.task == r.task && !heldBack s c o

/-- The request has arrived at the engines: every write that its core issued before it is performed at DEVICE scope, and
its turn among its task's requests has come (12 R330). -/
def sampleArrived (s : State) (r : Sample) : Bool :=
  match coreHolding s r.task with
  | some c => !awaitsEarlier s c r && writesDone s c r.fence 2
  | none => false

/-- The request with an engine: one that has it, or the oldest of those that have arrived without one when an engine is
free (12 R330). -/
def withEngine (s : State) (r : Sample) : Option (Fin 4) :=
  match r.engine with
  | some e => some e
  | none =>
    let older := s.samples.takeWhile fun o => o.num != r.num
    if !sampleArrived s r || older.any fun o => o.engine.isNone && sampleArrived s o then none
    else ([0, 1, 2, 3] : List (Fin 4)).find? fun e => s.samples.all fun o => o.engine != some e

/-- The reply queue of a task has no room: an engine holds its reply (06 R170, R171). -/
def replyFull (t : Ctx) : Bool := t.q.reply.length ≥ depth32

/-- A request stops at a replayable page fault of its engine and posts its record (07 R211; 10 R287). -/
def stallSample (s : State) (r : Sample) (e : Fin 4) (f : Replay) : State :=
  let (f, s) := postReplay s f fun q => engineRecord q r.task.task r.asid (86 + e.val) f.va f.kind r.cardVa 0
  let (io, s) := if r.replay.isNone then countFault s r.io r.asid f.va f.kind else (r.io, s)
  setSample s { r with engine := some e, replay := some f, io := io }

/-- The reply of the draw at hand enters the queue of core c; the last one ends the request (12 R329; 04 R114). -/
def replyDraw (s : State) (c : CoreId) (r : Sample) (v : Nat) (last : Bool) : State :=
  let s := modCtx s c fun t => clearWaits (modQ t fun q =>
    { q with reply := q.reply ++ [⟨BitVec.ofNat 32 v, r.specN.isSome⟩] })
  if last then settleIo { s with samples := s.samples.filter fun o => o.num != r.num } r.task r.io
  else setSample s { r with drawn := r.drawn + 1, decided := none, io := r.io.fresh }

/-- The next draw of request r, of core c, is made by engine e (12 R329, R337 to R339). -/
def drawNext (s : State) (c : CoreId) (r : Sample) (e : Fin 4) : State :=
  let w : Acc0 := ⟨86 + e.val, r.asid, r.core.val, funcOf s c⟩
  let d := sampleDesc r.desc
  let draws := d.draws (r.specN.getD 0 + 1)
  let (j, sib) := draws.getD r.drawn (0, 0)
  let step := match r.decided with
    | some x => (.ok x r.io s : Eng _)
    | none => (decideDraw s r.io w d r.bad r.specN j sib).andThen fun (v, ties, broke) io s =>
      let (q, s) := takeSeq s
      .ok ⟨v, ties, broke, q, none⟩ io.fresh s
  match step with
  | .ok x io s =>
    let (x, io, s, halt) := recordDraw s io w r.core d (!r.cancelled) r.specN j sib x
    let r := { r with engine := some e, decided := some x, io := io }
    match halt with
    | .done => replyDraw s c { r with bad := r.bad || x.broke } x.reply (r.drawn + 1 ≥ draws.length)
    | .need lines =>
      let (io, s) := askLines s c io lines
      setSample s { r with io := io }
    | .page va k => stallSample s r e ⟨none, va, k, none⟩
    | _ => setSample s r
  | .again io s => setSample s { r with engine := some e, io := io }
  | .need lines =>
    let (io, s) := askLines s c r.io lines
    setSample s { r with engine := some e, io := io }
  | .page va k => stallSample s r e ⟨none, va, k, none⟩
  | .wait => setSample s { r with engine := some e }
  | .fail => setSample s { r with engine := some e }

/-- A cancelled draw that had been decided replies that it failed; the entries that it had still to write give way to one
that says so (12 R329). -/
def cancelDraw (d : SampleDesc) (spec : Option Nat) (j sib : Nat) (x : DrawRecord) : DrawRecord :=
  let x := { x with reply := badReply, ties := [], broke := true }
  { x with put := x.put.map fun p => if p.todo.isEmpty then p else { p with todo := drawEntries d spec j sib x } }

/-- The next draw of request n is made, if it may be (12 R329, R330). A request whose page fault is answered with FAIL
is cancelled: every draw that has not replied fails, and nothing more of it stops at a page fault. -/
def sampleStep (s : State) (n : Nat) : State :=
  match s.samples.find? fun r => r.num == n with
  | none => s
  | some r =>
    match coreHolding s r.task, withEngine s r with
    | some c, some e =>
      if replyFull (getCore s c).ctx || heldBack s c r then setSample s { r with engine := some e }
      else
        match r.replay with
        | some f =>
          match f.answer with
          | none => if f.record.isNone then stallSample s r e f else s
          | some true => setSample s { r with replay := none }
          | some false =>
            let d := sampleDesc r.desc
            let (j, sib) := (d.draws (r.specN.getD 0 + 1)).getD r.drawn (0, 0)
            setSample s { r with
              replay := none, bad := true, cancelled := true, decided := r.decided.map (cancelDraw d r.specN j sib) }
        | none => drawNext s c r e
    | _, _ => s

/-! ### The journal entries of a core (12 R337, R347, R349) -/

/-- An ACCEPT or DISCARD goes on as far as nothing holds it up: what is left of it, and the state after. It is written
unless the journal replays, and nothing it meets is a fault (12 R337, R339). -/
def advanceWrite (s : State) (j : JWrite) : Option JWrite × State :=
  let w : Acc0 := ⟨agentOf j.core, j.asid, j.core.val, j.func⟩
  let opened : Eng (Option JWrite) := match j.put with
    | some _ => .ok (some j) j.io s
    | none => (headerPart s j.io w j.hdr).andThen fun p io s => (headerRead s io w p).andThen fun h io s =>
      if bit h 96 then .ok none io s
      else
        let (n, s) := takeSeq s
        .ok (some { j with put := some ⟨[{ j.entry with seq := n }], none⟩ }) io s
  match opened with
  | .ok none io s => (none, settleIo s j.task io)
  | .ok (some j) io s =>
    let put := j.put.getD ⟨[], none⟩
    let (put, io, s, halt) := journalRun w j.core false j.hdr put.steps s io put
    match halt with
    | .done => (none, settleIo s j.task io)
    | .need lines =>
      let (io, s) := askLines s j.core io lines
      (some { j with put := some put, io := io }, s)
    | _ => (some { j with put := some put, io := io }, s)
  | .need lines =>
    let (io, s) := askLines s j.core j.io lines
    (some { j with io := io }, s)
  | _ => (none, settleIo s j.task j.io)

/-- Every entry of the cores that is under way goes on. -/
def advanceWrites (s : State) : State :=
  s.jwrites.foldl (fun s j =>
    let (rest, s) := advanceWrite s j
    { s with jwrites := s.jwrites ++ rest.toList }) { s with jwrites := [] }

/-- The ACCEPT or DISCARD entry of a core (12 R347, R349). -/
def coreJournal (s : State) (c : CoreId) (hdr : Nat) (e : JEntry) : State :=
  if hdr = 0 then s
  else
    let t := (getCore s c).ctx
    let (rest, s) := advanceWrite s ⟨c, t.task, t.asid, funcOf s c, hdr, e, none, EngIo.none⟩
    { s with jwrites := s.jwrites ++ rest.toList }

end Sys2Proof.Machine
end

