-- ==== Sys2Proof/Machine/Engine.lean ====
section
/-!
DEFINITION. Barriers, and the jobs of the copy, gather and collective engines: job cards, footprints, the movement of
data and completion records (02 R65 to R68; 09 R251 to R254; 15 R427 to R435).
-/
namespace Sys2Proof.Machine

/-! ### Barriers (09 R251 to R254) -/

/-- A barrier: files 0 to 15 are those of the islands, file 16 is the device file (09 R251). -/
def barGet (s : State) (file idx : Nat) : Barrier :=
  if file < 16 then vget (vget s.islands file).barriers idx else tget s.devBars idx ⟨0, 0, 0, false⟩

/-- A barrier set. -/
def barSet (s : State) (file idx : Nat) (b : Barrier) : State :=
  if file < 16 then { s with islands := vmod s.islands file fun i => { i with barriers := vset i.barriers idx b } }
  else { s with devBars := if b = ⟨0, 0, 0, false⟩ then tdel s.devBars idx else tset s.devBars idx b }

/-- The largest magnitude of PEND (09 R251). -/
def pendMax : Int := 2 ^ 28 - 1

/-- The task's bit of ARRIVED for a barrier of its group is cleared. -/
def clearArrived (file idx : Nat) (t : Ctx) : Ctx :=
  match t.barFile with
  | some (f, first) =>
    if f == file && first ≤ idx && idx < first + t.csr.bdepth.toNat then
      clearWaits { t with csr := { t.csr with arrived := setBit t.csr.arrived (idx - first) false } }
    else t
  | none => t

/-- CheckComplete of 09 R253. -/
def checkComplete (s : State) (file idx : Nat) : State :=
  let b := barGet s file idx
  if b.arr = b.exp ∧ b.pend = 0 ∧ b.used then
    let s := barSet s file idx { b with arr := 0 }
    { s with
      cores := s.cores.map fun k => if k.busy then { k with ctx := clearArrived file idx k.ctx } else k
      yields := s.yields.map fun v => { v with ctx := clearArrived file idx v.ctx }
      disp := { s.disp with saved := s.disp.saved.map fun v => { v with ctx := clearArrived file idx v.ctx } } }
  else s

/-- n bytes that landed leave PEND; the result tells whether the bound of 09 R254 was met. -/
def landBytes (s : State) (bar : Option (Nat × Nat)) (n : Nat) : Bool × State :=
  match bar with
  | none => (false, s)
  | some (file, idx) =>
    let b := barGet s file idx
    if n = 0 then (false, s)
    else if b.pend - n < -pendMax then (true, checkComplete (barSet s file idx { b with pend := -pendMax }) file idx)
    else (false, checkComplete (barSet s file idx { b with pend := b.pend - n }) file idx)

/-! ### Job cards (15 R429) -/

/-- n bytes of a card from byte i. -/
def cardField (c : BitVec 512) (i n : Nat) : Nat := c.toNat / 2 ^ (8 * i) % 2 ^ (8 * n)

/-- A signed stride of a card. -/
def cardStride (c : BitVec 512) (i : Nat) : Int := signed 64 (cardField c i 8)

/-- A region that copy and gather jobs accept (15 R429). -/
def moveRegion (r : Nat) : Bool := r ≤ 0xEF || r == 0xFC || r == 0xFD || r == 0xFE

/-- The card keeps the limits of its TYPE (15 R429). -/
def cardOk (c : BitVec 512) : Bool :=
  let f := cardField c
  let bar := f 1 1 ≤ 3 && f 2 1 ≤ 15 && (bit (f 1 1) 1 || f 2 1 == 0)
  match f 0 1 with
  | 1 => bar && moveRegion (f 3 1) && moveRegion (f 24 1) && f 25 3 == 0 && 1 ≤ f 32 4 && f 32 4 ≤ 65536
      && f 36 4 == 0 && f 56 8 == 0
  | 2 => bar && moveRegion (f 3 1) && moveRegion (f 24 1) && f 25 1 ≤ 0xEF && f 26 2 == 0 && 1 ≤ f 32 4
      && f 32 4 ≤ 65536
  | 3 => bar && f 3 1 ≤ 0xEF && f 24 1 ≤ 0xEF && f 25 1 ≤ 2
      && (f 26 1 == 8 || f 26 1 == 0 || f 26 1 == 1 || f 26 1 == 9) && f 27 1 == 0 && f 34 2 == 0 && f 36 28 == 0
  | 4 => f 1 1 == 0 && f 2 1 == 0 && f 3 1 ≤ 0xEF && f 16 8 == 0 && f 24 1 == 0 && f 25 1 ≤ 63 && f 26 38 == 0
  | _ => false

/-- Bytes of an element of a collective job's format (02 R65). -/
def collBytes (fmt : Nat) : Nat := if fmt == 0 || fmt == 1 then 2 else 4

/-- Rows that a copy or gather card moves. -/
def cardRows (c : BitVec 512) : Nat := cardField c 32 4
/-- Bytes of a row. -/
def cardRowLen (c : BitVec 512) : Nat := cardField c 28 4

/-! ### Footprints (05 R141, R142; 15 R433) -/

/-- Two footprints overlap. -/
def FpRange.overlaps (a b : FpRange) : Bool := a.region == b.region && a.lo < b.hi && b.lo < a.hi

/-- One of them is a write footprint that overlaps a footprint of the other (05 R142). -/
def fpConflict (a b : List FpRange) : Bool := a.any fun x => b.any fun y => (x.write || y.write) && x.overlaps y

/-- The range from the lowest to the highest byte of rows of len bytes from base, rounded outward to 256 bytes;
window regions are resolved to their physical ranges, which stand under regions above 0xFF (15 R433). -/
def rowsRange (core : CoreId) (write : Bool) (region base len rows : Nat) (stride : Int) : List FpRange :=
  if len = 0 ∨ rows = 0 then []
  else
    let far : Int := ((rows - 1 : Nat) : Int) * stride
    let lo := (base : Int) + min 0 far
    let hi := (base : Int) + max 0 far + len
    let (r, at0) : Nat × Int := if region = 0xFC then (0x100, 0) else if region = 0xFD then (0x101, 0)
      else if region = 0xFE then (0x101, core.val * 2 ^ 20) else (region, 0)
    [⟨write, r, (at0 + lo / 256 * 256).toNat, (at0 + (hi + 255) / 256 * 256).toNat⟩]

/-- The footprints of a job (15 R433). -/
def jobFoots (core : CoreId) (c : BitVec 512) : List FpRange :=
  let f := cardField c
  let dst := rowsRange core true (f 24 1) (f 16 8) (cardRowLen c) (cardRows c) (cardStride c 48)
  match f 0 1 with
  | 1 => rowsRange core false (f 3 1) (f 8 8) (cardRowLen c) (cardRows c) (cardStride c 40) ++ dst
  | 2 => rowsRange core false (f 25 1) (f 56 8) (4 * cardRows c) 1 0
      ++ rowsRange core false (f 3 1) (f 8 8) (256 * f 36 4) 1 0 ++ dst
  | 3 =>
    let n := f 28 4 * collBytes (f 26 1)
    rowsRange core false (f 3 1) (f 8 8) n 1 0 ++ rowsRange core true (f 24 1) (f 16 8) n 1 0
  | _ => rowsRange core false (f 3 1) (f 8 8) 384 1 0

/-- The footprints that are compared with those of tasks (15 R433). -/
def plainFoots (l : List FpRange) : List FpRange := l.filter fun x => x.region ≤ 0xFF

/-! ### Movement of data (15 R430) -/

/-- s with job j replaced. -/
def setJob (s : State) (j : Job) : State := { s with jobs := s.jobs.map fun o => if o.num == j.num then j else o }

/-- The access of a job's engine. -/
def jobAcc (s : State) (j : Job) : Acc0 :=
  ⟨j.engine, j.asid, j.core.val, (getContext s j.context.val).func⟩

/-- The job ends with a status; it keeps a status that it already has. -/
def finishJob (j : Job) (status : Nat) : Job :=
  { j with phase := .done, status := if j.status = 0 then status else j.status }

/-- The job stops at a replayable page fault and posts its record (07 R211; 10 R287). -/
def stallJob (s : State) (j : Job) (va : VAddr) (k : WalkKind) : State :=
  let (f, s) := postReplay s ⟨none, va, k, none⟩ fun q =>
    engineRecord q j.task.task j.asid j.engine va k j.cardVa j.moved
  let (io, s) := countFault s j.io j.asid va k
  setJob s { j with phase := .stalled, replay := some f, io := io }

/-- base + k strides as an offset, none when it leaves the region (07 R196). -/
def eaAt (base : Nat) (k stride : Int) : Option Nat :=
  let v := (base : Int) + k * stride
  if 0 ≤ v ∧ v < 2 ^ 64 then some v.toNat else none

/-- The bytes of the index array that a gather job has still to read before it moves a row (15 R430). -/
def indexLeft (j : Job) : Nat := if cardField j.card 0 1 = 2 then 4 * cardRows j.card - j.buf.length else 0

/-- The index array of a gather job; no address of it wraps (07 R196). -/
def readIndex (s : State) (j : Job) : Eng (List Byte) :=
  if cardField j.card 56 8 + 4 * cardRows j.card > 2 ^ 64 then .fail
  else engRead s j.io (jobAcc s j) (vaddr (cardField j.card 25 1) (cardField j.card 56 8)) (4 * cardRows j.card)

/-- The rows of the source that an index array names. -/
def indexRows (b : List Byte) : List Int :=
  (List.range (b.length / 4)).map fun i => signed 32 (bytesToNat ((b.drop (4 * i)).take 4))

/-- The row of the source that the job's row reads (15 R430). -/
def sourceRow (j : Job) : Int :=
  if cardField j.card 0 1 = 2 then signed 32 (bytesToNat ((j.buf.drop (4 * j.row)).take 4)) else j.row

/-- One chunk of at most 4 KiB of a copy or gather job is moved: its locations are read, then written, in ascending
order (15 R430; DESIGN CHOICE 130 for the order). -/
def moveChunk (s : State) (j : Job) : Eng Nat :=
  let c := j.card
  let n := min 4096 (cardRowLen c - j.col)
  match eaAt (cardField c 8 8) (sourceRow j) (cardStride c 40), eaAt (cardField c 16 8) j.row (cardStride c 48) with
  | some src, some dst =>
    if src + j.col ≥ 2 ^ 64 ∨ dst + j.col ≥ 2 ^ 64 then .fail
    else
      (engRead s j.io (jobAcc s j) (vaddr (cardField c 3 1) (src + j.col)) n).andThen fun data io s =>
        (engWrite s io (jobAcc s j) j.core (bit (cardField c 1 1) 0) (vaddr (cardField c 24 1) (dst + j.col)) data).andThen
          fun _ io s => .ok n io s
  | _, _ => .fail

/-- The job is within a chunk. -/
def inChunk (j : Job) : Bool := !j.io.seen.isEmpty || j.io.put != 0

/-- The bytes that a copy or gather job has left to move. -/
def bytesLeft (j : Job) : Nat := cardRows j.card * cardRowLen j.card - j.moved

/-- The job starts no chunk: its task is being pre-empted and more than 64 KiB are left (10 R300). -/
def holdsChunk (s : State) (j : Job) : Bool :=
  bytesLeft j > 65536 && match coreHolding s j.task with
    | some c => (getCore s c).stop.any fun x => x.info.cause == .preempt
    | none => false

/-- Bytes of writes to the peer's memory in a list of unacknowledged writes. -/
def outBytes (l : List (Nat × Nat)) : Nat := l.foldl (fun n e => n + e.2) 0

/-- The job after a chunk of n bytes, of which the peer has still to acknowledge those that out counts more than before
(15 R430; 09 R254). -/
def chunkDone (s : State) (j : Job) (n : Nat) (io : EngIo) : Job × State :=
  let (spill, s) := landBytes s j.bar (n - (outBytes io.out - outBytes j.io.out))
  let last := j.col + n ≥ cardRowLen j.card
  ({ j with
    io := io.fresh, moved := j.moved + n, row := if last then j.row + 1 else j.row, col := if last then 0 else j.col + n
    status := if spill then 3 else j.status }, s)

/-- The job is over once its last row has moved. -/
def overJob (j : Job) : Job := if cardRowLen j.card = 0 ∨ j.row ≥ cardRows j.card then finishJob j 0 else j

/-- Bytes of a collective job's buffers. -/
def collSize (j : Job) : Nat := cardField j.card 28 4 * collBytes (cardField j.card 26 1)

/-- An address is mapped to host memory, whatever its leaf permits. -/
def touchesHost (s : State) (w : Acc0) (va : VAddr) : Bool :=
  region va < 0xF0 && match tlbLookup s w.who w.asid va.toNat false with
  | some e => placeOf s e.pa == .host
  | none => match walkRoot s w.asid va false fun pte level addr => leafSize s pte level addr false with
    | .leaf _ pte _ => placeOf s (ptePa pte) == .host
    | .fault _ => false

/-- A page of len bytes from an offset of a region translates to host memory. -/
def rangeHost (s : State) (w : Acc0) (region base len : Nat) : Bool :=
  len != 0 && (List.range ((base % 4096 + len + 4095) / 4096)).any fun i =>
    let o := base / 4096 * 4096 + 4096 * i
    o < 2 ^ 64 && touchesHost s w (vaddr region o)

/-- A page of rows of len bytes, which stand the given numbers of strides from base, is mapped to host memory. -/
def rowsHost (s : State) (w : Acc0) (region base len : Nat) (rows : List Int) (stride : Int) : Bool :=
  rows.any fun r => match eaAt base r stride with
    | some o => rangeHost s w region o len
    | none => false

/-- A job reads or writes host memory, as its card, its index table once read, and the tables now tell: any page of its
source, its destination or its index table (08 R237). -/
def jobHost (s : State) (j : Job) : Bool :=
  let f := cardField j.card
  let w := jobAcc s j
  let all : List Int := (List.range (cardRows j.card)).map fun (r : Nat) => (r : Int)
  let rows := rowsHost s w (f 3 1) (f 8 8) (cardRowLen j.card)
  let dst := rowsHost s w (f 24 1) (f 16 8) (cardRowLen j.card) all (cardStride j.card 48)
  match f 0 1 with
  | 1 => rows all (cardStride j.card 40) || dst
  | 2 => rangeHost s w (f 25 1) (f 56 8) (4 * cardRows j.card) || dst || if indexLeft j = 0 then
      rows (indexRows j.buf) (cardStride j.card 40) else rangeHost s w (f 3 1) (f 8 8) (256 * f 36 4)
  | 3 => rangeHost s w (f 3 1) (f 8 8) (collSize j) || rangeHost s w (f 24 1) (f 16 8) (collSize j)
  | _ => rangeHost s w (f 3 1) (f 8 8) 384

/-- The writes issued before the JOB word are performed at the scope of the job's row (08 R235, R237). -/
def jobFenceDone (s : State) (j : Job) : Bool :=
  match coreHolding s j.task with
  | none => true
  | some c => writesDone s c j.fence 2 && (writesDone s c j.fence 4 || !jobHost s j)

/-- A copy or gather job makes its next step: it reads or writes a location, and with the last of a chunk the chunk is
done; it ends, waits or stops (15 R430). It starts no chunk before the writes issued before it are performed at the
scope of its row as the tables now tell it (08 R237). A cancelled one ends at the end of its chunk (10 R275). -/
def moveJob (s : State) (j : Job) : State :=
  let halted {α : Type} (r : Eng α) (done : α → EngIo → State → State) : State := match r with
    | .ok a io s => done a io s
    | .again io s => setJob s { j with io := io }
    | .need lines =>
      let (io, s) := askLines s j.core j.io lines
      setJob s { j with io := io }
    | .wait => setJob s j
    | .page va k => if j.ending then setJob s (finishJob j 1) else stallJob s j va k
    | .fail => setJob s (finishJob { j with status := 0 } 2)
  if cardRowLen j.card = 0 ∨ j.row ≥ cardRows j.card then setJob s (finishJob j 0)
  else if !inChunk j && j.ending then setJob s (finishJob j 1)
  else if !inChunk j && (holdsChunk s j || !jobFenceDone s j) then setJob s j
  else if 0 < indexLeft j then halted (readIndex s j) fun b io s => setJob s { j with buf := b, io := io.fresh }
  else halted (moveChunk s j) fun n io s =>
    let (j, s) := chunkDone s j n io
    setJob s (overJob j)

/-! ### Collective jobs (02 R65 to R68) -/

/-- The value with its most significant fraction bit set. -/
def quiet (f : FFmt) (x : Nat) : Nat := x ||| 2 ^ (f.fbits - 1)

/-- Reduce of 02 R67. -/
def collReduce (op fmt x0 x1 : Nat) : Nat :=
  if fmt = 9 then
    (if op = 0 then (x0 + x1) % 2 ^ 32
    else if op = 1 then (if signed 32 x0 ≥ signed 32 x1 then x0 else x1)
    else (if signed 32 x0 ≤ signed 32 x1 then x0 else x1))
  else
    let f := floatFmt fmt
    let a := decodeFloat f x0
    let b := decodeFloat f x1
    if isNaN a then quiet f x0
    else if isNaN b then quiet f x1
    else if op = 0 then
      (if isNaN (fAdd false a b) then defaultNaN f else (roundFloat f 0 false (fAdd false a b)).1)
    else if isZero a && isZero b then
      (if op = 1 then (if signOf a && signOf b then x0 else 0)
      else (if signOf a then x0 else x1))
    else if op = 1 then (if fCompare a b ≥ 0 then x0 else x1)
    else (if fCompare a b ≤ 0 then x0 else x1)

/-- The elements of two chunks reduced, card 0's operands first (02 R67). -/
def reduceBytes (op fmt : Nat) : (n : Nat) → List Byte → List Byte → List Byte
  | 0, _, _ => []
  | n + 1, a, b =>
    let w := collBytes fmt
    natToBytes w (collReduce op fmt (bytesToNat (a.take w)) (bytesToNat (b.take w)))
      ++ reduceBytes op fmt n (a.drop w) (b.drop w)

/-- The tag of a collective job. -/
def collTag (j : Job) : BitVec 16 := BitVec.ofNat 16 (cardField j.card 32 2)
/-- A piece translates to this card's memory. -/
def onCard (s : State) (p : Part) : Bool := placeOf s p.pa == .local

/-- Bytes of a chunk of a collective job (02 R68). -/
def collChunkSize : Nat := 4096

/-- What the peer has told of a collective job is forgotten. -/
def forgetColl (s : State) (ctag : BitVec 16) : State :=
  { s with links := { s.links with
    peerColl := s.links.peerColl.filter fun p => p.ctag != ctag
    chunks := s.links.chunks.filter fun e => e.1 != ctag } }

/-- A collective job that an engine holds ends with a status; what the peer has sent for it goes, and the peer is told
nothing (DESIGN CHOICE 120). -/
def endColl (s : State) (j : Job) (status : Nat) : State := setJob (forgetColl s (collTag j)) (finishJob j status)

/-- Both buffers of a matched collective job lie in this card's memory: it begins, and the peer's job is no longer held
(02 R65, R68). -/
def collBegin (s : State) (j : Job) : State :=
  let src := vaddr (cardField j.card 3 1) (cardField j.card 8 8)
  let dst := vaddr (cardField j.card 24 1) (cardField j.card 16 8)
  let r := (engResolve s j.io (jobAcc s j) src (collSize j) .read).andThen fun ps io s =>
    if !ps.all (onCard s) then .fail
    else (engResolve s io (jobAcc s j) dst (collSize j) .write).andThen fun qs io s =>
      if !qs.all (onCard s) then .fail else .ok () io s
  match r with
  | .ok _ io s =>
    let s := { s with links := { s.links with peerColl := s.links.peerColl.filter fun p => p.ctag != collTag j } }
    let j := { j with io := io, matched := true }
    setJob s (if collSize j = 0 then finishJob j 0 else j)
  | .page va k => stallJob s j va k
  | .fail => endColl s j 2
  | _ => s

/-- A collective job that an engine holds meets the peer's job of its tag (02 R65). -/
def collMatch (s : State) (j : Job) : State :=
  match s.links.peerColl.find? fun p => p.ctag == collTag j with
  | none => setJob s j
  | some p =>
    if p.op == cardField j.card 25 1 && p.fmt == cardField j.card 26 1 && p.count == cardField j.card 28 4 then
      collBegin (setJob s j) j
    else endColl s j 4

/-- The source of the next chunk of 4 KiB is read and goes out in messages of 256 bytes; every chunk is read before the
first is written, so that each element is reduced from its original operands (02 R58, R68). -/
def collRead (s : State) (j : Job) : State :=
  let at_ := j.buf.length
  let src := cardField j.card 8 8 + at_
  let r : Eng (List Byte) := if src ≥ 2 ^ 64 then .fail
    else engRead s j.io (jobAcc s j) (vaddr (cardField j.card 3 1) src) (min collChunkSize (collSize j - at_))
  match r with
  | .ok data io s =>
    let msgs := (List.range ((data.length + 255) / 256)).map fun i =>
      Sent.chunk (collTag j) (at_ / 256 + i) ((data.drop (256 * i)).take 256)
    setJob { s with sent := msgs.reverse ++ s.sent } { j with io := io.fresh, buf := j.buf ++ data }
  | .again io s => setJob s { j with io := io }
  | .page va k => stallJob s j va k
  | .need _ => s
  | .wait => s
  | .fail => endColl s j 2

/-- Message i of the peer is reduced with the job's own bytes of the same place and written (02 R67, R68). -/
def collWrite (s : State) (j : Job) (i : Nat) (data : List Byte) : State :=
  let own := (j.buf.drop (256 * i)).take 256
  let (a, b) := if cardOf s = 0 then (own, data) else (data, own)
  let fmt := cardField j.card 26 1
  let out := reduceBytes (cardField j.card 25 1) fmt (own.length / collBytes fmt) a b
  let at_ := cardField j.card 16 8 + 256 * i
  let r : Eng Unit := if at_ ≥ 2 ^ 64 then .fail
    else engWrite s j.io (jobAcc s j) j.core (bit (cardField j.card 1 1) 0) (vaddr (cardField j.card 24 1) at_) out
  match r with
  | .ok _ io s =>
    let (spill, s) := landBytes s j.bar out.length
    let j := { j with
      io := io.fresh, moved := j.moved + out.length
      status := if spill then 3 else j.status }
    let s := { s with links := { s.links with chunks := s.links.chunks.filter fun e => !(e.1 == collTag j && e.2.1 == i) } }
    if j.moved ≥ collSize j then endColl s j 0 else setJob s j
  | .again io s => setJob s { j with io := io }
  | .page va k => stallJob s j va k
  | .fail => endColl s j 2
  | _ => s

/-- A collective job that runs goes on: it matches, reads its next chunk, or takes the first message that has arrived.
-/
def collStep (s : State) (j : Job) : State :=
  if !j.matched then collMatch s j
  else if j.buf.length < collSize j then collRead s j
  else match s.links.chunks.find? fun e => e.1 == collTag j with
    | some (_, i, data) => collWrite s j i data
    | none => s

/-! ### Start and completion -/

/-- The engines of a job type: first agent code and number (07 R204). -/
def engineBank (type : Nat) : Nat × Nat :=
  match type with
  | 1 => (64, 16)
  | 2 => (80, 4)
  | _ => (84, 2)

/-- A free engine of a type: the lowest-numbered that no running job holds. -/
def freeEngine (s : State) (type : Nat) : Option Nat :=
  let (first, n) := engineBank type
  ((List.range n).map (first + ·)).find? fun e => s.jobs.all fun j =>
    j.engine != e || j.phase == .waiting || j.phase == .done

/-- A job with an engine works on (15 R430, R431). -/
def runJob (s : State) (j : Job) : State :=
  if cardField j.card 0 1 = 3 then collStep s j else moveJob s j

/-- An engine takes a job that may start; a collective one completes while the bridge is down (02 R61; 15 R434;
08 R237). -/
def takeJob (s : State) (j : Job) : State :=
  match freeEngine s (cardField j.card 0 1) with
  | none => s
  | some e =>
    let j := { j with engine := e, phase := .running }
    if !jobFenceDone s j then s
    else if cardField j.card 0 1 = 3 && !(s.links.paired && s.links.up) then
      setJob s (finishJob j (if s.links.paired then 8 else 6))
    else
      let s := if cardField j.card 0 1 = 3 then
        { s with sent :=
            .matching (collTag j) (cardField j.card 25 1) (cardField j.card 26 1) (cardField j.card 28 4) :: s.sent }
        else s
      runJob (setJob s j) j

/-- A job is cancelled: one within a chunk at the end of it, another at once (10 R275; 05 R150). The peer hears of a
collective one that an engine holds, and drops its own job of the tag (02 R66; DESIGN CHOICE 120 for one that no engine
holds yet). -/
def cancelJob (s : State) (j : Job) : State :=
  if j.phase == .running && cardField j.card 0 1 ≤ 2 && inChunk j then setJob s { j with ending := true }
  else
  let s := if cardField j.card 0 1 = 3 && j.phase != .waiting then
    forgetColl { s with sent := .cancelled (collTag j) :: s.sent } (collTag j) else s
  setJob s (finishJob { j with replay := none } (if cardField j.card 0 1 = 4 then 3 else 1))

/-- The answer to a stalled job's record takes effect (10 R291). -/
def resumeJob (s : State) (j : Job) : State :=
  match j.replay with
  | none => s
  | some f =>
    match f.answer with
    | none => if f.record.isNone then stallJob s j f.va f.kind else s
    | some true => runJob s { j with phase := .running, replay := none }
    | some false => cancelJob s j

/-- The completion record of a job (15 R434). tasks is the number of a launch job's tasks that ran. -/
def jobRecord (j : Job) (seq : BitVec 32) : BitVec 128 :=
  let type := cardField j.card 0 1
  let agent := if type = 4 ∨ j.engine = 0 then 127 else j.engine
  BitVec.ofNat 128 (type + j.status * 2 ^ 8 + agent * 2 ^ 16 + cardField j.card 4 4 * 2 ^ 32 + seq.toNat * 2 ^ 64
    + min j.moved (2 ^ 32 - 1) * 2 ^ 96)

/-- A task or job of an ASID on a core, 64 for a job, has ended: the kernels from which on it comes first in the
dispatch order, and those that enter later, count it among what ended before their tasks (05 R143). -/
def noteEnded (s : State) (asid : BitVec 16) (core : Nat) (foots : List FpRange) (later : Kernel → Bool) : State :=
  { s with disp := { s.disp with
    ended := s.disp.ended ++ [(asid, core, foots)]
    kernels := s.disp.kernels.map fun o =>
      if o.record.asid == asid && later o then { o with prods := o.prods ++ [(core, foots)] } else o } }

/-- A job that is done and whose writes are performed posts its record, once the event queue has room and is the task's
own (06 R171; 10 R296; 15 R434); the record of a task that is gone is dropped with it. -/
def completeJob (s : State) (j : Job) : State :=
  if j.phase ≠ .done ∨ j.io.out ≠ [] then s
  else
    let later := (s.disp.order.dropWhile fun x => x != (true, j.num)).drop 1
    let leave (s : State) : State :=
      let s := noteEnded s j.asid 64 (plainFoots (jobFoots j.core j.card)) fun k => later.contains (false, k.num.toNat)
      settleIo { s with
        jobs := s.jobs.filter fun o => o.num != j.num
        disp := { s.disp with order := s.disp.order.filter fun e => e != (true, j.num) } } j.task j.io
    match coreHolding s j.task with
    | some c =>
      if (getCore s c).ctx.q.events.length ≥ depth64 || (j.kept && inSequence (getCore s c).ctx) then s
      else
        let (n, s) := takeSeq s
        leave (modCtx s c fun t => clearWaits (modQ t fun q =>
          { q with events := q.events ++ [⟨jobRecord j n, false⟩] }))
    | none =>
      if s.disp.saved.any fun v => v.ref == j.task then s else leave s

end Sys2Proof.Machine
end

