-- ==== Sys2Proof/Machine/Tasks.lean ====
section
/-!
DEFINITION. Kernels and their tasks in the dispatcher: task numbers, groups and footprints (05 R131 to R143), the
orderings that a task or job waits for, error tokens and cancellation (05 R150), and the end of a task on its core
(06 R163; 04 R115).
-/
namespace Sys2Proof.Machine

/-! ### Task numbers and groups (05 R131 to R136) -/

/-- The product of the extents of levels. -/
def extentProduct (l : List Level) : Nat := l.foldl (fun n e => n * e.extent) 1

/-- The number of tasks of a kernel. -/
def taskTotal (r : LaunchRecord) : Nat := extentProduct r.levels

/-- The size of a group at level l. -/
def groupSize (r : LaunchRecord) (l : Nat) : Nat := extentProduct (r.levels.drop (l + 1))

/-- The index of task t at level l. -/
def taskIndex (r : LaunchRecord) (t l : Nat) : Nat :=
  t / groupSize r l % ((r.levels[l]?.map fun e => e.extent).getD 1)

/-- The number of the group of task t at level l. -/
def groupOf (r : LaunchRecord) (t l : Nat) : Nat := t / groupSize r l

/-- The card's dispatcher runs task t: every task, but for those of the other card of a PAIR kernel (05 R136). -/
def ownTask (s : State) (r : LaunchRecord) (t : Nat) : Bool :=
  match r.levels.head? with
  | some l => l.domain != 4 || taskIndex r t 0 % 2 == cardOf s
  | none => true

/-- The tasks of a kernel that this card runs and that are numbered n or above. -/
def tasksFrom (s : State) (k : Kernel) (n : Nat) : List Nat :=
  ((List.range (taskTotal k.record)).drop n).filter (ownTask s k.record)

/-- The tasks of a kernel that have not started and may still start. -/
def unstarted (s : State) (k : Kernel) : List Nat := if k.cancelled then [] else tasksFrom s k k.next

/-- The task that the kernel starts next. -/
def nextTask (s : State) (k : Kernel) : Option Nat := (unstarted s k).head?

/-- The tasks of a kernel that have not ended. -/
def unended (s : State) (k : Kernel) : List Nat := k.live.map (fun l => l.task) ++ unstarted s k

/-! ### Footprints (05 R141) -/

/-- Footprint f of task t, none for a declared-away footprint, and an error where the range fails with REGION. -/
def footRange (k : Kernel) (t : Nat) (f : Footprint) : Except Unit (Option FpRange) :=
  let rl := vget k.rl f.reg.val
  let move : Int := if f.strided then 256 * (taskIndex k.record t f.level * 2 ^ f.log2 : Nat) else 0
  let base : Int := (offset rl : Int) + 256 * f.offset + move
  let lo := base / 256 * 256
  let hi := (base + 256 * f.len + 255) / 256 * 256
  if f.len = 0 then .ok none
  else if base < 0 ∨ lo < 0 ∨ hi > 2 ^ 64 ∨ region rl ≥ 0xF0 then .error ()
  else .ok (some ⟨f.write, region rl, lo.toNat, hi.toNat⟩)

/-- The footprints of task t, none where one of them fails. -/
def taskFoots? (k : Kernel) (t : Nat) : Option (List FpRange) :=
  k.record.foots.foldl (fun acc f => match acc, footRange k t f with
    | some l, .ok (some r) => some (l ++ [r])
    | some l, .ok none => some l
    | _, _ => none) (some [])

/-- The footprints of task t. -/
def taskFoots (k : Kernel) (t : Nat) : List FpRange := (taskFoots? k t).getD []

/-! ### Orderings (05 R142 to R145) -/

/-- Kernel number n of the dispatcher. -/
def findKernel (s : State) (n : BitVec 32) : Option Kernel := s.disp.kernels.find? fun k => k.num == n
/-- The kernel that a task belongs to; a context of system mode belongs to none. -/
def kernelOf (s : State) (r : TaskRef) : Option Kernel :=
  if r.kernel < 2 ^ 32 then findKernel s (BitVec.ofNat 32 r.kernel) else none
/-- s with kernel k replaced. -/
def setKernel (s : State) (k : Kernel) : State :=
  { s with disp := { s.disp with kernels := s.disp.kernels.map fun o => if o.num == k.num then k else o } }
/-- s with f applied to kernel n. -/
def modKernel (s : State) (n : BitVec 32) (f : Kernel → Kernel) : State :=
  { s with disp := { s.disp with kernels := s.disp.kernels.map fun k => if k.num == n then f k else k } }
/-- Job number n. -/
def findJob (s : State) (n : Nat) : Option Job := s.jobs.find? fun j => j.num == n

/-- The entries of the dispatch order before entry e. -/
def orderBefore (s : State) (e : Bool × Nat) : List (Bool × Nat) := s.disp.order.takeWhile fun x => x != e
/-- The entries of the dispatch order after entry e. -/
def orderAfter (s : State) (e : Bool × Nat) : List (Bool × Nat) := (s.disp.order.dropWhile fun x => x != e).drop 1

/-- A launch job whose kernel is entered: its launch block has been read, so it holds back nothing more. -/
def blockRead (j : Job) : Bool := match j.phase with
  | .entered _ => true
  | _ => false

/-- Entry e still holds back work of an ASID with these footprints; skip is a task that does not count (05 R142). -/
def holdsBack (s : State) (asid : BitVec 16) (foots : List FpRange) (skip : Option TaskRef) (e : Bool × Nat) : Bool :=
  if e.1 then
    match findJob s e.2 with
    | some j => j.asid == asid && !blockRead j && fpConflict (plainFoots (jobFoots j.core j.card)) foots
    | none => false
  else
    match findKernel s (BitVec.ofNat 32 e.2) with
    | some k => k.record.asid == asid && (unended s k).any fun u =>
        skip != some ⟨k.num.toNat, u⟩ && fpConflict (taskFoots k u) foots
    | none => false

/-- Every task of the kernel has started and executed TRIGGER or ended (05 R145). -/
def allTriggered (s : State) (k : Kernel) : Bool :=
  (unstarted s k).isEmpty && k.live.all fun l => k.triggered.contains l.task

/-- The orderings of task t of kernel k are met, or freed early by the one kernel that alone holds it back; one that two
kernels hold back waits though both have triggered (05 R142, R145; DESIGN CHOICE 126). -/
def taskMayStart (s : State) (k : Kernel) (t : Nat) : Bool :=
  let foots := taskFoots k t
  let held := (orderBefore s (false, k.num.toNat)).filter (holdsBack s k.record.asid foots none)
  let inside := (unended s k).any fun u => u < t && fpConflict (taskFoots k u) foots
  !inside && match held with
    | [] => true
    | [(false, n)] => k.record.early && match findKernel s (BitVec.ofNat 32 n) with
      | some p => allTriggered s p
      | none => false
    | _ => false

/-- The footprints in windows, which jobs alone compare (15 R433). -/
def windowFoots (l : List FpRange) : List FpRange := l.filter fun x => x.region > 0xFF

/-- The orderings of a job are met; windows order it against other jobs only (05 R142; 15 R433). -/
def jobMayStart (s : State) (j : Job) : Bool :=
  let foots := jobFoots j.core j.card
  (orderBefore s (true, j.num)).all fun e =>
    !holdsBack s j.asid (plainFoots foots) (some j.task) e
      && (!e.1 || match findJob s e.2 with
        | some o => o.asid != j.asid || !fpConflict (windowFoots (jobFoots o.core o.card)) (windowFoots foots)
        | none => true)

/-- The narrowest scope that contains two cores (05 R143); 64 stands for an engine. -/
def scopeOver (a b : Nat) : Nat :=
  if a ≥ 64 ∨ b ≥ 64 then 2
  else if a = b then 0
  else if islandOf (coreOf a) = islandOf (coreOf b) then 1
  else 2

/-- The kernel scope (05 R133). -/
def kernelScope (r : LaunchRecord) : Nat := (r.levels.head?.map fun l => l.scope).getD 0

/-- The core of a live task, or 64, which makes the scope DEVICE, while it is saved and on none (DESIGN CHOICE 127). -/
def placeCore (p : TaskPlace) : Nat := match p with
  | .resident c => c.val
  | .saved => 64

/-- The live tasks of the kernels before kernel k in the dispatch order, with their footprints: those that hold back no
task of k any more have executed TRIGGER (05 R145). -/
def liveProds (s : State) (k : Kernel) : List (Nat × List FpRange) :=
  (orderBefore s (false, k.num.toNat)).flatMap fun e => if e.1 then [] else
    match findKernel s (BitVec.ofNat 32 e.2) with
    | some p => if p.record.asid == k.record.asid then p.live.map fun l => (placeCore l.place, taskFoots p l.task)
      else []
    | none => []

/-- The scope of the start acquire of task t on core c: the kernel scope, widened over the producers that the task is
ordered after, those that have ended and those that have triggered (05 R143, R145). -/
def startScope (s : State) (k : Kernel) (t c : Nat) : Nat :=
  ((k.prods ++ liveProds s k).filter fun p => fpConflict p.2 (taskFoots k t)).foldl (fun n p => max n (scopeOver p.1 c))
    (kernelScope k.record)

/-! ### Stops (10 R276) -/

/-- A task-level cause (10 R277). -/
def taskCause (c : Cause) (detail : Nat) (fatal : Bool) : TrapInfo :=
  { cause := c, source := 5, detail := detail, faddr := 0, status := 0, len := 0, fatal := fatal, rerun := false,
    sfirst := 0, slast := 0, sfstep := 0xFFFFFFFF, slstep := 0xFFFFFFFF }

/-- The place of a stop in the order of 10 R276, the first taken first. -/
def stopRank (i : TrapInfo) : Nat :=
  match i.cause with
  | .eccFatal => 0
  | .watchdog => 1
  | .queue => if i.detail = 1 then 2 else 10 + i.source
  | .cancel => 3
  | .preempt => 20
  | .arraySuspect => 21
  | .throttleWarn => 22
  | _ => 10 + i.source

/-- What becomes of a cause that another stop comes before: a PREEMPT waits, an ARRAY-SUSPECT and a THROTTLE-WARN stay
pending, and any other is not raised (10 R276). -/
def setBehind (k : Core) (i : TrapInfo) : Core :=
  match i.cause with
  | .preempt => { k with preempt := true }
  | .throttleWarn => { k with ctx := { k.ctx with warn := some (k.ctx.warn.getD i) } }
  | .arraySuspect => { k with ctx := { k.ctx with m := { k.ctx.m with suspect := some (k.ctx.m.suspect.getD i) } } }
  | _ => k

/-- A stop of core c is requested; of two stops the first in the order of 10 R276 stands. -/
def requestStop (s : State) (c : CoreId) (i : TrapInfo) : State :=
  modCore s c fun k =>
    if !k.busy then k
    else match k.stop with
      | some o => if stopRank o.info ≤ stopRank i then setBehind k i else { setBehind k o.info with stop := some ⟨i⟩ }
      | none => { k with stop := some ⟨i⟩ }

/-! ### Cancellation and error tokens (05 R150) -/

/-- The barriers of groups that have no task left are freed (05 R135). -/
def freeBarriers (s : State) (k : Kernel) : State :=
  let lvl := (k.record.levels.findIdx? fun l => l.bdepth != 0).getD 0
  let open_ (b : Nat × Nat × Nat × Nat) := (unended s k).any fun u => groupOf k.record u lvl == b.1
  let s := (k.bars.filter fun b => !open_ b).foldl (fun s b =>
    (List.range b.2.2.2).foldl (fun s i => barSet s b.2.1 (b.2.2.1 + i) ⟨0, 0, 0, false⟩) s) s
  setKernel s { k with bars := k.bars.filter open_ }

/-- A saved task ends: its jobs are cancelled, but for launch jobs whose kernel is entered, and its account goes to its
last settlement on the island that it ran on, which adds what it used to the kernel's sum (03 R87; 04 R115; 05 R150). -/
def endSaved (s : State) (v : SavedTask) : State :=
  let s := (s.jobs.filter fun j => j.task == v.ref && !blockRead j && j.phase != .done).foldl cancelJob s
  if s.settling.any fun e => e.ref == v.ref then
    { s with settling := s.settling.map fun e => if e.ref == v.ref then { e with last := true } else e }
  else { s with settling := s.settling ++ [⟨v.ref, v.island, v.ctx.acct, true⟩] }

/-- FUNCTION-RESET. -/
def stFunctionReset : Nat := 9

/-- A kernel is stopped with a status, which it keeps if it has one, unless its function is reset (05 R150; 02 R52): no
more of its tasks start, its resident tasks get CANCEL, and its saved tasks end. -/
def stopKernel (s : State) (n : BitVec 32) (status : Nat) : State :=
  match findKernel s n with
  | none => s
  | some k =>
    let mine (r : TaskRef) := r.kernel == n.toNat
    let s := k.live.foldl (fun s l => match l.place with
      | .resident c => requestStop s (tile c) (taskCause .cancel 0 false)
      | .saved => s) s
    let s := (s.disp.saved.filter fun v => mine v.ref).foldl endSaved s
    let s := { s with
      disp := { s.disp with saved := s.disp.saved.filter fun v => !mine v.ref }
      contexts := s.contexts.map fun e => (e.1, { e.2 with slotsUsed := e.2.slotsUsed.filter fun u =>
        !(mine u.2 && k.live.any fun l => l.task == u.2.task && l.place == .saved) }) }
    let k := { k with
      status := some (if status = stFunctionReset then status else k.status.getD status)
      cancelled := true
      holds := []
      live := k.live.filter fun l => l.place != .saved }
    freeBarriers (setKernel s k) k

/-- The footprints of every task of a kernel, or of a job; skip is a task that does not count. -/
def sourceFoots (s : State) (e : Bool × Nat) (skip : Option TaskRef) : List FpRange :=
  if e.1 then (findJob s e.2).elim [] fun j => plainFoots (jobFoots j.core j.card)
  else (findKernel s (BitVec.ofNat 32 e.2)).elim [] fun k =>
    (tasksFrom s k 0).flatMap fun u => if skip == some ⟨k.num.toNat, u⟩ then [] else taskFoots k u

/-- The ASID of an entry of the dispatch order. -/
def orderAsid (s : State) (e : Bool × Nat) : Option (BitVec 16) :=
  if e.1 then (findJob s e.2).map fun j => j.asid else (findKernel s (BitVec.ofNat 32 e.2)).map fun k => k.record.asid

/-- An ordering edge leaves any task or the job of entry a for work of entry b that has not started (05 R150). -/
def edgeTo (s : State) (a b : Bool × Nat) : Bool :=
  orderAsid s a == orderAsid s b &&
    (if b.1 then (findJob s b.2).elim false fun j =>
      j.phase == .waiting && fpConflict (sourceFoots s a (some j.task)) (plainFoots (jobFoots j.core j.card))
    else (findKernel s (BitVec.ofNat 32 b.2)).elim false fun k =>
      (unstarted s k).any fun u => fpConflict (sourceFoots s a none) (taskFoots k u))

/-- An error token reaches the entry (05 R150). -/
def tokenTo (s : State) (e : Bool × Nat) : State :=
  if e.1 then (findJob s e.2).elim s (cancelJob s) else stopKernel s (BitVec.ofNat 32 e.2) 3

/-- Entry b is the kernel of a launch job of a task of kernel a that is on no core (10 R275). -/
def childOf (s : State) (a b : Bool × Nat) : Bool :=
  !a.1 && !b.1 && (findKernel s (BitVec.ofNat 32 b.2)).elim false fun k => match k.origin with
    | .job n => (findJob s n).elim false fun j => j.task.kernel == a.2 && (coreHolding s j.task).isNone
    | .packet _ _ _ => false

/-- Error tokens leave entry e and pass on from all that they cancel, along the dispatch order; the kernels that a
cancelled kernel's saved tasks have launched are cancelled with it (05 R150; 10 R275). -/
def sendTokens (s : State) (e : Bool × Nat) : State :=
  ((orderAfter s e).foldl (fun (acc : State × List (Bool × Nat)) b =>
    if acc.2.any fun a => edgeTo s a b || childOf s a b then (tokenTo acc.1 b, b :: acc.2) else acc) (s, [e])).1

/-- A kernel is cancelled as an error token cancels it (05 R150; 10 R275). -/
def cancelKernel (s : State) (n : BitVec 32) : State := sendTokens (stopKernel s n 3) (false, n.toNat)

/-- A task of kernel n ended on a fatal fault or on WATCHDOG: its hardware queue freezes, the kernel stops with a
status, and error tokens leave it (05 R144, R150). -/
def failKernel (s : State) (n : BitVec 32) (status : Nat) : State :=
  match findKernel s n with
  | none => s
  | some k =>
    let s := { s with disp := { s.disp with
      hwqs := vmod s.disp.hwqs k.hwq fun q => { q with frozen := true }
      freezes := s.disp.freezes ++ [k.hwq] } }
    let s := stopKernel s n status
    sendTokens (modKernel s n fun k => { k with fatal := true }) (false, n.toNat)

/-! ### Jobs and requests of a task -/

/-- The jobs of a task. -/
def jobsOf (s : State) (r : TaskRef) : List Job := s.jobs.filter fun j => j.task == r
/-- The jobs that core c has submitted and that have not completed; those of a saved task are on no core (15 R428). -/
def jobsAt (s : State) (c : CoreId) : Nat :=
  (s.jobs.filter fun j => j.core == c && j.phase != .withdrawn && !s.disp.saved.any fun v => v.ref == j.task).length
/-- The sample requests of a task. -/
def samplesOf (s : State) (r : TaskRef) : List Sample := s.samples.filter fun x => x.task == r

/-- The jobs of a task that stops fatally or by CANCEL are cancelled, and the kernels of its launch jobs with them
(10 R275). -/
def cancelJobs (s : State) (r : TaskRef) : State :=
  (jobsOf s r).foldl (fun s j => match j.phase with
    | .done => s
    | .entered k => cancelKernel s k
    | _ => cancelJob s j) s

/-! ### The end of a task (06 R163; 04 R115; 05 R135, R143) -/

/-- A waiting SCDEC.WAIT of core c on an object ends with a status (09 R263). -/
def endScWait (s : State) (c obj status : Nat) : State :=
  modCtx s (coreOf c) fun t => match t.aq.scWait with
    | .queued o d => if o == obj then clearWaits { t with aq := { t.aq with scWait := .ended d status } } else t
    | _ => t

/-- The head of an object's FIFO is served while the reserve covers it (09 R263, R265); fuel bounds the requests. -/
def serveFrom (obj : Nat) : (fuel : Nat) → State → State
  | 0, s => s
  | fuel + 1, s =>
    match tfind s.counters obj with
    | none => s
    | some o => match o.fifo with
      | [] => s
      | (c, n) :: r =>
        if n ≤ o.res then
          let s := { s with counters := tset s.counters obj { o with res := o.res - n, fifo := r } }
          serveFrom obj fuel (endScWait s c obj 0)
        else s

/-- The requests that wait for an object are served as far as its reserve goes. -/
def serveFifo (s : State) (obj : Nat) : State := serveFrom obj 64 s

/-- A core of either card waits in the monitor entry. -/
def watched (m : Monitor) : Bool := m.waiters != [] || m.peers != []

/-- The peer is told that core c waits no more for the line that its WAITA named there (09 R259, R271; DESIGN CHOICE 105
for the message). -/
def tellWithdrawn (s : State) (c : CoreId) : State :=
  match (getCore s c).ctx.aq.waita with
  | .asked _ pa _ =>
    let (n, s) := takeStamp s
    chargeExternal { s with
      sent := .bridgeAtomic n ⟨pa, 0, false, false, false, 0, 0, Fin.ofNat 64 c.val, true, true⟩ :: s.sent } c 1
  | _ => s

/-- What waits at other agents for the task on core c is withdrawn (10 R271). -/
def withdrawWaits (s : State) (c : CoreId) : State :=
  let s := tellWithdrawn s c
  let s := { s with
    monitors := (s.monitors.map fun m => { m with waiters := m.waiters.filter (· != c) }).filter watched
    counters := s.counters.map fun e => (e.1, { e.2 with fifo := e.2.fifo.filter fun f => f.1 != c.val })
    cores := s.cores.map fun k => { k with rings := k.rings.map fun r => { r with waiters := r.waiters.filter (· != c) } } }
  let s := match (getCore s c).ctx.aq.scWait with
    | .queued obj _ => serveFifo s obj
    | _ => s
  modCtx s c fun t => { t with aq := { t.aq with
    waita := match t.aq.waita with
      | .woken d => .woken d
      | .answered d n => .answered d n
      | _ => .none
    ringWait := none
    scWait := match t.aq.scWait with
      | .ended d n => .ended d n
      | _ => .none } }

/-- Every stream that waits looks again. -/
def wakeAll (s : State) : State := { s with cores := s.cores.map fun k => { k with ctx := clearWaits k.ctx } }

/-- The account of the task on core c goes to settlement (04 R115). -/
def queueSettle (s : State) (c : CoreId) (last : Bool) : State :=
  let t := (getCore s c).ctx
  { s with settling := s.settling ++ [⟨t.task, islandOf c, t.acct, last⟩] }

/-- The words of other cores that wait at a ring of core c for which off holds fault when they look again (09 R249). -/
def disableWaits (s : State) (c : CoreId) (off : Nat → Bool) : State :=
  { s with cores := s.cores.map fun k => { k with ctx := { k.ctx with aq := { k.ctx.aq with
    ringWait := k.ctx.aq.ringWait.map fun w => (w.1, w.2.1, w.2.2 || (w.1 == c && off w.2.1)) } } } }

/-- The pending trigger point of the task on core c is reported to the dispatcher (05 R145; 14 R398). -/
def reportTrigger (s : State) (c : CoreId) : State :=
  let t := (getCore s c).ctx
  if t.trigger.isNone then s
  else modKernel (modCtx s c fun t => { t with trigger := none }) (BitVec.ofNat 32 t.task.kernel) fun k =>
    { k with triggered := t.task.task :: k.triggered }

/-- What a core holds of a task that has left it: queues and tokens are empty, nothing is on its way and no handler runs,
and the registers and scalar local memory stand until the next launch (06 R163, R182). -/
def Ctx.left (t : Ctx) : Ctx :=
  { Ctx.launch with
    x := t.x, pr := t.pr, lc := t.lc, a := t.a, k := t.k, rl := t.rl, args := t.args
    variants := t.variants, launched := t.launched, slm := t.slm, windows := t.windows, pmode := t.pmode
    csr := { t.csr with inHandler := false }
    m := { Ctx.launch.m with rm := t.m.rm, active := t.m.active, shadow := t.m.shadow } }

/-- The core holds no task: rings are cleared and every waiter looks again (09 R249). A packet that is partly written to
the doorbell slot goes (DESIGN CHOICE 97). -/
def vacate (s : State) (c : CoreId) : State :=
  wakeAll (modCore (disableWaits s c fun _ => true) c fun k =>
    { k with
      busy := false
      ctx := k.ctx.left
      jio := { EngIo.none with atoms := k.jio.atoms }
      rings := Vector.replicate 32 ⟨0, 0, []⟩
      lastTask := some (k.ctx.task, k.ctx.context)
      stop := none
      preempt := false
      dbSlot := 0
      dbMask := 0 })

/-- What a task that ends has still asked of the sampler engines goes with its queues, charged as far as it came
(06 R163; 04 R114; DESIGN CHOICE 85). -/
def dropSamples (s : State) (r : TaskRef) : State :=
  (samplesOf s r).foldl (fun s x =>
    settleIo { s with samples := s.samples.filter fun o => o.num != x.num } r x.io) s

/-- The task on core c has ended; ran tells that it ran to its end. -/
def endTask (s : State) (c : CoreId) (ran : Bool) : State :=
  let t := (getCore s c).ctx
  let s := queueSettle (dropSamples (withdrawWaits s c) t.task) c true
  let s := vacate s c
  match kernelOf s t.task with
  | none => s
  | some k =>
    let k := { k with
      live := k.live.filter fun l => l.task != t.task.task
      ran := if ran then k.ran + 1 else k.ran
      triggered := k.triggered.filter (· != t.task.task) }
    let s := setKernel s k
    let after := orderAfter s (false, k.num.toNat)
    let s := noteEnded s k.record.asid c.val (taskFoots k t.task.task) fun o =>
      o.num == k.num || after.contains (false, o.num.toNat)
    let s := { s with
      contexts := s.contexts.map fun e => (e.1, { e.2 with slotsUsed := e.2.slotsUsed.filter fun u => u.2 != t.task }) }
    freeBarriers s ((findKernel s k.num).getD k)

end Sys2Proof.Machine
end

