-- ==== Sys2Proof/Machine/Tile.lean ====
section
/-!
DEFINITION. Tile commands: format words, the place of operands, scales and results, the arithmetic of one element, and
what a command writes (11 R324 to R327; 17 R469 to R475, R480).
-/
namespace Sys2Proof.Machine

/-! ### Format words (17 R469) -/

/-- AFMT. -/
def fwA (w : Word) : Nat := bits w.toNat 3 0
/-- BFMT. -/
def fwB (w : Word) : Nat := bits w.toNat 7 4
/-- Unit scales (SMODE 1). -/
def fwUnit (w : Word) : Bool := bits w.toNat 11 8 == 1
/-- OUT. -/
def fwOut (w : Word) : Nat := bits w.toNat 15 12

/-- The limits of a format word. -/
def formatOk (w : Word) : Bool :=
  let f (hi lo : Nat) := bits w.toNat hi lo
  fwA w ≤ 7 && fwB w ≤ 7 && ((fwA w == 4) == (fwB w == 4)) && f 11 8 ≤ 1 && [0, 1, 2, 3, 8, 9, 13].contains (fwOut w)
    && f 19 16 ≤ 2

/-- A block-scaled format. -/
def blockScaled (fmt : Nat) : Bool := fmt == 5 || fmt == 6 || fmt == 7

/-- The layouts of the operands of a tile command that its formats allow. -/
def layoutOk (w : Word) (f : MFields) : Bool :=
  !(blockScaled (fwA w) && f.aCol) && !(blockScaled (fwB w) && f.bLay)

/-- KDepth of 11 R324. -/
def kDepth (fmt : Nat) : Nat := if fmt ≤ 1 then 1 else if fmt == 5 || fmt == 6 then 4 else 2

/-- The QK-640 rules are in force for a command (11 R326). -/
def rules640 (w : Word) (nbv : Bool) : Bool := if bits w.toNat 19 16 = 0 then nbv else bits w.toNat 19 16 == 2

/-! ### Shape of a command -/

/-- Mt. -/
def mtOf (f : MFields) : Nat := f.mt.toNat + 1
/-- Nt. -/
def ntOf (f : MFields) : Nat := f.nt.toNat + 1
/-- Kt. -/
def ktOf (f : MFields) : Nat := f.kt.toNat + 1

/-- W of 17 R474. -/
def tileWork (w : Word) (f : MFields) : Nat :=
  ceilDiv (mtOf f) 64 * ceilDiv (ntOf f) 128 * ceilDiv (ktOf f) (min (kDepth (fwA w)) (kDepth (fwB w)))

/-- The lines of elements of an operand: its slice, the byte at which line 0 begins, the bytes from line to line, their
number, and the elements of each (17 R471). along tells that the elements of a line follow the reduction. -/
structure Lines where
  slice  : Nat
  start  : Int
  pitch  : Nat
  count  : Nat
  inner  : Nat
  along  : Bool
  fmt    : Nat

/-- The A operand at an offset (17 R471). -/
def linesA (w : Word) (f : MFields) (ao : Int) : Lines :=
  ⟨f.aSlice.toNat, 32 * ao, 32 * f.aLd.toNat, if f.aCol then ktOf f else mtOf f, if f.aCol then mtOf f else ktOf f,
    !f.aCol, fwA w⟩

/-- The B operand at an offset (17 R471). -/
def linesB (w : Word) (f : MFields) (bo : Int) : Lines :=
  ⟨f.bSlice.toNat, 32 * bo, 32 * f.bLd.toNat, if f.bLay then ktOf f else ntOf f, if f.bLay then ntOf f else ktOf f,
    !f.bLay, fwB w⟩

/-- The bytes of one line. -/
def Lines.bytes (l : Lines) : Nat := ceilDiv (l.inner * fmtBits l.fmt) 8
/-- The first byte of line t. -/
def Lines.at (l : Lines) (t : Nat) : Int := l.start + l.pitch * t
/-- The operand lies within its slice (17 R471). -/
def Lines.ok (l : Lines) : Bool := 0 ≤ l.start && l.at (l.count - 1) + l.bytes ≤ 0x200000

/-- Elements of a block (11 R311, R313). -/
def blockElems (fmt : Nat) : Nat := if fmt = 6 then 64 else 32
/-- Bytes of the codes of a block (17 R472). -/
def blockCode (fmt : Nat) : Nat := blockElems fmt * fmtBits fmt / 8

/-- The bytes of the scale array that the block with its first code byte at o takes, as offset and length
(17 R472). -/
def scaleBytes (fmt base o : Nat) : List (Nat × Nat) :=
  if fmt = 6 then
    let g := o / 32
    [(base + 288 * (g / 256), 4), (base + 288 * (g / 256) + 32 + g % 256, 1)]
  else [(base + o / blockCode fmt, 1)]

/-- Where an operand's scales are, as slice and offset; none where it reads no scale array. -/
def scaleBase (w : Word) (isB : Bool) : Option (Nat × Nat) :=
  let fmt := if isB then fwB w else fwA w
  if !blockScaled fmt || fwUnit w then none
  else if isB then some (bits w.toNat 47 42, 32 * bits w.toNat 63 48)
  else some (bits w.toNat 25 20, 32 * bits w.toNat 41 26)

/-- The blocks of one line. -/
def Lines.blocks (l : Lines) : Nat := ceilDiv l.inner (blockElems l.fmt)

/-- The scale bytes that line t takes. -/
def Lines.scales (l : Lines) (base t : Nat) : List (Nat × Nat) :=
  ((List.range l.blocks).flatMap fun b => scaleBytes l.fmt base ((l.at t).toNat + blockCode l.fmt * b)).eraseDups

/-- The end of the scale byte, or of the 288-byte record, that the block with its first code byte at o takes (11 R313;
17 R472). -/
def scaleEnd (fmt base o : Nat) : Nat :=
  if fmt = 6 then base + 288 * (o / 32 / 256) + 288 else base + o / blockCode fmt + 1

/-- The scale bytes and records of an operand lie within their slice (17 R472). -/
def Lines.scalesOk (l : Lines) (sc : Option (Nat × Nat)) : Bool :=
  match sc with
  | none => true
  | some (_, base) => (List.range l.blocks).all fun b =>
      scaleEnd l.fmt base ((l.at (l.count - 1)).toNat + blockCode l.fmt * b) ≤ 0x200000

/-- What an operand fetches: its lines and its scale bytes. -/
def Lines.fetched (l : Lines) (sc : Option (Nat × Nat)) : List Pin :=
  (List.range l.count).flatMap fun t =>
    ⟨l.slice, (l.at t).toNat, l.bytes⟩ :: match sc with
      | some (slice, base) => (l.scales base t).map fun e => ⟨slice, e.1, e.2⟩
      | none => []

/-- The 64-byte granules of ranges of one slice; only granules above those before are counted again (04 R112). -/
def granules (l : List Pin) : Nat :=
  (l.foldl (fun (acc : Nat × Nat × Nat) p =>
    let lo := p.off / 64
    let hi := (p.off + p.len - 1) / 64 + 1
    if p.len = 0 then acc
    else if p.slice = acc.2.1 then (acc.1 + (hi - max lo acc.2.2), p.slice, max hi acc.2.2)
    else (acc.1 + (hi - lo), p.slice, hi)) (0, 64, 0)).1

/-- The granules that an operand's fetch reads: those of its lines and those of its scale bytes. -/
def Lines.granules (l : Lines) (sc : Option (Nat × Nat)) : Nat :=
  Machine.granules ((List.range l.count).map fun t => ⟨l.slice, (l.at t).toNat, l.bytes⟩)
    + match sc with
      | some (slice, base) => Machine.granules ((List.range l.count).flatMap fun t =>
          (l.scales base t).map fun e => ⟨slice, e.1, e.2⟩)
      | none => 0

/-! ### Values (11 R309, R311 to R313; 17 R471, R472) -/

/-- A number in n bytes of a staging slice. -/
def stageNat (s : State) (slice off n : Nat) : Nat := physNat s (stagingBase + slice * 0x200000 + off) n

/-- The value of a code of a block whose scale bytes stand at o; sc is none for unit scales. -/
def blockValue (s : State) (fmt : Nat) (sc : Option (Nat × Nat)) (o code : Nat) : FVal :=
  match sc with
  | none => if fmt = 6 then cb4Value (fInt 1) 255 code else mxValue fmt 127 code
  | some (slice, base) =>
    match scaleBytes fmt base o with
    | [a, b] => cb4Value (decodeElem 8 (stageNat s slice a.1 4)) (stageNat s slice b.1 1) code
    | [a] => mxValue fmt (stageNat s slice a.1 1) code
    | _ => fZero

/-- The values of line t of an operand. -/
def Lines.line (s : State) (l : Lines) (sc : Option (Nat × Nat)) (t : Nat) : List FVal :=
  let o := (l.at t).toNat
  let codes := splitElems (fmtBits l.fmt) l.inner (stageNat s l.slice o l.bytes)
  if blockScaled l.fmt then
    codes.zipIdx.map fun (c, x) => blockValue s l.fmt sc (o + blockCode l.fmt * (x / blockElems l.fmt)) c
  else codes.map (decodeElem l.fmt)

/-- Rows and columns exchanged: n rows of the result. -/
def transposed (l : List (List FVal)) (n : Nat) : List (List FVal) :=
  (List.range n).map fun i => l.map fun r => r.getD i fZero

/-- The rows of A, or the columns of B, each along the reduction. -/
def Lines.vectors (s : State) (l : Lines) (sc : Option (Nat × Nat)) : List (List FVal) :=
  let rows := (List.range l.count).map (l.line s sc)
  if l.along then rows else transposed rows l.inner

/-! ### One element (11 R324, R327) -/

/-- The sum of the products of two lists, exact (11 R324). -/
def dotProduct : List FVal → List FVal → Option FVal
  | a :: x, b :: y => some (match dotProduct x y with
    | some r => fAdd false (fMul a b) r
    | none => fMul a b)
  | _, _ => none

/-- TileElement of 11 R324: the group sums of depth d, each added with one rounding. -/
def tileElement (d : Nat) : (groups : Nat) → (acc : Nat) → List FVal → List FVal → Nat
  | 0, acc, _, _ => acc
  | g + 1, acc, a, b =>
    match dotProduct (a.take d) (b.take d) with
    | some v => tileElement d g (roundAcc (fAdd false (decodeFloat fmtACC96 acc) v)) (a.drop d) (b.drop d)
    | none => acc

/-- One level of the pairwise tree of 11 R327. -/
def pairLevel : List FVal → List FVal
  | a :: b :: r => via32 (fAdd false a b) :: pairLevel r
  | l => l

/-- TileElement640 of 11 R327, as an FP32 value. -/
def tileElement640 : (groups : Nat) → (acc : FVal) → List FVal → List FVal → FVal
  | 0, acc, _, _ => acc
  | g + 1, acc, a, b =>
    let q := (List.range 32).map fun t => match a[t]?, b[t]? with
      | some x, some y => via32 (fMul x y)
      | _, _ => fZero
    let sum := (pairLevel (pairLevel (pairLevel (pairLevel (pairLevel q))))).headD fZero
    tileElement640 g (via32 (fAdd false acc sum)) (a.drop 32) (b.drop 32)

/-- The ACC96 bits of a result element, from the bits before (11 R324 to R327). -/
def elementResult (w : Word) (old640 : Bool) (acc : Bool) (kt old : Nat) (a b : List FVal) : Nat :=
  let start := if acc then old else 0
  if old640 then roundAcc (tileElement640 (ceilDiv kt 32) (via32 (decodeFloat fmtACC96 start)) a b)
  else
    let d := min (kDepth (fwA w)) (kDepth (fwB w))
    tileElement d (ceilDiv kt d) start a b

/-! ### Tiles (17 R473 to R475) -/

/-- The C tile of a command at an element index lies in the accumulator region (17 R473). -/
def cTileOk (f : MFields) (ci : Int) : Bool :=
  0 ≤ ci && ci + ((mtOf f - 1) * f.cStr.toNat : Nat) + ntOf f - 1 ≤ 349524 && (mtOf f ≤ 1 || ntOf f ≤ f.cStr.toNat)

/-- The register-space offset of row i of the C tile. -/
def cRowAt (f : MFields) (ci i : Nat) : Nat := 12 * (ci + i * f.cStr.toNat)
/-- The bytes of a row of the C tile. -/
def cRowLen (f : MFields) : Nat := 12 * ntOf f
/-- Row i is not written (17 R482). -/
def rowMasked (f : MFields) (rm : BitVec 192) (i : Nat) : Bool := f.rmask && rm.getLsbD i
/-- The rows of a C tile that are not masked. -/
def openRows (f : MFields) (rm : BitVec 192) : List Nat := (List.range (mtOf f)).filter fun i => !rowMasked f rm i
/-- The elements of row i of the C tile. -/
def cRow (k : Core) (f : MFields) (ci i : Nat) : List Nat :=
  splitElems 96 (ntOf f) (bytesToNat (regRead k (cRowAt f ci i) (cRowLen f)))

/-- The write of a row of ACC96 elements. -/
def cRowPut (f : MFields) (ci i : Nat) (l : List Nat) : Nat × List Byte :=
  (cRowAt f ci i, natToBytes (cRowLen f) (joinElems 96 l))

/-- The results of one tile command, with the NBV in force (17 R474). -/
def tileWrites (s : State) (k : Core) (w : Word) (f : MFields) (ao bo ci : Nat) (acc nbv : Bool) :
    List (Nat × List Byte) :=
  let a := (linesA w f ao).vectors s (scaleBase w false)
  let b := (linesB w f bo).vectors s (scaleBase w true)
  let old640 := rules640 w nbv
  (openRows f k.ctx.m.rm).map fun i =>
    let old := if acc then cRow k f ci i else []
    cRowPut f ci i ((List.range (ntOf f)).map fun j =>
      elementResult w old640 acc (ktOf f) (old.getD j 0) (a.getD i []) (b.getD j []))

/-- The cost of a multiply-add of a format (04 R112). -/
def macCost (fmt : Nat) : Nat := if fmt ≤ 1 then 24 else if fmt = 5 || fmt = 6 then 7 else 12

/-- The regions of the pin table that hold a line that a command fetches (17 R484). -/
def pinsHit (pins reads : List Pin) : List Pin :=
  pins.filter fun p => reads.any fun r => r.slice == p.slice && r.off / 64 * 64 < p.off + p.len
    && p.off < ((r.off + r.len - 1) / 64 + 1) * 64

/-! ### MDRAIN (17 R480) -/

/-- An ACC96 element in an output format. -/
def drainElem (out v : Nat) : Nat :=
  if out = 13 then v
  else if out = 9 then (floatToInt 9 0 (decodeFloat fmtACC96 v)).1
  else (roundFloat (floatFmt out) 0 false (decodeFloat fmtACC96 v)).1

/-- Bytes of an output element. -/
def drainSize (out : Nat) : Nat := fmtBits out / 8

/-- The lines that a drain writes: the byte of line 0 in its destination, the pitch, and the elements of each line; a
column-major drain writes columns. -/
def drainLines (k : Core) (f : MFields) (out : Nat) : List (Nat × List Byte) :=
  let rows := (openRows f k.ctx.m.rm).map fun i => (i, (cRow k f f.cIdx.toNat i).map (drainElem out))
  let w := fmtBits out
  let n := drainSize out
  if f.bLay then rows.map fun r => (32 * f.bLd.toNat * r.1, natToBytes (n * r.2.length) (joinElems w r.2))
  else if f.aCol then (List.range (ntOf f)).flatMap fun j => rows.map fun r =>
    (32 * f.aLd.toNat * j + n * r.1, natToBytes n (r.2.getD j 0))
  else rows.map fun r => (32 * f.aLd.toNat * r.1, natToBytes (n * r.2.length) (joinElems w r.2))

/-! ### MSCALE (17 R479) and what an M-word writes -/

/-- C × r × c with one rounding (17 R479). -/
def scaleElem (old r c : Nat) : Nat :=
  roundAcc (fMul (fMul (decodeFloat fmtACC96 old) (decodeFloat fmtFP32 r)) (decodeFloat fmtFP32 c))

/-- The rows of a C tile that MSCALE writes, with its factors at ra and ca. -/
def scaleWrites (k : Core) (f : MFields) (ra ca : Nat) : List (Nat × List Byte) :=
  let rows := splitElems 32 (mtOf f) (bytesToNat (regRead k ra (4 * mtOf f)))
  let cols := splitElems 32 (ntOf f) (bytesToNat (regRead k ca (4 * ntOf f)))
  (openRows f k.ctx.m.rm).map fun i => cRowPut f f.cIdx.toNat i
    (((cRow k f f.cIdx.toNat i).zip cols).map fun e => scaleElem e.1 (rows.getD i 0) e.2)

/-- The lines of a drain at their destination. -/
def drainWrites (k : Core) (f : MFields) (out base : Nat) : List (Nat × List Byte) :=
  (drainLines k f out).map fun e => (base + e.1, e.2)

/-- The command x with what its work writes to register space and to staging, formed from core k (17 R474, R479,
R480). -/
def formWrites (s : State) (k : Core) (x : TileCmd) : TileCmd :=
  match x.work with
  | .none => x
  | .rowMask _ => x
  | .tile w f ao bo ci acc nbv => { x with regs := tileWrites s k w f ao bo ci acc nbv }
  | .scale f ra ca => { x with regs := scaleWrites k f ra ca }
  | .drain f out base true => { x with stage := drainWrites k f out base }
  | .drain f out base false => { x with regs := drainWrites k f out base }

end Sys2Proof.Machine
end

