-- ==== Sys2Proof/Machine/Land.lean ====
section
/-!
DEFINITION. The ends of operations that streams have issued: results of V-words and P-words, M-words, self-tests of the
matrix array (06 R184, R185; 17 R467, R485; 18 R492; 10 R301 to R304).
-/
namespace Sys2Proof.Machine

/-! ### Results of V-words and P-words -/

/-- Several writes to register space in order. -/
def regWrites (k : Core) (l : List (Nat × List Byte)) : Core := l.foldl (fun k w => regWrite k w.1 w.2) k
/-- Several writes to the banks in order. -/
def bankWrites (k : Core) (l : List (Nat × List Byte)) : Core := l.foldl (fun k w => bankWrite k w.1 w.2) k

/-- The masks with the bits written that a result writes: number, bits, values (16 R450). -/
def maskWrites (l : List (Nat × BitVec 256 × BitVec 256)) (v : Vector (BitVec 256) 8) : Vector (BitVec 256) 8 :=
  l.foldl (fun v m => vmod v m.1 fun old => (old &&& ~~~ m.2.1) ||| (m.2.2 &&& m.2.1)) v

/-- What is left of a range of register space, as offset and length, without the n bytes from off. -/
def cutRange (off n : Nat) (w : Nat × Nat) : List (Nat × Nat) :=
  [(w.1, min (w.1 + w.2) off - w.1), (max w.1 (off + n), w.1 + w.2 - max w.1 (off + n))].filter fun w => w.2 != 0

/-- What suspect tile commands wrote, without the ranges that later words have written (10 R303). -/
def cutWritten (written : List (Nat × Nat)) (l : List (Nat × List Byte)) : List (Nat × Nat) :=
  l.foldl (fun v w => v.flatMap (cutRange w.1 w.2.length)) written

/-- A word in speculative mode issued the result. -/
def Pending.spec (p : Pending) : Bool := p.tag.round.isSome

/-- The M-word that runs takes note of writes of a V-word to core k, with the bytes before them (17 R487). -/
def noteRaces (k : Core) (l : List (Nat × List Byte)) (m : MState) : MState :=
  { m with cmd := m.cmd.map fun x =>
      if x.landed then x
      else { x with raced := x.raced ++ l.map fun w => (w.1, regRead k w.1 w.2.length, w.2) } }

/-- A mask write of a result is older than the V-stream's round, so that a discard of the round keeps it (12 R349; 16
R443). -/
def beforeRound (t : Ctx) (p : Pending) : Bool := inLastRound t .v && p.tag.round != (roundOf t .v).map (·.id)

/-- A result lands: registers, banks, masks, flags and queue pushes (06 R184, R185; 11 R323). -/
def applyPending (k : Core) (p : Pending) : Core :=
  let m := noteRaces k p.regs { k.ctx.m with written := cutWritten k.ctx.m.written p.regs }
  let k := bankWrites (regWrites k p.regs) p.banks
  let t := { k.ctx with m := m }
  let t := { t with
    k := maskWrites p.masks t.k
    spec := if beforeRound t p then { t.spec with snap := t.spec.snap.map fun n =>
      { n with k := maskWrites p.masks n.k } } else t.spec
    csr := { t.csr with vflags := t.csr.vflags ||| p.flags } }
  let t := modQ t fun q => { q with
    qs := p.qs.foldl (fun v e => vmod v e.1.val fun l => l ++ [⟨e.2, p.spec⟩]) q.qs
    qvs := q.qvs ++ p.qvs.map fun w => ⟨w, p.spec⟩
    qpa := q.qpa ++ p.qpa.map fun w => ⟨w, p.spec⟩ }
  { k with ctx := clearWaits t }

/-- A result placed by the cycle at which it lands; of two of one cycle the later-issued is the later (06 R185; entry
119). -/
def addPending (p : Pending) : List Pending → List Pending
  | [] => [p]
  | q :: r => if q.due ≤ p.due then q :: addPending p r else p :: q :: r

/-- Every V result due at the V-stream's cycle or before it lands; fuel bounds their number. -/
def landDue (k : Core) : (fuel : Nat) → Core
  | 0 => k
  | fuel + 1 =>
    match k.ctx.vpend with
    | [] => k
    | p :: r =>
      if p.due ≤ k.ctx.vcyc then landDue (applyPending { k with ctx := { k.ctx with vpend := r } } p) fuel else k

/-- The V-stream's cycle counter set, and every result that is due by then landed. -/
def vAdvance (k : Core) (cycle : Nat) : Core :=
  landDue { k with ctx := { k.ctx with vcyc := cycle } } k.ctx.vpend.length

/-- The V-stream has stalled while results are on their way (06 R185). -/
def vStalled (t : Ctx) : Ctx := if t.vpend.isEmpty then t else { t with vstall := t.vstall + 1 }

/-- The V-stream stalls up to a cycle. -/
def vStall (k : Core) (cycle : Nat) : Core :=
  if k.ctx.vcyc < cycle then vAdvance { k with ctx := vStalled k.ctx } cycle else vAdvance k k.ctx.vcyc

/-- The next V result lands, as after stalled cycles of the V-stream (06 R185). -/
def landNextV (k : Core) : Core :=
  match k.ctx.vpend with
  | [] => k
  | p :: _ => vStall k p.due

/-- Every V result lands (10 R275). -/
def landAllV (k : Core) : Core :=
  match k.ctx.vpend.getLast? with
  | none => k
  | some p => vStall k p.due

/-- The results of the oldest P-word land (18 R492). -/
def landNextP (k : Core) : Core :=
  match k.ctx.ppend with
  | [] => k
  | p :: r => applyPending { k with ctx := { k.ctx with ppend := r } } p

/-- Every P-word ends; n is their number. -/
def landAllP (k : Core) : (n : Nat) → Core
  | 0 => k
  | n + 1 => landAllP (landNextP k) n

/-! ### M-words -/

/-- The array mode of a fence mask: FULL 0, HALF-ROW 1, HALF-COL 2, QUARTER 3 (10 R302). -/
def arrayMode (fence : BitVec 4) : Nat :=
  let free (i : Nat) := !fence.getLsbD i
  if free 0 && free 1 && free 2 && free 3 then 0
  else if (free 0 && free 1) || (free 2 && free 3) then 1
  else if (free 0 && free 2) || (free 1 && free 3) then 2
  else 3

/-- The cycles that a tile command takes in a mode for each that it takes in FULL (17 R474). -/
def arrayFactor (fence : BitVec 4) : Nat :=
  match arrayMode fence with
  | 0 => 1
  | 1 => 2
  | 2 => 2
  | _ => 4

/-- What is left of n cycles that began at CYCLE since. -/
def cyclesLeft (s : State) (c : CoreId) (since : Word) (n : Nat) : Nat :=
  n - ((getCore s c).ctx.csr.cycle - since).toNat

/-- n cycles go by in which the V-stream stalls: results that are due by then land. -/
def landWithin (s : State) (c : CoreId) (n : Nat) : State :=
  modCore s c fun k => if k.ctx.vpend.isEmpty then k else vStall k (k.ctx.vcyc + n)

/-- The matrix state of a core's task changed. -/
def modM (k : Core) (f : MState → MState) : Core := { k with ctx := { k.ctx with m := f k.ctx.m } }

/-- A tile command enters the account of the self-tests (10 R301, R303). -/
def countTile (sti : BitVec 16) (c : TileCmd) (m : MState) : MState :=
  { m with
    sinceTest := m.sinceTest + 1
    ran := m.ran + 1
    testDue := m.testDue || m.sinceTest + 1 ≥ sti.toNat
    written := m.written ++ c.regs.map fun w => (w.1, w.2.length)
    sfirst := some (m.sfirst.getD (c.cidx, c.step))
    slast := some (c.cidx, c.step)
    again := if m.sfirst.isNone && c.rerun then some c else none }

/-! #### Races with V-words (17 R487) -/

/-- The elements of a write: the ACC96 elements of the accumulator region, and bytes elsewhere (DESIGN CHOICE 118). -/
def raceCells (w : Nat × List Byte) : List (Nat × List Byte) :=
  if w.1 < 0x400000 then
    (blocksOf 12 w.1 w.2.length).map fun i =>
      let lo := max w.1 (12 * i)
      (lo, (w.2.drop (lo - w.1)).take (12 * (i + 1) - lo))
  else w.2.zipIdx.map fun (b, i) => (w.1 + i, [b])

/-- The cells of register space that a V-word has written while the M-word x ran. -/
def racedAt (x : TileCmd) (w : Nat × List Byte) : Bool :=
  x.raced.any fun r => w.1 < r.1 + r.2.2.length && r.1 < w.1 + w.2.length

/-- What the M-word x may have read of core k: for each racing write and element, the value before it or after it; the
free values choose. -/
def racedReads (free : Nat) (x : TileCmd) (k : Core) : Core :=
  let k := x.raced.reverse.foldl (fun k r => regWrite k r.1 r.2.1) k
  x.raced.zipIdx.foldl (fun k (r, i) =>
    regWrites k ((raceCells (r.1, r.2.2)).filter fun e => Config.freeBool free (0x1000000 * (i + 1) + e.1))) k

/-- The M-word x as it ends: its writes formed from what it has read, without those in whose place a racing V-word's
stand; the free values choose. -/
def racedCmd (s : State) (k : Core) (x : TileCmd) : TileCmd :=
  if x.raced.isEmpty then x
  else
    let x := formWrites s (racedReads s.freeCtr x k) x
    { x with regs := x.regs.flatMap fun w => (raceCells w).filter fun e =>
        !(racedAt x e && Config.freeBool s.freeCtr e.1) }

/-- The row mask that an M-word x has read, if it reads one (17 R482). -/
def readRowMask (free : Nat) (x : TileCmd) (k : Core) (m : MState) : MState :=
  match x.work with
  | .rowMask a => { m with rm := ofBytes 192 (regRead (racedReads free x k) a 24) }
  | _ => m

/-- A rerun of x writes every element of its tile (10 R303). -/
def wholeRerun (x : TileCmd) (m : MState) : MState := { m with again := m.again.map fun a => { a with regs := x.regs } }

/-- The writes of the M-word x stand, its pins go, and it is counted. -/
def landTile (s : State) (c : CoreId) (x : TileCmd) : State :=
  let k := getCore s c
  let free := s.freeCtr
  let y := racedCmd s k x
  let s := modCore s c fun k => regWrites k y.regs
  let s := y.stage.foldl (fun s w => physWrite s w.1 w.2) s
  let s := if x.raced.isEmpty then s else { s with freeCtr := free + 1 }
  modCore s c fun u => modM u fun m =>
    let m := readRowMask free x k m
    let m := { m with pins := m.pins.filter fun p => !x.unpin.contains p }
    let m := { m with written := cutWritten m.written y.regs }
    if x.tile then wholeRerun x (countTile u.ctx.csr.sti y m) else m

/-- The M-word that runs ends: the cycles of its array are over (04 R112; 17 R474), its writes stand, its pins go, it is
counted, and its signal is given, which waits at 255 (17 R485). -/
def endTile (s : State) (c : CoreId) : State :=
  match (getCore s c).ctx.m.cmd with
  | none => s
  | some t =>
    let s := if t.landed then s
      else
        let n := cyclesLeft s c t.since t.array
        let s := landWithin (activeCycles s c n) c n
        landTile s c (((getCore s c).ctx.m.cmd).getD t)
    modCore s c fun k =>
      match t.token with
      | none =>
        let k := modM k fun m => { m with cmd := none }
        { k with ctx := clearWaits k.ctx }
      | some x =>
        match signalToken k.ctx x with
        | .ok u => modM { k with ctx := clearWaits u } fun m => { m with cmd := none }
        | _ => modM k fun m => { m with cmd := some { t with landed := true, reads := [], unpin := [], raced := [] } }

/-- A staging write of the running M-word waits for a pin (07 R219). -/
def stageBlocked (s : State) (t : TileCmd) : Bool :=
  t.stage.any fun w => (blocksOf 64 w.1 w.2.length).any (pinned s)

/-- The running M-word ends, if nothing holds back its writes. -/
def finishTile (s : State) (c : CoreId) : State :=
  match (getCore s c).ctx.m.cmd with
  | none => s
  | some t => if !t.landed && stageBlocked s t then s else endTile s c

/-! ### Self-tests (10 R301 to R304) -/

/-- A self-test may start: one is due, none runs, and no tile command runs. -/
def mayTest (k : Core) : Bool :=
  let m := k.ctx.m
  k.busy && live k.ctx .m && !m.testing && m.cmd.isNone && (!m.tested || m.testDue) && k.fence != 15

/-- A self-test starts. -/
def startTest (k : Core) : Core := if mayTest k then modM k fun m =>
  { m with testing := true, testAt := k.ctx.csr.cycle, testDue := false } else k

/-- The registers that a suspect tile command wrote hold values that the specification leaves open (10 R303). -/
def spoil (s : State) (c : CoreId) (l : List (Nat × Nat)) : State :=
  let k := getCore s c
  let k := l.foldl (fun k w => regWrite k w.1 ((List.range w.2).map fun i => Config.freeByte s.freeCtr (w.1 + i))) k
  { setCore s c k with freeCtr := s.freeCtr + 1 }

/-- Every line of the range p of a slice lies in a region of the pin table (17 R484). -/
def stillPinned (pins : List Pin) (p : Pin) : Bool :=
  (blocksOf 64 p.off p.len).all fun l => pins.any fun q =>
    q.slice == p.slice && q.off ≤ 64 * l + 63 && 64 * l < q.off + q.len

/-- The suspect command that the sequencer reruns: the only one, with ACC 0, its operand lines still pinned, and no
MNEST between its steps (10 R303; 17 R478, R484). -/
def rerunOf (m : MState) : Option TileCmd :=
  match m.again, m.nest with
  | some t, none => if t.reads.all (stillPinned m.pins) then some t else none
  | _, _ => none

/-- The state of the tests after a test: the count of STI begins again, and after a passed one so does that of the
suspect commands (10 R301, R303). -/
def testedState (passed : Bool) (m : MState) : MState :=
  let m := { m with testing := false, tested := true, sinceTest := 0 }
  if passed then { m with sfirst := none, slast := none, again := none, written := [] } else m

/-- The MTEST whose test is over, if any, has only its signal left, which waits at 255 as any other does (17 R485). -/
def endMtest (s : State) (c : CoreId) : State :=
  let m := (getCore s c).ctx.m
  if m.mtest.isNone then modCtx s c clearWaits
  else endTile (modCore s c fun k => modM k fun m =>
    { m with mtest := none, cmd := m.mtest.map fun x => { x with landed := true } }) c

/-- A self-test ends after 256 cycles, stalled ones where no stream issued (10 R301); failed names the sub-arrays that
failed. A failure fences them; with tile commands since the last passed test it also leaves an ARRAY-SUSPECT, after a
rerun in the new mode when the one suspect command and a sub-array that stands allow it (10 R302, R303). -/
def endTest (s : State) (c : CoreId) (failed : BitVec 4) : State :=
  let k := getCore s c
  let m := k.ctx.m
  if !m.testing then s
  else
    let n := cyclesLeft s c m.testAt 256
    let s := landWithin (stalledCycles s c n) c n
    let s := modCore s c fun k => { k with fence := k.fence ||| failed }
    match decide (failed = 0), m.sfirst, m.slast with
    | false, some (a, aStep), some (b, bStep) =>
      let again := if k.fence ||| failed = 15 then none else rerunOf m
      let rerun := again.isSome
      let s := match again with
        | some t =>
          let cycles := t.array / arrayFactor k.fence * arrayFactor (k.fence ||| failed)
          modCore (activeCycles s c cycles) c fun k => regWrites k t.regs
        | none => spoil s c m.written
      let info : TrapInfo :=
        { cause := .arraySuspect, source := 3, detail := 0, faddr := 0, status := 0, len := 0, fatal := false
          rerun := rerun, sfirst := BitVec.ofNat 32 a.toNat, slast := BitVec.ofNat 32 b.toNat, sfstep := aStep
          slstep := bStep }
      endMtest (modCore s c fun k => modM k fun m => { testedState false m with suspect := some info }) c
    | _, _, _ => endMtest (modCore s c fun k => modM k (testedState (decide (failed = 0)))) c

end Sys2Proof.Machine
end

