-- ==== Sys2Proof/Machine/Save.lean ====
section
/-!
DEFINITION. The save of a pre-empted task (10 R293 to R300): its save slot, what dump mode and yield mode write there,
the switch to the emergency area, and the task state that resumption takes up.
-/
namespace Sys2Proof.Machine

/-- The save slot of a task: the one that it holds, or the lowest free one of its context's area (10 R293). -/
def saveSlotOf (x : Context) (r : TaskRef) : Option Nat :=
  match x.slotsUsed.find? fun u => u.2 == r with
  | some u => some u.1
  | none => (List.range (x.slotsUsed.length + 1)).find? fun i =>
      i < x.saveSlots.toNat && !x.slotsUsed.any fun u => u.1 == i

/-- The address of slot i of a context's save area (10 R293). -/
def slotBase (x : Context) (i : Nat) : VAddr :=
  vaddr x.saveRegion.toNat (x.saveOff.toNat * 4096 + 0x800000 * i)

/-! ### What a save writes (10 R294, R295) -/

/-- A field of the fixed state of a save slot: where it lies, its bytes for a core, and the core that its bytes restore.
The places inside the areas of 10 R294 are the model's (DESIGN CHOICE 103). -/
structure SaveField where
  pos : Nat
  len : Nat
  get : Core → List Byte
  put : List Byte → Core → Core

/-- A field that holds a number of the task's registers. -/
def ctxField (pos len : Nat) (get : Ctx → Nat) (put : Nat → Ctx → Ctx) : SaveField :=
  ⟨pos, len, fun k => natToBytes len (get k.ctx), fun b k => { k with ctx := put (bytesToNat b) k.ctx }⟩

/-- A field that holds a number of the task's CSRs. -/
def csrField (pos len : Nat) (get : Csrs → Nat) (put : Nat → Csrs → Csrs) : SaveField :=
  ctxField pos len (fun t => get t.csr) fun n t => { t with csr := put n t.csr }

/-- A field that holds a list of up to n numbers of len bytes behind its length. -/
def listField (pos n len : Nat) (get : Ctx → List Nat) (put : List Nat → Ctx → Ctx) : SaveField :=
  ⟨pos, 8 + n * len,
    fun k => let l := get k.ctx
      natToBytes 8 l.length ++ (l.take n).flatMap (natToBytes len) ++ List.replicate ((n - l.length) * len) 0,
    fun b k => { k with ctx := put ((List.range (min n (bytesToNat (b.take 8)))).map fun i =>
      bytesToNat ((b.drop (8 + i * len)).take len)) k.ctx }⟩

/-- Entry of a queue with a number as value. -/
def plainEntry {w : Nat} (n : Nat) : QEntry (BitVec w) := ⟨BitVec.ofNat w n, false⟩
/-- Filled entries of a queue that loads fill, as numbers. -/
def slotNats (l : List LSlot) : List Nat := l.map fun e => (e.val.getD 0).toNat
/-- Entries of a queue as numbers. -/
def entryNats {w : Nat} (l : List (QEntry (BitVec w))) : List Nat := l.map fun e => e.val.toNat
/-- Filled entries with these values. -/
def natSlots (l : List Nat) : List LSlot := l.map fun n => fullSlot (BitVec.ofNat 2048 n) false

/-- An entry of the format queue as a number of 24 bytes. -/
def fmtNat (e : QEntry FmtEntry) : Nat :=
  match e.val with
  | .format w => w.toNat
  | .nest level a b => a.toNat + b.toNat * 2 ^ 64 + (level + 1) * 2 ^ 128
/-- The entry of the format queue that a number stands for. -/
def natFmt (n : Nat) : QEntry FmtEntry :=
  if n / 2 ^ 128 = 0 then ⟨.format (BitVec.ofNat 64 n), false⟩
  else ⟨.nest (n / 2 ^ 128 - 1) (BitVec.ofNat 64 n) (BitVec.ofNat 64 (n / 2 ^ 64)), false⟩

/-- A level of a nest table as a number. -/
def nestNat (l : NestLevel) : Nat := l.count.toNat + l.sa.toNat * 2 ^ 16 + l.sb.toNat * 2 ^ 48 + l.sc.toNat * 2 ^ 80
/-- The level of a nest table that a number stands for. -/
def natNest (n : Nat) : NestLevel :=
  ⟨BitVec.ofNat 16 n, BitVec.ofNat 32 (n / 2 ^ 16), BitVec.ofNat 32 (n / 2 ^ 48), BitVec.ofNat 32 (n / 2 ^ 80)⟩

/-- x, p, loop counters and S CSRs: slot offsets 0x400 to 0x7FF. -/
def scalarFields : List SaveField :=
  (List.range 64).map (fun i => ctxField (0x400 + 8 * i) 8 (fun t => (vget t.x i).toNat)
    fun n t => { t with x := vset t.x i (BitVec.ofNat 64 n) })
  ++ [ctxField 0x600 1 (fun t => t.pr.toNat) fun n t => { t with pr := BitVec.ofNat 8 n }]
  ++ (List.range 4).map (fun i => ctxField (0x608 + 4 * i) 4 (fun t => (vget t.lc i).toNat)
    fun n t => { t with lc := vset t.lc i (BitVec.ofNat 32 n) })
  ++ [csrField 0x620 8 (fun r => r.tvec.toNat) fun n r => { r with tvec := BitVec.ofNat 64 n },
    csrField 0x628 8 (fun r => r.tcause.toNat) fun n r => { r with tcause := BitVec.ofNat 64 n },
    csrField 0x630 1 (fun r => r.trecSlot.toNat) fun n r => { r with trecSlot := BitVec.ofNat 6 n },
    csrField 0x631 1 (fun r => r.act.toNat) fun n r => { r with act := BitVec.ofNat 2 n },
    csrField 0x632 1 (fun r => bitOf r.inHandler) fun n r => { r with inHandler := n != 0 },
    csrField 0x633 1 (fun r => bitOf r.dbLost) fun n r => { r with dbLost := n != 0 },
    csrField 0x634 1 (fun r => r.win) fun n r => { r with win := n },
    csrField 0x635 1 (fun r => bitOf r.nbv) fun n r => { r with nbv := n != 0 },
    csrField 0x638 8 (fun r => r.vwv.toNat) fun n r => { r with vwv := BitVec.ofNat 64 n },
    csrField 0x640 8 (fun r => r.vwt.toNat) fun n r => { r with vwt := BitVec.ofNat 64 n },
    csrField 0x648 8 (fun r => r.vwa.toNat) fun n r => { r with vwa := BitVec.ofNat 64 n },
    csrField 0x650 2 (fun r => r.vlc.toNat) fun n r => { r with vlc := BitVec.ofNat 12 n },
    csrField 0x652 1 (fun r => r.vflags.toNat) fun n r => { r with vflags := BitVec.ofNat 7 n },
    csrField 0x654 2 (fun r => r.sti.toNat) fun n r => { r with sti := BitVec.ofNat 16 n },
    csrField 0x658 8 (fun r => r.cycle.toNat) fun n r => { r with cycle := BitVec.ofNat 64 n },
    csrField 0x660 8 (fun r => r.stretch.toNat) fun n r => { r with stretch := BitVec.ofNat 64 n },
    csrField 0x668 4 (fun r => r.taskId.toNat) fun n r => { r with taskId := BitVec.ofNat 32 n },
    csrField 0x66C 1 (fun r => r.varidx.val) fun n r => { r with varidx := Fin.ofNat 4 n }]
  ++ (List.range 4).map fun i => csrField (0x670 + 8 * i) 8 (fun r => (vget r.specStop i).toNat)
    fun n r => { r with specStop := vset r.specStop i (BitVec.ofNat 33 n) }

/-- The account, the windows, the row mask, the nest tables and what the rings hold: slot offsets 0x800 to 0xFFF. -/
def taskFields : List SaveField :=
  [ctxField 0x800 32 (fun t => t.acct.work) fun n t => { t with acct := { t.acct with work := n } },
    ctxField 0x820 8 (fun t => t.acct.jmem.toNat) fun n t =>
      { t with acct := { t.acct with jmem := BitVec.ofNat 64 n } },
    ctxField 0x828 4 (fun t => t.acct.cal.toNat) fun n t => { t with acct := { t.acct with cal := BitVec.ofNat 32 n } },
    ctxField 0x830 24 (fun t => t.m.rm.toNat) fun n t => { t with m := { t.m with rm := BitVec.ofNat 192 n } },
    ctxField 0x848 1 (fun t => t.pmode.toNat) fun n t => { t with pmode := BitVec.ofNat 4 n }]
  ++ (List.range 12).map (fun i => ctxField (0x850 + 8 * i) 8
    (fun t => (vget (vget t.windows (i / 3)) (i % 3)).toNat)
    fun n t => { t with windows := vmod t.windows (i / 3) fun w => vset w (i % 3) (BitVec.ofNat 64 n) })
  ++ (List.range 6).map (fun i => ctxField (0x8C0 + 16 * i) 16 (fun t => nestNat (vget t.m.active i))
    fun n t => { t with m := { t.m with active := vset t.m.active i (natNest n) } })
  ++ (List.range 6).map (fun i => ctxField (0x920 + 16 * i) 16 (fun t => nestNat (vget t.m.shadow i))
    fun n t => { t with m := { t.m with shadow := vset t.m.shadow i (natNest n) } })
  ++ (List.range 32).map fun i =>
    ⟨0x980 + 32 * i, 32, fun k => natToBytes 32 (vget k.rings i).filled.toNat,
      fun b k => { k with rings := vmod k.rings i fun r => { r with filled := BitVec.ofNat 256 (bytesToNat b) } }⟩

/-- The steering queue as numbers: TAKEN, kind and target of each entry. -/
def steerNats (l : List SteerEntry) : List Nat :=
  l.map fun e => bitOf e.taken + e.kind.toNat * 2 ^ 8 + e.target.toNat * 2 ^ 64
/-- Steering entries with TAKEN, kind and target replaced. -/
def steerPut (l : List SteerEntry) (v : List Nat) : List SteerEntry :=
  v.zipIdx.map fun (n, i) =>
    { (l.getD i ⟨false, 0, 0, .plain⟩) with
      taken := n % 2 == 1, kind := BitVec.ofNat 4 (n / 2 ^ 8), target := BitVec.ofNat 64 (n / 2 ^ 64) }

/-- a0 to a31, k0 to k7, return stacks of 32 entries (06 R165), the steering queue, tokens, BBASE, relocation registers
and ring descriptors: slot offsets 0x1000 to 0x1FFF. -/
def accessFields : List SaveField :=
  (List.range 32).map (fun i => ctxField (0x1000 + 16 * i) 16 (fun t => (vget t.a i).toNat)
    fun n t => { t with a := vset t.a i (BitVec.ofNat 72 n) })
  ++ (List.range 8).map (fun i => ctxField (0x1200 + 32 * i) 32 (fun t => (vget t.k i).toNat)
    fun n t => { t with k := vset t.k i (BitVec.ofNat 256 n) })
  ++ allStreams.zipIdx.map (fun (st, i) => listField (0x1300 + 264 * i) 32 8
    (fun t => (getStream t st).ret.map fun w => w.toNat)
    fun l t => modStream t st fun x => { x with ret := l.map (BitVec.ofNat 64) })
  ++ [listField 0x1828 32 8 (fun t => match t.handling with | some h => h.ret.map fun w => w.toNat | none => [])
      fun l t => { t with handling := t.handling.map fun h => { h with ret := l.map (BitVec.ofNat 64) } },
    listField 0x1930 64 16 (fun t => steerNats t.steer) fun l t => { t with steer := steerPut t.steer l }]
  ++ (List.range 16).map (fun i => ctxField (0x1D40 + i) 1 (fun t => (vget t.tokens i).toNat)
    fun n t => { t with tokens := vset t.tokens i (BitVec.ofNat 8 n) })
  ++ [csrField 0x1D50 1 (fun r => r.bbase.toNat) fun n r => { r with bbase := BitVec.ofNat 4 n }]
  ++ (List.range 8).map (fun i => ctxField (0x1D58 + 9 * i) 9 (fun t => (vget t.rl i).toNat)
    fun n t => { t with rl := vset t.rl i (BitVec.ofNat 72 n) })
  ++ (List.range 32).map fun i =>
    ⟨0x1DA0 + 8 * i, 8, fun k => natToBytes 8 (vget k.rings i).desc.toNat,
      fun b k => { k with rings := vmod k.rings i fun r => { r with desc := BitVec.ofNat 64 (bytesToNat b) } }⟩

/-- The queues in the order of 06 R170, each behind its occupancy: slot offsets 0x2000 to 0x10FFF. -/
def queueFields : List SaveField :=
  let q (pos n len : Nat) (get : Queues → List Nat) (put : List Nat → Queues → Queues) :=
    listField pos n len (fun t => get t.q) fun l t => { t with q := put l t.q }
  (List.range 8).map (fun i => q (0x2000 + 4104 * i) 16 256 (fun x => slotNats (vget x.ql i))
    fun l x => { x with ql := vset x.ql i (natSlots l) })
  ++ (List.range 4).map (fun i => q (0xA040 + 4104 * i) 16 256 (fun x => entryNats (vget x.qs i))
    fun l x => { x with qs := vset x.qs i (l.map plainEntry) })
  ++ [q 0xE060 32 8 (fun x => slotNats x.qas) (fun l x => { x with qas := natSlots l }),
    q 0xE168 32 8 (fun x => entryNats x.qsa) (fun l x => { x with qsa := l.map plainEntry }),
    q 0xE270 16 8 (fun x => entryNats x.qvs) (fun l x => { x with qvs := l.map plainEntry }),
    q 0xE2F8 16 8 (fun x => entryNats x.qb) (fun l x => { x with qb := l.map plainEntry }),
    q 0xE380 32 24 (fun x => x.fmt.map fmtNat) (fun l x => { x with fmt := l.map natFmt }),
    q 0xE688 16 256 (fun x => slotNats x.qap) (fun l x => { x with qap := natSlots l }),
    q 0xF690 16 256 (fun x => entryNats x.qpa) (fun l x => { x with qpa := l.map plainEntry }),
    q 0x10698 32 4 (fun x => entryNats x.reply) (fun l x => { x with reply := l.map plainEntry }),
    q 0x10720 64 16 (fun x => entryNats x.events) (fun l x => { x with events := l.map plainEntry })]

/-- The fixed state of a slot behind its block map (10 R294). -/
def saveFields : List SaveField := scalarFields ++ taskFields ++ accessFields ++ queueFields

/-- The bytes of a core's fields, which are in ascending order, from slot offset pos on, with zeros between them. -/
def fieldBytes (k : Core) : (pos : Nat) → List SaveField → List Byte
  | _, [] => []
  | pos, f :: r => List.replicate (f.pos - pos) 0 ++ f.get k ++ fieldBytes k (f.pos + f.len) r

/-- A core with the fixed state that the bytes of a slot from offset 0 on hold. -/
def putFields (image : List Byte) (k : Core) : Core :=
  let a := image.toArray
  saveFields.foldl (fun k f => f.put (a.extract f.pos (f.pos + f.len)).toList k) k

/-- The block map: register space, scratchpad and banks, one bit for each block that is not fresh (10 R294). -/
def blockMap (k : Core) : List Byte :=
  natToBytes 768 ((~~~ k.freshRegs).toNat + (~~~ k.freshScratch).toNat * 2 ^ 4352 + (~~~ k.freshBanks).toNat * 2 ^ 5376)

/-- The 1 KiB blocks from lo to hi that are not fresh and lie in a dirty unit of 4 KiB, as writes at slot offset pos. -/
def dirtyBlocks {n m : Nat} (fresh : BitVec n) (dirty : BitVec m) (read : Nat → List Byte) (pos : Nat) :
    List (Nat × List Byte) :=
  (List.range n).filterMap fun b =>
    if fresh.getLsbD b || !dirty.getLsbD (b / 4) then none else some (pos + 1024 * b, read (1024 * b))

/-- The dirty bits of units of 4 KiB that hold a block which is not fresh. -/
def writtenUnits {n : Nat} (m : Nat) (fresh : BitVec n) : BitVec m :=
  setBits 0 ((List.range m).filter fun u => (List.range 4).any fun i => !fresh.getLsbD (4 * u + i))

/-- The progress record of a withdrawn job: its number, the bytes it has moved, its next chunk and its job card's
address (10 R300; DESIGN CHOICE 103 for the layout). -/
def progressRecord (j : Job) : List Byte :=
  natToBytes 8 j.num ++ natToBytes 8 j.moved ++ natToBytes 8 j.row ++ natToBytes 8 j.col ++ natToBytes 16 j.cardVa.toNat
    ++ List.replicate 16 0

/-- The fixed state: slot offsets 0x100 to 0x1FFFF; the progress records of jobs begin at 0x11000 (10 R294, R300). -/
def fixedChunks (k : Core) (jobs : List Job) : List (Nat × List Byte) :=
  let fields := fieldBytes k 0x400 saveFields
  let progress := (jobs.flatMap progressRecord).take 0xF000
  [(0x100, blockMap k), (0x400, fields ++ List.replicate (0x11000 - 0x400 - fields.length) 0),
    (0x11000, progress ++ List.replicate (0xF000 - progress.length) 0)]

/-- What dump mode writes after the fixed state (10 R295). -/
def blockChunks (s : State) (c : CoreId) : List (Nat × List Byte) :=
  let k := getCore s c
  dirtyBlocks k.freshRegs k.dirtyRegs (fun o => regRead k o 1024) 0x20000
    ++ dirtyBlocks k.freshScratch k.dirtyScratch (fun o =>
      physRead s (scratchBase + c.val * 0x100000 + o) 1024) 0x460000
    ++ dirtyBlocks k.freshBanks (BitVec.allOnes 16) (fun o => bankRead k o 1024) 0x560000
    ++ [(0x570000, memReadN k.ctx.slm 0 0x4000)]

/-- Bytes of one chunk cut at page boundaries of the slot. -/
def cutChunk (off : Nat) (data : List Byte) : List (Nat × List Byte) :=
  (blocksOf 4096 off data.length).map fun p =>
    let lo := max off (4096 * p)
    (lo, (data.drop (lo - off)).take (4096 * (p + 1) - lo))

/-- The progress of a save: whether it still writes the slot, where it switched, whether the emergency area was missing,
and what went there, as slot offset and length. -/
structure SaveIo where
  base    : Option VAddr
  switch  : Option Nat
  missing : Bool
  pieces  : List (Nat × Nat)

/-- Whose accesses the firmware of core c makes for a task in a context (10 R293). -/
def saveAgent (s : State) (c : CoreId) (asid : BitVec 16) (x : ContextId) : Acc0 :=
  ⟨agentOf c, asid, c.val, (getContext s x.val).func⟩

/-- One piece of a save is written to the slot, or from the first fault on to the emergency area; a fault on the header
page switches at 0 (10 R294, R298). Its external transactions are charged to nobody (DESIGN CHOICE 98). -/
def savePiece (c : CoreId) (acc : SaveIo × State) (w : Nat × List Byte) : SaveIo × State :=
  let (io, s) := acc
  let emergency (io : SaveIo) (s : State) : SaveIo × State :=
    let k := getCore s c
    if !k.emValid then ({ io with missing := true }, s)
    else
      let s := physWrite s (k.emBase.toNat * 2 ^ 23 + w.1) w.2
      ({ io with pieces := io.pieces ++ [(w.1, w.2.length)] }, modCore s c fun k => { k with emBusy := true })
  match io.base, io.switch with
  | some b, none =>
    let t := (getCore s c).ctx
    match engStore s EngIo.none (saveAgent s c t.asid t.context) c false (vaddr (region b) (offset b + w.1)) w.2 with
    | .ok _ _ s => (io, s)
    | _ => emergency { io with switch := some (if w.1 < 0x1000 then 0 else w.1) } s
  | _, _ => emergency { io with switch := some (io.switch.getD 0) } s

/-- The pieces of a save written in ascending slot offset. -/
def saveChunks (s : State) (c : CoreId) (io : SaveIo) (l : List (Nat × List Byte)) : SaveIo × State :=
  (l.flatMap fun w => cutChunk w.1 w.2).foldl (savePiece c) (io, s)

/-! ### The saved task -/

/-- The state of the task on core c that a save keeps. -/
def snapshotTask (s : State) (c : CoreId) (mode : SaveMode) (base : Option VAddr) : SavedTask :=
  let k := getCore s c
  { ref := k.ctx.task, ctx := k.ctx, rings := k.rings, mode := mode, base := base, switchAt := none, emCore := none
    emPieces := [], jobs := [], hold := 0, island := islandOf c }

/-- The task keeps slot i until it ends (10 R293). -/
def holdSlot (s : State) (t : Ctx) (i : Option Nat) : State :=
  match i with
  | none => s
  | some i =>
    let s := modContext s t.context.val fun x =>
      if x.slotsUsed.any fun u => u.2 == t.task then x else { x with slotsUsed := x.slotsUsed ++ [(i, t.task)] }
    modKernel s (BitVec.ofNat 32 t.task.kernel) fun k =>
      { k with live := k.live.map fun l => if l.task == t.task.task then { l with saveSlot := some i } else l }

/-- A pre-emption withdraws the job: it has not started, is a copy or gather job with more than 64 KiB left, or waits
for its match (10 R300). -/
def withdrawable (j : Job) : Bool :=
  match j.phase with
  | .waiting => true
  | .running => if cardField j.card 0 1 = 3 then !j.matched else bytesLeft j > 65536
  | .stalled => if cardField j.card 0 1 = 3 then !j.matched else bytesLeft j > 65536
  | _ => false

/-- The job is not over when a pre-emption would capture its task: it runs to completion first, or it is to be withdrawn
with writes that the peer has not acknowledged (08 R239; 10 R300). The record of a job that is done is no such thing
while the stopped task's event queue has no room for it: it is posted after the resumption (06 R171). -/
def holdsCapture (t : Ctx) (j : Job) : Bool :=
  !j.io.out.isEmpty || match j.phase with
    | .withdrawn => false
    | .running => !withdrawable j || inChunk j
    | .done => t.q.events.length < depth64 && !(j.kept && inSequence t)
    | _ => !withdrawable j

/-! ### What a resumption reads back (10 R298, R299) -/

/-- Pieces of a slot, none of which crosses a page, as resumption reads them; none while a page of it cannot be read. -/
def readSlot (w : Acc0) (base : VAddr) : List (Nat × Nat) → State → Option (List Byte × State)
  | [], s => some ([], s)
  | (off, n) :: r, s =>
    match engLoad s EngIo.none w (vaddr (region base) (offset base + off)) n with
    | .ok b _ s => (readSlot w base r s).map fun (l, s) => (b ++ l, s)
    | _ => none

/-- n bytes of a slot from offset off, cut at its pages. -/
def slotPieces (off n : Nat) : List (Nat × Nat) :=
  (blocksOf 4096 off n).map fun p => (max off (4096 * p), min (off + n) (4096 * (p + 1)) - max off (4096 * p))

/-- The blocks of a memory whose bits of the map are set, read from slot offset pos on. -/
def readBlocks {n : Nat} (w : Acc0) (base : VAddr) (pos : Nat) (fresh : BitVec n) (s : State) :
    Option (Memory × State) :=
  (List.range n).foldl (fun acc b => acc.bind fun (m, s) =>
    if fresh.getLsbD b then some (m, s)
    else (readSlot w base [(pos + 1024 * b, 1024)] s).map fun (d, s) => (memWriteN m (1024 * b) d, s)) (some ([], s))

/-- Core c with the fixed state that a slot holds (10 R296, R299). -/
def restoreFixed (s : State) (c : CoreId) (v : SavedTask) : Option (Core × List Byte × State) :=
  v.base.bind fun base =>
    (readSlot (saveAgent s c v.ctx.asid v.ctx.context) base (slotPieces 0 0x20000) s).map fun (image, s) =>
      (putFields image { getCore s c with ctx := v.ctx, rings := v.rings }, image, s)

/-- Core c, with the fixed state of k, gets register space, scratchpad, banks and scalar local memory from the slot at
base, the blocks fresh whose bit of the block map is 0 (10 R294, R299). -/
def restoreBlocks (w : Acc0) (base : VAddr) (c : CoreId) (map : Nat) (k : Core) (s : State) : Option State :=
  let freshRegs := ~~~ BitVec.ofNat 4352 map
  let freshScratch := ~~~ BitVec.ofNat 1024 (map / 2 ^ 4352)
  let freshBanks := ~~~ BitVec.ofNat 64 (map / 2 ^ 5376)
  let at_ := scratchBase + c.val * 0x100000
  (readBlocks w base 0x20000 freshRegs s).bind fun (regs, s) =>
  (readBlocks w base 0x460000 freshScratch s).bind fun (scratch, s) =>
  (readBlocks w base 0x560000 freshBanks s).bind fun (banks, s) =>
  (readSlot w base (slotPieces 0x570000 0x4000) s).map fun (slm, s) =>
    let mem := memPlace (memClear s.mem at_ (at_ + 0x100000)) at_ scratch
    modCore { s with mem := mem } c fun old => { old with
      ctx := { k.ctx with slm := memWriteN [] 0 slm }, rings := k.rings, regs := regs, banks := banks
      freshRegs := freshRegs, freshScratch := freshScratch, freshBanks := freshBanks }

/-- The slot of a saved task is read back to core c (10 R299): its fixed state, and register space, scratchpad, banks
and scalar local memory. -/
def restoreSlot (s : State) (c : CoreId) (v : SavedTask) : Option State :=
  v.base.bind fun base => (restoreFixed s c v).bind fun (k, image, s) =>
    restoreBlocks (saveAgent s c v.ctx.asid v.ctx.context) base c (bytesToNat ((image.drop 0x100).take 768)) k s

/-- The dispatch complex copies what the emergency area of core c holds of a saved task into the task's slot, which it
gives the task now if it has none; none while the slot cannot take it (10 R298). -/
def copyEmergency (s : State) (c : Fin 64) (v : SavedTask) : Option State :=
  let slot := saveSlotOf (getContext s v.ctx.context.val) v.ref
  slot.bind fun i =>
    let base := slotBase (getContext s v.ctx.context.val) i
    let w : Acc0 := { saveAgent s 64 v.ctx.asid v.ctx.context with home := c.val }
    let from_ := (getCore s (tile c)).emBase.toNat * 2 ^ 23
    let s := holdSlot s v.ctx (some i)
    let done : Option State := v.emPieces.foldl (fun acc p => acc.bind fun s =>
      let piece := physRead s (from_ + p.1) p.2
      match engStore s EngIo.none w (tile c) false (vaddr (region base) (offset base + p.1)) piece with
      | .ok _ _ s => some s
      | _ => none) (some s)
    done.map fun s => { s with disp := { s.disp with saved := s.disp.saved.map fun u =>
      if u.ref == v.ref then { u with base := some base, emCore := none, emPieces := [] } else u } }

/-- The emergency area of core c is cleared of what it holds of a save (10 R298): the write of BUSY that does so. -/
def clearEmergency (s : State) (c : Fin 64) : State :=
  let done := match s.disp.saved.find? fun v => v.emCore == some c with
    | some v => copyEmergency s c v
    | none => some s
  match done with
  | some s => modCore s (tile c) fun k => { k with emBusy := false }
  | none => s

/-- The jobs of a task that a pre-emption withdraws leave the dispatch order; their numbers are kept for resumption. -/
def withdrawJobs (s : State) (r : TaskRef) : State × List Nat :=
  let out := (jobsOf s r).filter withdrawable
  (out.foldl (fun s j =>
    let s := setJob s { j with phase := .withdrawn, engine := 0, replay := none }
    { s with disp := { s.disp with order := s.disp.order.filter fun e => e != (true, j.num) } }) s, 
    out.map fun j => j.num)

end Sys2Proof.Machine
end

