-- ==== Sys2Proof/Machine/Ops.lean ====
section
/-!
DEFINITION. Taking a trap, as one shared operation: stopping, draining, the trap record, and where it goes (10 R272 to
R300); the return from the handler (10 R286); the discard and the closing of a speculative round (12 R345 to R349); and
the words' common frame: how a word retires, waits or traps.
-/
namespace Sys2Proof.Machine

/-! ### Append windows and speculation (12 R345 to R349) -/

/-- Window w is enabled. -/
def winEn (w : Vector Word 3) : Bool := bit w[1].toNat 11
/-- The window's OFF. -/
def winOff (w : Vector Word 3) : Nat := bits w[2].toNat 47 32
/-- The window's committed length. -/
def winClen (w : Vector Word 3) : Nat := bits w[2].toNat 31 0
/-- The window's bytes per iteration. -/
def winStride (w : Vector Word 3) : Nat := bits w[1].toNat 31 16
/-- The window with CLEN and OFF set. -/
def winSet (w : Vector Word 3) (clen off : Nat) : Vector Word 3 :=
  w.set 2 (BitVec.ofNat 64 (clen % 2 ^ 32 + off % 2 ^ 16 * 2 ^ 32))

/-- Every window's OFF becomes 0 (12 R347, R349). -/
def clearOffs (t : Ctx) : Ctx := { t with windows := t.windows.map fun w => winSet w (winClen w) 0 }

/-- A commit of iterations 0 to l advances every enabled window with OFF > 0 (12 R347). -/
def commitWindows (t : Ctx) (l : Nat) : Ctx :=
  { t with windows := t.windows.map fun w =>
      if winEn w && winOff w > 0 then winSet w (winClen w + (l + 1) * winStride w) 0 else w }

/-- The widest scope of the releases that a commit makes, none when no window advances (12 R347). -/
def commitScope (t : Ctx) : Option Nat :=
  t.windows.toList.foldl (fun m w => if winEn w && winOff w > 0
    then some (max (m.getD 0) (bits w[1].toNat 10 8)) else m) none

/-- The base address of a window. -/
def winBase (w : Vector Word 3) : VAddr := vaddr (bits w[1].toNat 7 0) w[0].toNat

/-- The bytes of the windows of core c up to their committed lengths are ordered by the commit that advanced them
(08 R240, R241). -/
def orderWindows (s : State) (c : CoreId) : State :=
  let t := (getCore s c).ctx
  t.windows.toList.foldl (fun s w => if winEn w then commitLoose s t.asid (winBase w) (winClen w) else s) s

/-- The A-stream of core c applies a commit or an abort (12 R347). -/
def applyClosing (s : State) (c : CoreId) (x : Closing) : State :=
  if x.applied then s
  else if x.commit then
    let s := orderWindows (modCtx s c fun t => commitWindows t x.l) c
    coreJournal s c x.round.journal.toNat ⟨0, 3, bitOf x.stop, x.l, 0, 0, x.round.n + 1⟩
  else
    let s := modCtx s c clearOffs
    coreJournal s c x.round.journal.toNat ⟨0, 4, 0, 0, 0, 0, 0⟩

/-- The release that a commit makes at the scopes of the windows it advances has nothing left to wait for, or waits for
a write that the bridge has lost (08 R241; 12 R347; 02 R61). -/
def closingReady (s : State) (c : CoreId) (x : Closing) : Bool :=
  x.applied || !x.commit || match commitScope (getCore s c).ctx with
    | some sc => releaseReady s c sc || (lostWrite s c sc).isSome
    | none => true

/-- A drain applies, in order, the commits and aborts that the A-stream has not reached, each commit after its release
(12 R347). -/
def drainClosings (s : State) (c : CoreId) : State :=
  (List.range (getCore s c).ctx.spec.closings.length).foldl (fun s i =>
    let l := (getCore s c).ctx.spec.closings
    match l[i]? with
    | some x =>
      if (l.take i).all (·.applied) && closingReady s c x then
        modCtx (applyClosing s c x) c fun t =>
          { t with spec := { t.spec with closings := listMod l i fun x => { x with applied := true } } }
      else s
    | none => s) s

/-- Queue entries that words in speculative mode pushed are removed (12 R349). -/
def dropSpecEntries (q : Queues) : Queues :=
  let keep {α : Type} (l : List (QEntry α)) := l.filter fun e => !e.spec
  let slots (l : List LSlot) := l.filter fun e => !e.spec
  { ql := q.ql.map slots, qap := slots q.qap, qas := slots q.qas, qs := q.qs.map keep, qsa := keep q.qsa
    qvs := keep q.qvs, qb := keep q.qb, fmt := keep q.fmt, qpa := keep q.qpa, reply := keep q.reply
    events := keep q.events }

/-- The entry of the CALL that begins this round. -/
def entersRound (r : Round) (e : SteerEntry) : Bool :=
  match e.mark with
  | .enter q => q.id == r.id
  | _ => false

/-- A stop in speculative mode discards the S-stream's round (12 R349); the M-stream's word in it that has only its signal
left goes with it, since the rerun gives the signal again (17 R488). -/
def discardRound (s : State) (c : CoreId) : State :=
  let t := (getCore s c).ctx
  match t.spec.snap, roundOf t .s with
  | some p, some r =>
    let popped := [Stream.a, .v, .m, .p].any fun st => inLastRound t st
    let callAt := (t.steer.findIdx? (entersRound r)).getD (if popped then 0 else t.steer.length)
    let streams := Vector.ofFn fun i =>
      let st := streamOf i.val
      let x := getStream t st
      if inLastRound t st then { x with pc := p.pc, ret := p.ret.get i, ended := false, popped := min x.popped callAt }
      else x
    let t' := { t with
      streams := streams
      steer := t.steer.take callAt
      x := p.x
      pr := p.pr
      lc := p.lc
      a := if inLastRound t .a then p.a else t.a
      aBusy := if inLastRound t .a then [] else t.aBusy
      k := if inLastRound t .v then p.k else t.k
      q := dropSpecEntries t.q
      tokens := Vector.replicate 16 0
      m := if inLastRound t .m then { t.m with nest := none, cmd := t.m.cmd.filter fun x => x.round != some r.id } else t.m
      spec := { t.spec with
        rounds := t.spec.rounds.map fun x => x.bind fun q => if q.id = r.id then none else some q
        snap := none
        arm := .plain }
      ahead := [] }
    let s := setCore s c { getCore s c with ctx := clearOffs t' }
    coreJournal s c r.journal.toNat ⟨0, 4, 0, 0, 0, 0, 0⟩
  | _, _ => s

/-! ### Stopping and draining (10 R274, R275) -/

/-- The class of a stop that leaves the task on its core: a user cause (10 R273). -/
def userStop (i : TrapInfo) : Bool := !i.fatal && i.cause != .preempt && i.cause != .cancel

/-- The pieces of the loads that have not returned. -/
def loadPieces (t : Ctx) : Nat := (t.aq.loads.map fun l => max 1 l.parts.length).sum

/-- No MARK, REL or atomic is left in the store queue. -/
def wordsDone (t : Ctx) : Bool := t.aq.stores.all fun e => match e with
  | .write _ => true
  | _ => false

/-- The A-stream's accesses that can be performed now are performed, the last issued first, as often as there are
accesses: those that wait for each other take several rounds. Stores are performed as far as something waits for them.
-/
def drainAccesses (c : CoreId) (all : Bool) : (fuel : Nat) → State → State
  | 0, s => s
  | fuel + 1, s =>
    let t (s : State) := (getCore s c).ctx
    let s := (List.range (loadPieces (t s))).reverse.foldl (fun s k => performLoad s c k) s
    let s := performAtomic fadd32 s c
    let s := if all || !(t s).aq.loads.isEmpty || !wordsDone (t s) then
      (List.range ((t s).aq.inflight.length + (headPieces (t s)).length)).reverse.foldl (fun s k =>
        performStore s c k) s
      else s
    drainAccesses c all fuel (drainStores s c)

/-- A WAITA or SCDEC.WAIT of core c that has passed its wait completes (09 R271). -/
def finishWaits (s : State) (c : CoreId) : State :=
  modCtx s c fun t =>
    let past (t : Ctx) (d : Fin 32) (v : Nat) : Ctx :=
      modStream (aSet64 t d v) .a fun x => { x with pc := x.pc + 4, cidx := x.cidx + 1 }
    match t.aq.waita, t.aq.scWait with
    | .woken d, _ => past { t with aq := { t.aq with waita := .none } } d 1
    | .answered d n, _ => past { t with aq := { t.aq with waita := .none } } d n
    | _, .ended d n => past { t with aq := { t.aq with scWait := .none } } d n
    | _, _ => t

/-- The drain of 10 R275 as far as it can go now. all tells that every store is performed (PREEMPT, CANCEL, fatal). -/
def drain (s : State) (c : CoreId) (all : Bool) : State :=
  let s := finishWaits s c
  let t := (getCore s c).ctx
  let all := all || !(samplesOf s t.task).isEmpty || t.spec.closings.any fun x => x.commit && !x.applied
  let s := drainAccesses c all (loadPieces t + 2 * t.aq.stores.length + t.aq.inflight.length + 1) s
  let s := modCore s c landAllV
  let s := modCore s c fun k => landAllP k k.ctx.ppend.length
  let s := finishTile s c
  let draws := (samplesOf s (getCore s c).ctx.task).foldl (fun n r =>
    n + ((sampleDesc r.desc).draws (r.specN.getD 0 + 1)).length - r.drawn) 0
  let s := (List.range draws).foldl (fun s _ =>
    (samplesOf s (getCore s c).ctx.task).foldl (fun s r => sampleStep s r.num) s) s
  drainClosings s c

/-- A user trap that no handler takes: without TVEC.EN, or in a handler (10 R285). -/
def becomesFatal (t : Ctx) : Bool := !t.csr.tvec.getLsbD 0 || t.csr.inHandler

/-- The save sequence of a yield runs. -/
def savingYield (t : Ctx) : Bool :=
  match t.yieldPhase with
  | .saving _ _ => true
  | _ => false

/-- A fault of a save sequence, after which the pre-emption goes on in dump mode (10 R297). -/
def failsSave (t : Ctx) (i : TrapInfo) : Bool := userStop i && savingYield t

/-- Whether a stop will end or save the task, so that every store is performed before its capture (10 R275, R297). -/
def leavesCore (t : Ctx) (i : TrapInfo) : Bool := !userStop i || becomesFatal t || savingYield t

/-- The drain of core c is over (08 R227, R239; 10 R275, R297, R300). A draw whose reply finds the queue full is held by
its engine and not waited for (06 R171; DESIGN CHOICE 85). -/
def drained (s : State) (c : CoreId) (i : TrapInfo) : Bool :=
  let t := (getCore s c).ctx
  readsDone s c && wordsDone t && t.vpend.isEmpty && t.ppend.isEmpty
    && (replyFull t || (samplesOf s t.task).isEmpty)
    && (match t.m.cmd with | some x => x.landed | none => true) && !(t.m.testing && t.m.mtest.isSome)
    && t.spec.closings.all (·.applied)
    && (!leavesCore t i || (t.aq.stores.isEmpty && t.aq.inflight.isEmpty))
    && (!(i.cause == .preempt || failsSave t i) || (jobsOf s t.task).all fun j => !holdsCapture t j)

/-! ### The trap record (10 R277, R278) -/

/-- A number put into a record for each stream, 8 bytes each. -/
def recStreams (l : List Byte) (at_ : Nat) (f : Stream → Word) : List Byte :=
  allStreams.zipIdx.foldl (fun l (st, i) => recPut l (at_ + 8 * i) 8 (f st).toNat) l

/-- The M-word that waits to give its signal (17 R485). -/
def waitingSignal (t : Ctx) : Option TileCmd := t.m.cmd.filter (·.landed)

/-- The resume PC of a stream: for the M-stream, that of a word whose signal waits at 255 (17 R488); in a handler, for
the S-stream, the handler's (10 R274, R276). -/
def resumePc (t : Ctx) (st : Stream) : Word :=
  match st, waitingSignal t with
  | .m, some x => x.pc
  | _, _ => if (getStream t st).enabled then (getStream t st).pc else 0

/-- The command index of the word at the resume PC (10 R277, R278). -/
def resumeIndex (t : Ctx) (st : Stream) : Word :=
  match st, waitingSignal t with
  | .m, some x => x.cidx
  | _, _ => if (getStream t st).enabled then (getStream t st).cidx else 0

/-- The TAKEN bits of the held steering entries, oldest first. -/
def takenBits (l : List SteerEntry) : Nat := l.reverse.foldl (fun n e => 2 * n + bitOf e.taken) 0

/-- The trap record of core c for a stop. flags holds bits 1 to 5 of FLAGS. -/
def taskRecord (s : State) (c : CoreId) (i : TrapInfo) (seq : BitVec 32) (flags switch : Nat) : List Byte :=
  let t := (getCore s c).ctx
  let l := recPut recEmpty 0 4 seq.toNat
  let l := recPut l 4 2 i.cause.code
  let l := recPut l 6 1 i.source
  let l := recPut l 7 1 (bitOf i.fatal + flags + 16 * bitOf i.rerun)
  let l := recPut l 8 4 t.csr.taskId.toNat
  let l := recPut l 12 2 t.asid.toNat
  let l := recPut l 14 1 (recordAgent (agentOf c))
  let l := recPut l 15 1 i.detail
  let l := recPut l 16 8 (offset i.faddr)
  let l := recPut l 24 1 (region i.faddr)
  let l := recPut l 28 4 i.status.toNat
  let l := recStreams l 32 (resumePc t)
  let l := recStreams l 72 (resumeIndex t)
  let l := recPut l 112 8 (takenBits t.steer)
  let l := recPut l 120 1 t.steer.length
  let l := [Stream.a, .v, .m, .p].zipIdx.foldl (fun l (st, n) => recPut l (121 + n) 1 (getStream t st).popped) l
  let l := match t.m.nest with
    | some n => recPut ((List.range 6).foldl (fun l j => recPut l (128 + 2 * j) 2 (vget n.counters j).toNat) l) 140 1 1
    | none => l
  let l := recPut l 144 8 t.csr.cycle.toNat
  let l := recPut l 168 4 i.sfirst.toNat
  let l := recPut l 172 4 i.slast.toNat
  let l := recPut l 176 8 switch
  let l := recPut l 184 4 (if i.cause = .arraySuspect then i.sfstep.toNat else 0)
  recPut l 188 4 (if i.cause = .arraySuspect then i.slstep.toNat else 0)

/-- A fatal or control record enters the trap queue, or is latched in its core when the queue is full (10 R287,
R290). -/
def postRecord (s : State) (c : CoreId) (r : BitVec 2048) : State :=
  if s.trapq.length < 256 then { s with trapq := s.trapq ++ [r] }
  else modCore s c fun k => { k with latched := some r, blocked := true }

/-! ### Where a trap goes (10 R273, R283 to R285) -/

/-- The handler starts (10 R283, R284): the record at TREC, TCAUSE, and the S-stream at TVEC.PC. -/
def startHandler (s : State) (c : CoreId) (i : TrapInfo) (spec : Bool) : State :=
  let (n, s) := takeSeq s
  let l := taskRecord s c i n (4 * bitOf spec) 0
  let s := modCore s c fun k => if k.preempt then
    { k with preempt := false, stop := some ⟨taskCause .preempt 0 false⟩ } else k
  modCtx s c fun t =>
    let x := getStream t .s
    let t := { t with
      slm := memWriteN t.slm (256 * t.csr.trecSlot.toNat) l
      handling := some ⟨i, x.pc, x.ended, spec, x.ret⟩
      csr := { t.csr with
        tcause := BitVec.ofNat 64 (i.cause.code + i.source * 2 ^ 8 + i.detail * 2 ^ 16)
        inHandler := true } }
    clearWaits (modStream t .s fun x => { x with pc := t.csr.tvec &&& ~~~ 3, ended := false, ret := [] })

/-- A dispatch core trapped: the device halts, or Bronze takes over (03 R93; 05 R156). The events DISPATCH_HALT and
TAKEOVER do the rest. A trap of the standby leaves it no longer ready. -/
def dispatchTrap (s : State) (c : CoreId) (i : TrapInfo) : State :=
  let (n, s) := takeSeq s
  let s := postRecord s c (ofBytes 2048 (taskRecord s c i n 0 0))
  let s := if c.val == 64 + bitOf s.disp.primary then s else { s with disp := { s.disp with standbyOk := false } }
  modCore s c fun k => { k with busy := false, stop := some ⟨i⟩ }

/-- The task on core c ends on a fatal stop or on CANCEL (10 R273, R283, R290; 05 R150). -/
def endStopped (s : State) (c : CoreId) (i : TrapInfo) (spec : Bool) : State :=
  let t := (getCore s c).ctx
  let (n, s) := takeSeq s
  let nested := i.fatal && t.csr.inHandler && !(i.cause == .eccFatal || i.cause == .watchdog)
  let s := postRecord s c (ofBytes 2048 (taskRecord s c i n (4 * bitOf spec + 32 * bitOf nested) 0))
  let s := cancelJobs { s with yields := s.yields.filter fun v => v.ref != t.task } t.task
  let s := if i.fatal then failKernel s (BitVec.ofNat 32 t.task.kernel) (if i.cause = .watchdog then 11 else 4) else s
  endTask s c false

/-- The record of a pre-emption is written at slot offset 0 and posted (10 R295, R296, R298): the progress of the save,
and the state after. A record that finds the header page lost goes to the emergency area, and says so. -/
def finishSave (s : State) (c : CoreId) (io : SaveIo) (i : TrapInfo) (spec : Bool) : SaveIo × State :=
  let (n, s) := takeSeq s
  let record (switch : Option Nat) : List Byte :=
    taskRecord s c i n (4 * bitOf spec + 8 * bitOf switch.isSome) (switch.getD 0)
  let put (switch : Option Nat) : SaveIo × State × List Byte :=
    let (io, u) := savePiece c ({ io with switch := switch }, s) (0, record io.switch)
    (io, u, record io.switch)
  let first := if io.switch = some 0 then put (some 0) else put none
  if io.switch != some 0 && first.1.switch == some 0 then
    let lost := record (some 0)
    let (io, s) := savePiece c ({ io with switch := some 0 }, s) (0, lost)
    (io, postRecord s c (ofBytes 2048 lost))
  else ({ first.1 with switch := io.switch }, postRecord first.2.1 c (ofBytes 2048 first.2.2))

/-- The task that core c saved leaves the core (10 R299). -/
def leaveSaved (s : State) (c : CoreId) (v : SavedTask) : State :=
  let s := vacate (queueSettle (withdrawWaits s c) c false) c
  let s := { s with disp := { s.disp with saved := s.disp.saved ++ [{ v with island := islandOf c }] } }
  modKernel s (BitVec.ofNat 32 v.ref.kernel) fun k =>
    { k with live := k.live.map fun l => if l.task == v.ref.task then { l with place := .saved } else l }

/-- What a save keeps of the task: waits withdrawn, the unanswered record dropped, and any snapshot of a yield in place
of the state of its save sequence (10 R276, R297). -/
def savedState (s : State) (v : SavedTask) : SavedTask :=
  match s.yields.find? fun y => y.ref == v.ref with
  | some y => { v with ctx := { y.ctx with acct := v.ctx.acct, yieldPhase := .none }, rings := y.rings }
  | none =>
    let t := v.ctx
    { v with ctx := clearWaits { t with
        aq := { t.aq with waita := .none, scWait := .none, replay := none, ask := [], now := [] }, yieldPhase := .none } }

/-- A dump-mode pre-emption (10 R295, R298). A save that needs the emergency area while it is not valid ends the task
with a fatal ACCESS, DETAIL 4. -/
def dumpTask (s : State) (c : CoreId) (i : TrapInfo) (spec : Bool) : State :=
  let t := (getCore s c).ctx
  let x := getContext s t.context.val
  let slot := saveSlotOf x t.task
  let base := slot.map (slotBase x)
  let s := holdSlot s t slot
  let v := savedState s (snapshotTask s c (if i.detail = 2 then .fellBack else .dump) base)
  let fixed := fixedChunks { getCore s c with ctx := v.ctx, rings := v.rings } ((jobsOf s t.task).filter withdrawable)
  let (io, s) := saveChunks s c ⟨base, if base.isNone then some 0 else none, false, []⟩ (fixed ++ blockChunks s c)
  let s := modCtx s c fun t => { t with streams := v.ctx.streams, steer := v.ctx.steer }
  let (io, u) := finishSave s c io i spec
  if io.missing then
    endStopped s c (taskCause .access 4 true) spec
  else
    let s := modCore u c fun k => { k with dirtyRegs := 0, dirtyScratch := 0 }
    let (s, jobs) := withdrawJobs s t.task
    let s := { s with yields := s.yields.filter fun y => y.ref != t.task }
    leaveSaved s c { v with switchAt := io.switch, jobs := jobs, emPieces := io.pieces
                            emCore := if io.pieces.isEmpty then none else some (Fin.ofNat 64 c.val) }

/-! ### Warnings (04 R122, R123) -/

/-- The pending ARRAY-SUSPECT and the deferred THROTTLE-WARN that are still to be delivered: where no handler would take
them, the one that a rerun has mended and the warning are discarded (10 R285; 04 R122). -/
def keepPending (t : Ctx) : Ctx :=
  if t.csr.tvec.getLsbD 0 then t
  else { t with warn := none, m := { t.m with suspect := t.m.suspect.filter fun i => !i.rerun } }

/-- A THROTTLE-WARN that waits is delivered, unless speculative mode, a handler or another stop defers it (04 R122). -/
def deliverWarn (s : State) (c : CoreId) : State :=
  let k := getCore s c
  if !k.busy || k.stop.isSome || k.ctx.csr.inHandler || inSpec k.ctx .s then s
  else
    let s := modCtx s c keepPending
    match (getCore s c).ctx.warn with
    | some i => requestStop (modCtx s c fun t => { t with warn := none }) c i
    | none => s

/-- The point that a pending step would set, below the one already decided where there is one, else the one in force
(04 R123, R125). -/
def pendingPoint (i : Island) : BitVec 4 := if i.downPend then i.opNext.getD i.op - 1 else i.op

/-- The THROTTLE-WARN of island i (04 R123). -/
def warnInfo (s : State) (i : IslandId) : TrapInfo :=
  let il := getIsland s i
  { taskCause .throttleWarn 0 false with
    faddr := vaddr 0 ((il.opNext.getD il.op).toNat + (pendingPoint il).toNat * 16 + s.gov.epoch.toNat * 2 ^ 32) }

/-- THROTTLE-WARN goes to the task on core c if its variant table holds two valid variants (04 R122). The task behind a
yield sequence gets it. -/
def warnTask (s : State) (c : CoreId) : State :=
  let t := (getCore s c).ctx
  let i := warnInfo s (islandOf c)
  if !(getCore s c).busy || (t.variants.toList.filter fun v => v.valid).length < 2 then s
  else if s.yields.any fun v => v.ref == t.task then
    { s with yields := s.yields.map fun v =>
        if v.ref == t.task then { v with ctx := { v.ctx with warn := some (v.ctx.warn.getD i) } } else v }
  else deliverWarn (modCtx s c fun t => { t with warn := some (t.warn.getD i) }) c

/-! ### Yield mode (10 R296, R297) -/

/-- Every stream of the task resumes at pc. -/
def allAt (t : Ctx) (pc : Word) : Ctx :=
  { t with
    streams := t.streams.map fun x => if x.enabled then
      { x with pc := pc, ended := false, popped := 0, waiting := false } else x
    steer := [] }

/-- Every stream has reached the taken YIELD: the fixed state is kept and written, every queue is emptied, and the save
sequence starts with the slot's base in queue 1. The records of the task's jobs wait for the sequence's end. Without a
slot that takes the fixed state the dump follows. -/
def beginYieldSave (s : State) (c : CoreId) (spec : Bool) (save restore resume : Word) : State :=
  let t := (getCore s c).ctx
  let x := getContext s t.context.val
  let fall (s : State) : State := dumpTask s c (taskCause .preempt 2 false) spec
  let kept := { allAt t resume with yieldPhase := .saving restore resume }
  match saveSlotOf x t.task with
  | none => fall (modCtx s c fun _ => { kept with yieldPhase := .none })
  | some i =>
    let base := slotBase x i
    let s := holdSlot s t (some i)
    let jobs := (jobsOf s t.task).filter withdrawable
    let (io, s) := saveChunks s c ⟨some base, none, false, []⟩ (fixedChunks (getCore s c) jobs)
    if io.switch.isSome then fall (modCtx s c fun _ => { kept with yieldPhase := .none })
    else
      let v := { snapshotTask s c .yieldMode (some base) with ctx := kept }
      let s := { s with
        yields := (s.yields.filter fun y => y.ref != t.task) ++ [v]
        jobs := s.jobs.map fun j => if j.task == t.task then { j with kept := true } else j
        samples := s.samples.map fun r => if r.task == t.task then { r with kept := true } else r }
      modCtx s c fun t => { allAt t save with
        q := { Queues.empty with qsa := [⟨BitVec.ofNat 64 (offset base), false⟩, ⟨BitVec.ofNat 64 (region base), false⟩] }
        yieldPhase := .saving restore resume }

/-- Every operation of the task on core c has completed and all its streams have ended. -/
def quietTask (s : State) (c : CoreId) : Bool :=
  let k := getCore s c
  let t := k.ctx
  k.busy && k.stop.isNone && !t.atEntry && !t.csr.inHandler && (allStreams.all fun st => !live t st)
    && readsDone s c && t.aq.stores.isEmpty && t.aq.inflight.isEmpty && t.vpend.isEmpty && t.ppend.isEmpty
    && t.m.cmd.isNone && !t.m.testing && (samplesOf s t.task).all fun r => r.kept

/-- The task of core c, whose slot holds its fixed state v, leaves the core with its record written (10 R296). -/
def leaveYield (s : State) (c : CoreId) (i : TrapInfo) (v : SavedTask) : State :=
  let acct := (getCore s c).ctx.acct
  let s := modCtx s c fun t => { t with streams := v.ctx.streams, steer := v.ctx.steer }
  let (io, u) := finishSave s c ⟨v.base, none, false, []⟩ i false
  if io.missing then endStopped s c (taskCause .access 4 true) false
  else
    let (s, jobs) := withdrawJobs u v.ref
    leaveSaved { s with yields := s.yields.filter fun y => y.ref != v.ref } c { v with
      ctx := { v.ctx with acct := acct }, jobs := jobs, switchAt := io.switch, emPieces := io.pieces
      emCore := if io.pieces.isEmpty then none else some (Fin.ofNat 64 c.val) }

/-- YIELD_SAVE_COMPLETE: the save sequence has ended, the record is written, and the task leaves its core. -/
def endYieldSave (s : State) (c : CoreId) : State :=
  let t := (getCore s c).ctx
  match t.yieldPhase, s.yields.find? fun y => y.ref == t.task with
  | .saving _ _, some v =>
    if !quietTask s c || (jobsOf s t.task).any (holdsCapture t) then s
    else leaveYield s c (taskCause .preempt 1 false) v
  | _, _ => s

/-- The restore sequence of the task on core c has ended: the fixed state of its slot stands again and every stream
resumes after the YIELD, once the slot can be read; a pre-emption asked for meanwhile is pending then (10 R296). -/
def endYieldRestore (s : State) (c : CoreId) : State :=
  let t := (getCore s c).ctx
  match t.yieldPhase, s.yields.find? fun y => y.ref == t.task with
  | .restoring _ asked, some v =>
    if !quietTask s c then s
    else match restoreFixed s c v with
      | none => s
      | some (k, _, s) =>
        let s := { s with yields := s.yields.filter fun y => y.ref != t.task }
        let s := modCore s c fun x => { x with
          ctx := { k.ctx with acct := x.ctx.acct, yieldPhase := if asked then .asked else .none }, rings := k.rings }
        deliverWarn s c
  | _, _ => s

/-! ### Capture and the shared operation -/

/-- The taken YIELD becomes one that was not taken: the streams that have reached it, and the others when they do, go on
after it. -/
def untakeYield (t : Ctx) (resume : Word) : Ctx :=
  let n := t.steer.length
  { t with
    streams := (Vector.ofFn fun (i : Fin 5) =>
      let x := t.streams.get i
      if x.enabled && !x.ended && (i = 0 || x.popped == n) then { x with pc := resume } else x)
    steer := listMod t.steer (n - 1) fun e => { e with taken := false, target := 0 }
    yieldPhase := .none }

/-- A pre-emption of core c after its drain (10 R292 to R297). A task that a dump finds in its restore sequence goes back
to what its slot holds (DESIGN CHOICE 128). -/
def preemptTask (s : State) (c : CoreId) (i : TrapInfo) (spec : Bool) : State :=
  let t := (getCore s c).ctx
  match t.yieldPhase, s.yields.find? fun y => y.ref == t.task with
  | .taken save restore resume, _ =>
    if i.detail = 1 then beginYieldSave s c spec save restore resume
      else dumpTask (modCtx s c fun t => untakeYield t resume) c i spec
  | .restoring _ _, some v => leaveYield s c i v
  | _, _ => dumpTask s c i spec

/-- The stop's state is captured and the trap goes where its class sends it (10 R273, R283). -/
def route (s : State) (c : CoreId) (i : TrapInfo) : State :=
  let t := (getCore s c).ctx
  let spec := inSpec t .s
  let s := if spec then discardRound s c else s
  let s := modCore s c fun k => { k with stop := none }
  let s := if i.cause = .preempt || savingYield t then reportTrigger s c else s
  if c.val ≥ 64 then dispatchTrap s c i
  else if i.cause = .preempt then preemptTask s c i spec
  else if i.cause = .cancel || i.fatal then endStopped s c i spec
  else if savingYield t then
    dumpTask s c (taskCause .preempt 2 false) spec
  else if becomesFatal t then endStopped s c { i with fatal := true } spec
  else startHandler s c i spec

/-- The word that runs on core c is one of a firmware context (03 R94). -/
def inFirmware (s : State) (c : CoreId) : Bool := c.val < 64 && (getCore s c).ctx.system

/-- CAPTURE: the stopped core drains, and once the drain is over its state is captured (10 R275). A firmware context has
no trap of a task: what its fault does is the firmware's (DESIGN CHOICE 115). -/
def capture (s : State) (c : CoreId) : State :=
  match (getCore s c).busy && !inFirmware s c, (getCore s c).stop with
  | false, _ => s
  | _, none => s
  | true, some x =>
    let fatal := userStop x.info && becomesFatal (getCore s c).ctx && !savingYield (getCore s c).ctx
    let i := if fatal then { x.info with fatal := true } else x.info
    let s := modCore s c fun k => { k with stop := some ⟨i⟩ }
    let s := drain (withdrawWaits s c) c (leavesCore (getCore s c).ctx i)
    if drained s c i then route s c i else s

/-- TAKING A TRAP: the task on core c stops with this cause, and its state is captured, at once when nothing holds back
its drain (10 R272 to R300). -/
def takeTrap (s : State) (c : CoreId) (i : TrapInfo) : State := capture (requestStop s c i) c

/-! ### The return from a handler (10 R286) -/

/-- The tag of a shared control word. -/
def sharedTag (p : Parcel) : Bool := p.toNat / 2 ^ 28 == 15

/-- The task leaves its handler: the S-stream goes back to its resume PC, and with SKIP the stream of the faulting word
goes past it (10 R286). -/
def leaveHandler (t : Ctx) (h : Handling) : Ctx :=
  let skip := t.csr.act == 1 && h.info.len != 0 && !h.spec
  let t := modStream t .s fun x => { x with pc := h.rpc, ended := h.ended, ret := h.ret }
  let t := if skip then
    modStream { t with aq := { t.aq with ask := [], now := [] } } (streamOf h.info.source) fun x =>
      { x with pc := x.pc + BitVec.ofNat 64 h.info.len } else t
  clearWaits { t with handling := none, csr := { t.csr with inHandler := false, act := 0 } }

/-- ACT makes RETT end the task: FAIL, or SKIP of a shared control word, but for a discarded round, where SKIP resumes at
SPECON as RETRY does (10 R286; 12 R349). -/
def rettEnds (t : Ctx) (h : Handling) : Bool :=
  t.csr.act == 2 || (t.csr.act == 1 && h.info.len != 0 && sharedTag h.info.status && !h.spec)

/-- A pending ARRAY-SUSPECT, then a deferred THROTTLE-WARN, is delivered (10 R276, R286; 04 R122). -/
def deliverPending (s : State) (c : CoreId) : State :=
  let s := modCtx s c keepPending
  let t := (getCore s c).ctx
  match t.m.suspect, t.warn with
  | some i, _ => takeTrap (modCtx s c fun t => { t with m := { t.m with suspect := none } }) c i
  | none, some i => takeTrap (modCtx s c fun t => { t with warn := none }) c i
  | none, none => s

/-- RETT of a handler on core c; the word itself retires before the streams resume (10 R286, R397). -/
def returnFromHandler (s : State) (c : CoreId) (h : Handling) : State :=
  let ends := rettEnds (getCore s c).ctx h
  let s := modCtx s c fun t => leaveHandler t h
  if ends then takeTrap s c { h.info with fatal := true } else deliverPending s c

/-! ### The pending ARRAY-SUSPECT (10 R285, R301, R303) -/

/-- The running task with its matrix state changed. -/
def modCurM (s : State) (f : MState → MState) : State := modCur s fun t => { t with m := f t.m }

/-- The running task without an ARRAY-SUSPECT that is to be discarded. -/
def dropSuspect (s : State) : State :=
  modCur s fun t => { t with m := (keepPending t).m }

/-- The M-stream stops at the next tile command, or at its taken END, with the ARRAY-SUSPECT that a failed test left. -/
def raiseSuspect (s : State) : Option State :=
  let s := dropSuspect s
  match (curCtx s).m.suspect with
  | none => none
  | some i => some (takeTrap (modCurM s fun m => { m with suspect := none }) s.cur i)

/-! ### Releases (08 R231; 02 R61) -/

/-- A release at a scope by the running A-stream faults when the bridge has lost a write that it would wait for
(02 R61). -/
def releasable (s : State) (scope : Nat) : Res Unit :=
  match lostWrite s s.cur scope with
  | some r => .trap .access 1 (vaddr 0 r.part.pa)
  | none => .ok ()

/-- The wait of a release at a scope (08 R231). -/
def release (s : State) (scope : Nat) : Res Unit :=
  (releasable s scope).andThen fun _ => guardWait (releaseReady s s.cur scope)

/-! ### The frame of a word -/

/-- The core of the word that runs holds a task, and its stream has not ended. -/
def runs (s : State) : Bool := (curCore s).busy

/-- The word of a stream retires: the pc moves past it, its index is counted, and its cycle is an active one. -/
def retireAt (s : State) (st : Stream) (pc : Word) : State :=
  activeCycle (modCur s fun t =>
    let t := modStream t st fun x => { x with pc := pc, cidx := x.cidx + 1, waiting := false }
    if st = .a then { t with aq := { t.aq with replay := none, ask := [], now := [], ringWait := none } } else t) s.cur

/-- The word of len bytes of a stream retires. -/
def retire (s : State) (st : Stream) (len : Nat) : State :=
  retireAt s st ((getStream (curCtx s) st).pc + BitVec.ofNat 64 len)

/-- What a faulting word reports (10 R277, R278). -/
def wordTrap (s : State) (st : Stream) (cause : Cause) (detail : Nat) (faddr : VAddr) (len : Nat) : TrapInfo :=
  { cause := cause, source := (sIdx st).val, detail := detail, faddr := faddr, status := (curCore s).ir, len := len
    fatal := false, rerun := false, sfirst := 0, slast := 0, sfstep := 0xFFFFFFFF, slstep := 0xFFFFFFFF }

/-- An A-word meets a replayable page fault: the A-stream stalls at it, and its record is posted (10 R287, R291). -/
def stallA (s : State) (detail : Nat) (va : VAddr) : State :=
  let k : WalkKind := match detail with
    | 0 => .read
    | 1 => .write
    | _ => .atomic
  let (r, s) := postReplay s ⟨none, va, k, none⟩ fun q =>
    ofBytes 2048 (taskRecord s s.cur (wordTrap s .a .pageFault detail va 4) q 2 0)
  modCur s fun t => modStream { t with aq := { t.aq with replay := some r } } .a fun x => { x with waiting := true }

/-- What the replayable record of the A-stream's word makes of it (10 R291): nothing, a wait for its answer, or, after
a FAIL, a fatal PAGE-FAULT. -/
def replayGate (s : State) (st : Stream) : Option State :=
  match st, (curCtx s).aq.replay with
  | .a, some r => match r.answer, r.record with
    | some true, _ => none
    | some false, _ =>
      let s := modCur s fun t => { t with aq := { t.aq with replay := none } }
      some (takeTrap s s.cur { wordTrap s .a .pageFault (kindDetail r.kind) r.va 4 with fatal := true })
    | none, some _ => some (modCur s fun t => modStream t .a fun x => { x with waiting := true })
    | none, none => none
  | _, _ => none

/-- A stream waits at its word; the V-stream stalls (06 R185). -/
def waitAt (st : Stream) (t : Ctx) : Ctx :=
  modStream (if st = .v && !(getStream t .v).waiting then vStalled t else t) st fun x => { x with waiting := true }

/-- A word that waits leaves its stream at it. In a handler a wait is a fault (10 R284). -/
def waitWord (s : State) (st : Stream) (len : Nat) : State :=
  if st = .s && (curCtx s).csr.inHandler then takeTrap s s.cur (wordTrap s st .queue 2 0 len)
  else modCur s (waitAt st)

/-- The M-stream at a taken END: it waits for its tile command and for a self-test that runs or is due, and stops for a
pending ARRAY-SUSPECT (10 R301, R303). -/
def endGate (s : State) : Option State :=
  match raiseSuspect s with
  | some s => some s
  | none =>
    let m := (curCtx s).m
    if m.cmd.isSome || m.testing || (m.testDue && (curCore s).fence != 15) then some (waitWord s .m 4) else none

/-- The walk that an access of the A-stream faulted at, to the address a, is charged to its task (04 R114). -/
def chargeFault (s : State) (c : Cause) (d : Nat) (a : VAddr) : State :=
  let k : WalkKind := if d = 0 then .read else if d = 1 then .write else .atomic
  let asid := (curCtx s).asid
  if (c == .access || c == .pageFault) && a != 0 && region a < 0xF0
      && (tlbLookup s (agentOf s.cur) asid a.toNat false).isNone then
    chargeFills (touchFault s asid a k) s.cur
  else s

/-- What a word's result comes to, once its stream is known: done says how it retires. -/
def settleWord (s : State) (st : Stream) (len : Nat) (r : Res State) (done : State → State) : State :=
  match r with
  | .ok s => done s
  | .wait => waitWord s st len
  | .waitAs s => waitWord s st len
  | .again s => modCur s fun t => modStream t st fun x => { x with waiting := false }
  | .trap .pageFault d a =>
    if st = .a && !savingYield (curCtx s) then stallA (chargeFault s .pageFault d a) d a
      else takeTrap (chargeFault s .pageFault d a) s.cur (wordTrap s st .pageFault d a len)
  | .trap c d a => takeTrap (if st = .a then chargeFault s c d a else s) s.cur (wordTrap s st c d a len)

/-- A word of a stream runs with the effect f (06 R163, R188; 10 R274): it retires, waits or traps. -/
def runWord (st : Stream) (len : Nat) (f : State → Res State) (s : State) : Host.Outcome State Fault Refusal :=
  if runs s then
    match replayGate s st with
    | some s => .next s
    | none => .next (settleWord s st len (f s) fun s => retire s st len)
  else .fault .noTask

/-- A word whose effect stays within the task's own state. -/
def runCtx (st : Stream) (len : Nat) (f : Ctx → Res Ctx) (s : State) : Host.Outcome State Fault Refusal :=
  runWord st len (fun s => (f (curCtx s)).mapTo fun t => modCur s fun _ => t) s

end Sys2Proof.Machine
end

