-- ==== Sys2Proof/Machine/Dispatcher.lean ====
section
/-!
DEFINITION. The task dispatcher: launch records (05 R128 to R138), the entry of kernels (05 R140, R153; 14 R399), the
draw and the placement of tasks (05 R149; 04 R111, R117), resumption (10 R299), the end of tasks, settlement (04 R115)
and metering (04 R116).
-/
namespace Sys2Proof.Machine

/-! ### Launch records (05 R128 to R130) -/

/-- n bytes of a record from byte i. -/
def recField (r : BitVec 2048) (i n : Nat) : Nat := r.toNat / 2 ^ (8 * i) % 2 ^ (8 * n)

/-- Level entry l (05 R129). -/
def parseLevel (r : BitVec 2048) (l : Nat) : Level :=
  let v := recField r (16 + 4 * l) 4
  ⟨bits v 15 0, bits v 18 16, bits v 21 19, bit v 22, bits v 27 23⟩

/-- Variant entry i (04 R120). -/
def parseVariant (r : BitVec 2048) (i : Nat) : Variant :=
  let o := 48 + 24 * i
  ⟨BitVec.ofNat 32 (recField r o 4), BitVec.ofNat 3 (recField r (o + 4) 1), bit (recField r (o + 4) 1) 7,
    BitVec.ofNat 64 (recField r (o + 8) 8), BitVec.ofNat 64 (recField r (o + 16) 8)⟩

/-- Footprint entry j (05 R130). -/
def parseFoot (r : BitVec 2048) (j : Nat) : Footprint :=
  let v := recField r (144 + 8 * j) 8
  { reg := Fin.ofNat 8 (bits v 2 0), write := bit v 3, level := bits v 6 4, strided := bit v 7
    offset := signed 24 (bits v 31 8), len := bits v 55 32, log2 := bits v 61 56 }

/-- The launch record in its 256 bytes (05 R128). -/
def parseRecord (r : BitVec 2048) : LaunchRecord :=
  let b1 := recField r 1 1
  { early := bit b1 4, persist := bit b1 5, subst := bit b1 6, lvar := Fin.ofNat 4 (recField r 3 1)
    queue := BitVec.ofNat 12 (recField r 4 2), asid := BitVec.ofNat 16 (recField r 6 2)
    cookie := BitVec.ofNat 32 (recField r 8 4), maxdur := recField r 12 2
    levels := (List.range (b1 % 16)).map (parseLevel r)
    variants := Vector.ofFn fun i => parseVariant r i.val
    foots := (List.range (recField r 2 1 % 16)).map (parseFoot r)
    args := Vector.ofFn fun i => BitVec.ofNat 64 (recField r (208 + 8 * i.val) 8) }

/-- The cores of a domain for a gang (05 R138). -/
def domainCores (d : Nat) : Nat :=
  match d with
  | 0 => 1
  | 1 => 4
  | 2 => 16
  | _ => 64

/-- The narrowest scope that a domain allows (05 R138). -/
def domainScope (d : Nat) : Nat :=
  match d with
  | 0 => 0
  | 1 => 1
  | 4 => 3
  | _ => 2

/-- The variant rules of 04 R120. -/
def variantsOk (r : BitVec 2048) : Bool :=
  let v (i : Nat) := parseVariant r i
  let reserved := (List.range 4).all fun i =>
    bits (recField r (52 + 24 * i) 1) 6 3 == 0 && recField r (53 + 24 * i) 3 == 0
  let aligned := (List.range 4).all fun i => (v i).entry.toNat % 4 == 0
  reserved && aligned && (v 0).valid && ((v 1).valid || !(v 2).valid) && ((v 2).valid || !(v 3).valid)
    && (v (recField r 3 1 % 4)).valid

/-- Each level's domain and scope against those of the next level (05 R138). -/
def levelsNarrow : List Level → Bool
  | a :: b :: r => b.domain ≤ a.domain && b.scope ≤ a.scope && levelsNarrow (b :: r)
  | _ => true

/-- The dispatcher accepts the launch record (05 R136, R138; DESIGN CHOICE 125 for a BDEPTH above 16). -/
def recordOk (s : State) (r : BitVec 2048) : Bool :=
  let p := parseRecord r
  let n := recField r 1 1 % 16
  let nf := recField r 2 1 % 16
  let lv := p.levels
  recField r 0 1 == 1 && 1 ≤ n && n ≤ 8 && nf ≤ 8
    && !bit (recField r 1 1) 7 && recField r 2 1 < 16 && recField r 3 1 < 4 && recField r 4 2 < 4096
    && recField r 14 2 == 0
    && ((List.range 8).all fun l => if l < n then recField r (16 + 4 * l) 4 < 2 ^ 28
      else recField r (16 + 4 * l) 4 == 0)
    && (lv.all fun l => l.extent ≥ 1 && l.domain ≤ 4 && l.scope ≤ 4 && l.bdepth ≤ 16 && domainScope l.domain ≤ l.scope)
    && extentProduct lv ≤ 2 ^ 32 && levelsNarrow lv
    && (lv.filter fun l => l.bdepth != 0).length ≤ 1
    && (lv.all fun l => l.domain != 4 || l.bdepth == 0)
    && (lv.zipIdx.all fun (l, i) => !l.gang
      || (groupSize p i ≤ domainCores l.domain
        && lv.zipIdx.all fun (m, j) => j ≤ i || m.domain != 0 || groupSize p j ≤ 1))
    && (lv.zipIdx.all fun (l, i) => l.domain != 4 || (i == 0 && l.extent % 2 == 0 && s.links.paired))
    && variantsOk r
    && 1 ≤ p.maxdur && p.maxdur ≤ 4000
    && ((List.range 8).all fun j =>
      let v := recField r (144 + 8 * j) 8
      if j < nf then bits v 6 4 < n && bits v 61 56 ≤ 40 && bits v 63 62 == 0 else v == 0)

/-! ### Entry of kernels (05 R140, R153; 14 R399) -/

/-- The record as it was handed over for a kernel number: where completions go, and the slot. -/
def handedOf (s : State) (n : BitVec 32) : Option Handed := s.disp.handed.find? fun h => h.kernel == n

/-- A kernel enters hardware queue q: the status of LAUNCH and the state after (14 R399). -/
def enterKernel (s : State) (n : BitVec 32) (record : BitVec 2048) (rl : Vector VAddr 8) (q : Nat) (h : Handed) :
    Nat × State :=
  let hw := vget s.disp.hwqs q
  if s.disp.numbers.contains n then (2, s)
  else if !hw.mapped || hw.unmapping then (3, s)
  else
    let ok := recordOk s record && h.relocOk
    let k : Kernel :=
      { num := n, slot := h.slot, record := parseRecord record, rl := rl, context := h.context, origin := h.origin
        hwq := q, next := 0, live := [], status := if ok then none else some 4, ran := 0, joules := 0, binds := []
        bars := []
        prods := (s.disp.ended.filter fun e => e.1 == (parseRecord record).asid).map fun e => e.2
        holds := [], triggered := [], fatal := false, cancelled := !ok }
    (if ok then 0 else 1, { s with disp := { s.disp with
      kernels := s.disp.kernels ++ [k]
      order := s.disp.order ++ [(false, n.toNat)]
      numbers := s.disp.numbers ++ [n]
      handed := s.disp.handed.filter fun x => x.kernel != n } })

/-- s with f applied to slot n. -/
def modSlot (s : State) (n : Nat) (f : Slot → Slot) : State := { s with slots := vmod s.slots n f }
/-- REFS of slot n changed by one. -/
def addRef (s : State) (n : Nat) : State := modSlot s n fun x => { x with refs := x.refs + 1 }
/-- REFS of slot n changed by minus one. -/
def dropRef (s : State) (n : Nat) : State := modSlot s n fun x => { x with refs := x.refs - 1 }

/-! ### Cores and groups (05 R132 to R136, R149) -/

/-- The quad of an island (01 R13). -/
def quadOf (i : Nat) : Nat := 2 * (i / 4 / 2) + i % 4 / 2

/-- The instance of a domain that holds core c (05 R132). -/
def instanceOf (d c : Nat) : Nat :=
  match d with
  | 0 => c
  | 1 => (islandOf (coreOf c)).val
  | 2 => quadOf (islandOf (coreOf c)).val
  | _ => 0

/-- Task t of kernel k may run on core c as far as the bindings of its groups go. -/
def boundTo (k : Kernel) (t c : Nat) : Bool :=
  k.record.levels.zipIdx.all fun (lv, l) => k.binds.all fun b =>
    b.1 != l || b.2.1 != groupOf k.record t l || b.2.2 == instanceOf lv.domain c

/-- The bindings with those of task t on core c added. -/
def bindTask (k : Kernel) (t c : Nat) : Kernel :=
  k.record.levels.zipIdx.foldl (fun k (lv, l) =>
    let g := groupOf k.record t l
    if k.binds.any fun b => b.1 == l && b.2.1 == g then k
    else { k with binds := k.binds ++ [(l, g, instanceOf lv.domain c)] }) k

/-- The level whose groups have barriers. -/
def barLevel (r : LaunchRecord) : Option (Nat × Level) := r.levels.zipIdx.findSome? fun (lv, l) =>
  if lv.bdepth != 0 then some (l, lv) else none

/-- The first of d consecutive free barriers of a file (05 R135). -/
def findBarriers (s : State) (file d : Nat) : Option Nat :=
  let n := if file < 16 then 64 else 1024
  (List.range n).find? fun i => i + d ≤ n && (List.range d).all fun j => !(barGet s file (i + j)).used

/-- The barriers of the group of task t on core c: those it has, or new ones, none when the file lacks room. -/
def groupBarriers (s : State) (k : Kernel) (t c : Nat) : Option (Option (Nat × Nat × Nat) × State × Kernel) :=
  match barLevel k.record with
  | none => some (none, s, k)
  | some (l, lv) =>
    let g := groupOf k.record t l
    match k.bars.find? fun b => b.1 == g with
    | some b => some (some b.2, s, k)
    | none =>
      let file := if lv.domain ≤ 1 then (islandOf (coreOf c)).val else 16
      match findBarriers s file lv.bdepth with
      | none => none
      | some first =>
        let s := (List.range lv.bdepth).foldl (fun s i =>
          barSet s file (first + i) ⟨groupSize k.record l, 0, 0, true⟩) s
        some (some (file, first, lv.bdepth), s, { k with bars := k.bars ++ [(g, file, first, lv.bdepth)] })

/-- The first word of a variant's text (06 R161). -/
def entryOf (s : State) (k : Kernel) (v : Variant) : Nat :=
  (vget s.slots k.slot.val).textBase.toNat * 2 ^ 21 + v.entry.toNat

/-- The variant enables the M-stream (06 R161). -/
def usesM (s : State) (k : Kernel) (v : Variant) (c : CoreId) : Bool :=
  match (fetchParcel s c k.record.asid (entryOf s k v)).1 with
  | some p => p.getLsbD 18
  | none => false

/-- The core may take a task: it is free, online and powered, holds no latched record, and the device has not halted
(10 R290; 14 R402; 01 R28, R36). -/
def coreOpen (s : State) (c : CoreId) : Bool :=
  let k := getCore s c
  !k.busy && !k.offline && !k.blocked && (getIsland s (islandOf c)).powered && s.pkg.cause == 0

/-! ### Energy (04 R105, R108, R111, R117 to R119) -/

/-- The cost of an energy class in BU (04 R105). -/
def classCost (s : State) (v : Variant) : Nat := bits (s.gov.ecost.toNat) (8 * v.cls.toNat + 7) (8 * v.cls.toNat)

/-- A reservation of cost units for a task on island i, none when it fails: the escalated task takes its own complete
reservation, and no other task enters the island of one (04 R111, R119). A cost beyond the home reserve has the
allowance of the reservation slot recalled first (09 R263, R269). Another island that covers the escalated task's
cost may take the task meanwhile (DESIGN CHOICE 87). -/
def reserve (s : State) (i : IslandId) (r : TaskRef) (cost : Nat) : Option State :=
  let il := (getIsland s i).metered
  match il.esc with
  | some (e, need, res) =>
    if e == r && need ≤ res && cost ≤ res then
      some (modIsland s i fun _ => { il with
        esc := none, total := il.total + (res - cost), need := il.need - (res - cost : Nat) })
    else none
  | none =>
    if cost ≤ il.total then
      some (modIsland s i fun _ => { il with
        total := il.total - cost, slot := if cost ≤ il.total - il.slot then il.slot else 0, need := il.need + cost })
    else none

/-- The variants with which a task may launch, the launch variant first and then, with SUBST, the others in order
(04 R117). -/
def variantOrder (r : LaunchRecord) : List (Fin 4) :=
  r.lvar :: if r.subst then ([0, 1, 2, 3] : List (Fin 4)).filter fun i => (r.variants.get i).valid else []

/-! ### Placement -/

/-- The previous task of a group at a CORE level was the last task of this core, in the same context (05 R137). -/
def persists (k : Kernel) (t : Nat) (core : Core) : Bool :=
  k.record.persist && t > 0 && core.lastTask == some (⟨k.num.toNat, t - 1⟩, k.context)
    && k.record.levels.zipIdx.any fun (lv, l) => lv.domain == 0 && groupOf k.record t l == groupOf k.record (t - 1) l

/-- The registers of task t of kernel k at launch with variant v (06 R182; 05 R131). -/
def launchCtx (s : State) (k : Kernel) (t : Nat) (v : Fin 4) (c : CoreId) (bar : Option (Nat × Nat × Nat)) (cost : Nat) :
    Ctx :=
  let entry := BitVec.ofNat 64 (entryOf s k (k.record.variants.get v))
  { Ctx.launch with
    task := ⟨k.num.toNat, t⟩
    asid := k.record.asid
    context := k.context
    entry := entry
    atEntry := true
    streams := Ctx.launch.streams.set 0 { StreamState.off with pc := entry, enabled := true }
    rl := k.rl
    args := k.record.args
    variants := k.record.variants
    csr := { Csrs.launch with
      taskId := BitVec.ofNat 32 t, varidx := v, bdepth := BitVec.ofNat 5 ((bar.map fun b => b.2.2).getD 0) }
    barFile := bar.map fun b => (b.1, b.2.1)
    launched := v
    acct := { Ctx.launch.acct with cal := (getIsland s (islandOf c)).cal, reserved := cost } }

/-- A task placed while a step-down is pending receives the warning before its first word, and any other its deferred
one (04 R122). The warning to a placed task does not count in WARNS, which counts the marks of its island (DESIGN CHOICE
86). -/
def warnPlaced (s : State) (c : CoreId) : State :=
  if (getIsland s (islandOf c)).downPend then warnTask s c else deliverWarn s c

/-- The scope at which the start of task t of kernel k on core c acquires: that of 05 R143, and SYSTEM for a kernel that
a packet launched, after the host's writes before it (08 R235; 02 R48). -/
def acquireScope (s : State) (k : Kernel) (t c : Nat) : Nat :=
  match k.origin with
  | .packet _ _ _ => max 4 (startScope s k t c)
  | .job _ => startScope s k t c

/-- Every block of the core fresh, and none dirty (06 R182; 10 R295). -/
def freshCore (x : Core) : Core :=
  { x with
    dirtyRegs := 0, dirtyScratch := 0, freshRegs := BitVec.allOnes 4352, freshScratch := BitVec.allOnes 1024
    freshBanks := BitVec.allOnes 64 }

/-- Task t of kernel k starts on core c with a variant (05 R133, R137; 06 R182): s already holds its reservation and
its barriers. The units that a PERSIST launch keeps are dirty, since the task has no slot that holds them (DESIGN CHOICE
109). -/
def startTask (s : State) (k : Kernel) (t : Nat) (v : Fin 4) (c : CoreId) (bar : Option (Nat × Nat × Nat)) (cost : Nat) :
    State :=
  let k := { bindTask k t c.val with
    next := t + 1
    live := k.live ++ [⟨t, .resident (Fin.ofNat 64 c.val), none⟩]
    holds := k.holds.filter fun h => h.1 != t }
  let s := setKernel s k
  let keep := persists k t (getCore s c)
  let s := bumpVersions s c (acquireScope s k t c.val)
  let s := modCore s c fun x =>
    let x := { x with
      busy := true, ctx := launchCtx s k t v c bar cost, stop := none, exclude := none, preempt := false
      rings := Vector.replicate 32 ⟨0, 0, []⟩ }
    if keep then { x with
      dirtyRegs := writtenUnits 1088 x.freshRegs, dirtyScratch := writtenUnits 256 x.freshScratch }
    else freshCore x
  warnPlaced s c

/-- No earlier task of a CORE-level group of task t is resident or saved: the tasks of such a group run one at a time
(05 R132). -/
def coreTurn (k : Kernel) (t : Nat) : Bool :=
  k.record.levels.zipIdx.all fun (lv, l) => lv.domain != 0 ||
    k.live.all fun x => x.task == t || groupOf k.record x.task l != groupOf k.record t l

/-- Core c may take task t of kernel k with a variant but for its island's allowance: the core is free, the bindings,
barriers and turns of the task's groups allow it, and an array with every sub-array fenced takes no task whose M-stream
is enabled (05 R132 to R135; 10 R304). -/
def placeable (s : State) (k : Kernel) (t : Nat) (v : Fin 4) (c : CoreId) : Bool :=
  coreOpen s c && boundTo k t c.val && coreTurn k t && (groupBarriers s k t c.val).isSome
    && !((getCore s c).fence == 15 && usesM s k (k.record.variants.get v) c)

/-- Task t of kernel k would be held with its launch variant: free cores could take it, and no island of one of them
covers its cost (04 R117). -/
def heldFor (s : State) (k : Kernel) (t cost : Nat) : Bool :=
  let cs := ((List.range 64).map coreOf).filter (placeable s k t k.record.lvar)
  cs != [] && cs.all fun c => allowanceTotal s (islandOf c) < cost

/-- An island of a core that may take task t of kernel k with a variant covers the variant's cost (04 R117). -/
def variantCovered (s : State) (k : Kernel) (t : Nat) (v : Fin 4) : Bool :=
  (List.range 64).any fun c => placeable s k t v (coreOf c)
    && classCost s (k.record.variants.get v) ≤ allowanceTotal s (islandOf (coreOf c))

/-- The variant with which task t may launch now: the launch variant, or with SUBST, when the task would else be held,
the lowest-numbered valid one whose cost is covered (04 R117). -/
def variantNow (s : State) (k : Kernel) (t : Nat) : Fin 4 :=
  if k.record.subst && heldFor s k t (classCost s (k.record.variants.get k.record.lvar)) then
    (([0, 1, 2, 3] : List (Fin 4)).find? fun v => (k.record.variants.get v).valid && variantCovered s k t v).getD
      k.record.lvar
  else k.record.lvar

/-- Task t of kernel k is placed on core c if its orderings, bindings, barriers and energy allow it (05 R149). A task
whose footprint fails with REGION is failed by the caller. -/
def placeOne (s : State) (k : Kernel) (t : Nat) (c : CoreId) : Option State :=
  if !taskMayStart s k t then none
  else
    let v := variantNow s k t
    if !placeable s k t v c then none
    else (groupBarriers s k t c.val).bind fun (bar, s1, k1) =>
      let cost := classCost s (k.record.variants.get v)
      (reserve s1 (islandOf c) ⟨k.num.toNat, t⟩ cost).map fun s2 => startTask s2 k1 t v c bar cost

/-- The tasks that are placed together with task t: those of its outermost gang group, or t alone (05 R134). -/
def gangOf (k : Kernel) (t : Nat) : List Nat :=
  match k.record.levels.zipIdx.find? fun (lv, _) => lv.gang with
  | some (_, l) => (List.range (groupSize k.record l)).map fun i => groupOf k.record t l * groupSize k.record l + i
  | none => [t]

/-- The tasks of a list placed in order, each on the lowest-numbered core with which the others can be placed too, and
none on a core that shuts their queue out (05 R134; 10 R292; DESIGN CHOICE 12 for which cores). -/
def placeRest (shut : State → Nat → CoreId → Bool) (n : BitVec 32) : List Nat → State → Option State
  | [], s => some s
  | t :: r, s => match findKernel s n with
    | none => none
    | some k => (List.range 64).findSome? fun d =>
      if shut s k.hwq (coreOf d) then none
      else (placeOne s k t (coreOf d)).bind (placeRest shut n r)

/-- The tasks of a gang placed, the first on core c (05 R134). -/
def placeGang (shut : State → Nat → CoreId → Bool) (s : State) (n : BitVec 32) (c : CoreId) :
    List Nat → Option State
  | [] => some s
  | t :: r => (findKernel s n).bind fun k => (placeOne s k t c).bind (placeRest shut n r)

/-- The head task of hardware queue q: the first kernel of the queue with a task to start (05 R147). -/
def headTask (s : State) (q : Nat) : Option (Kernel × Nat) :=
  (s.disp.order.filter fun e => !e.1).findSome? fun e =>
    match findKernel s (BitVec.ofNat 32 e.2) with
    | some k => if k.hwq == q then (nextTask s k).map fun t => (k, t) else none
    | none => none

/-- Task t of kernel k, whose footprint fails, ends with a fatal REGION when core c would take it; the record names that
core (05 R141; 10 R273, R277). -/
def failFootprint (s : State) (c : CoreId) (k : Kernel) (t : Nat) : State :=
  let (n, s) := takeSeq s
  let l := recPut recEmpty 0 4 n.toNat
  let l := recPut l 4 2 Cause.region.code
  let l := recPut l 6 1 5
  let l := recPut l 7 1 1
  let l := recPut l 8 4 t
  let l := recPut l 12 2 k.record.asid.toNat
  let l := recPut l 14 1 c.val
  failKernel (postRecord s c (ofBytes 2048 l)) k.num 4

/-- What placing the head task of queue q on core c gives, if the queue is eligible for it (05 R149); shut tells which
cores take no other task of its gang. A task of it or of its gang whose footprint fails is failed with cause REGION when
the queue is taken (05 R141). -/
def placeHeadBy (shut : State → Nat → CoreId → Bool) (s : State) (q : Nat) (c : CoreId) : Option State :=
  let hw := vget s.disp.hwqs q
  if !hw.mapped || hw.frozen || !coreOpen s c then none
  else match headTask s q with
    | none => none
    | some (k, t) =>
      match (gangOf k t).find? fun u => (taskFoots? k u).isNone with
      | some u => some (failFootprint s c k u)
      | none => placeGang shut s k.num c (gangOf k t)

/-- Core c, after a pre-emption at a boundary, takes no task of queue q: its exclusion has not lapsed, since another
queue is eligible for it (10 R292). -/
def shutsOut (s : State) (q : Nat) (c : CoreId) : Bool :=
  (getCore s c).exclude == some q
    && (List.range 64).any fun p => p != q && (placeHeadBy (fun _ _ _ => false) s p c).isSome

/-- What placing the head task of queue q on core c gives, if the queue is eligible for it (05 R149; 10 R292). -/
def placeHead (s : State) (q : Nat) (c : CoreId) : Option State := placeHeadBy shutsOut s q c

/-- One step of the lottery's generator (05 R149). -/
def lottery (x : BitVec 32) : BitVec 32 :=
  let x := x ^^^ (x <<< 13)
  let x := x ^^^ (x >>> 17)
  x ^^^ (x <<< 5)

/-- The queue in which the running sum of tickets first exceeds r. -/
def ticketQueue (s : State) (r : Nat) : (sum : Nat) → List Nat → Option Nat
  | _, [] => none
  | sum, q :: l =>
    let sum := sum + (vget s.disp.hwqs q).tickets.toNat
    if sum > r then some q else ticketQueue s r sum l

/-- The eligible queues for core c, without the one that a pre-emption at a boundary excludes, unless there is no other
(10 R292). -/
def eligible (s : State) (c : CoreId) : List Nat :=
  let all := (List.range 64).filter fun q => (placeHead s q c).isSome
  let rest := all.filter fun q => (getCore s c).exclude != some q
  if rest = [] then all else rest

/-- Draw(c) of 05 R149: the queue taken, and the state after the generator's step. -/
def drawQueue (s : State) (c : CoreId) : Option (Nat × State) :=
  let all := eligible s c
  let e := all.filter fun q => (vget s.disp.hwqs q).tickets != 0
  match e with
  | [] => all.head?.map fun q => (q, s)
  | first :: _ =>
    if s.disp.drawMode then some (first, s)
    else
      let x := lottery s.disp.xstate
      let total := e.foldl (fun n q => n + (vget s.disp.hwqs q).tickets.toNat) 0
      (ticketQueue s (x.toNat % total) 0 e).map fun q => (q, { s with disp := { s.disp with xstate := x } })

/-- One draw for a free core. A free core of a lower number for which a queue is eligible is served first (05 R149). -/
def drawStep (s : State) (c : CoreId) : State :=
  if (List.range c.val).any fun d => coreOpen s (coreOf d) && (drawQueue s (coreOf d)).isSome then s
  else match drawQueue s c with
    | none => s
    | some (q, s) => (placeHead s q c).getD s

/-! ### Resumption (10 R299) -/

/-- The streams of a task whose restore sequence runs start at it, with the slot's base in queue 1 (10 R296). -/
def restoreCtx (v : SavedTask) (restore resume : Word) : Ctx :=
  let t := v.ctx
  let base := v.base.getD 0
  { t with
    streams := t.streams.map fun x => if x.enabled then { x with pc := restore, ended := false, popped := 0 } else x
    steer := []
    q := { Queues.empty with qsa := [⟨BitVec.ofNat 64 (offset base), false⟩, ⟨BitVec.ofNat 64 (region base), false⟩] }
    yieldPhase := .restoring resume false }

/-- The pair of addresses with which the restore sequence of a task saved in yield mode runs (10 R296). -/
def restorePair (v : SavedTask) : Option (Word × Word) :=
  match v.mode, v.ctx.yieldPhase with
  | .yieldMode, .saving restore resume => some (restore, resume)
  | _, _ => none

/-- What core c reads back of a saved task: its slot, or, for one saved in yield mode, what its restore sequence starts
with; none while a page of the slot cannot be read (10 R296, R299; DESIGN CHOICE 111). -/
def restoreTask (s : State) (v : SavedTask) (c : CoreId) : Option State :=
  match restorePair v with
  | none => restoreSlot s c v
  | some (restore, resume) =>
    let base := scratchBase + c.val * 0x100000
    some (modCore { s with mem := memClear s.mem base (base + 0x100000) } c fun x =>
      freshCore { x with ctx := restoreCtx v restore resume, rings := v.rings })

/-- A saved task is back on core c, which has read its state (10 R299); s already holds its reservation. -/
def placeSaved (s : State) (v : SavedTask) (c : CoreId) (cost : Nat) : State :=
  let s := modCore s c fun x => { x with
    busy := true, ctx := { x.ctx with acct := { x.ctx.acct with reserved := cost } }, stop := none, exclude := none
    preempt := false, dirtyRegs := 0, dirtyScratch := 0 }
  let s := modKernel s (BitVec.ofNat 32 v.ref.kernel) fun k =>
    { k with live := k.live.map fun l =>
      if l.task == v.ref.task then { l with place := .resident (Fin.ofNat 64 c.val) } else l }
  let back (j : Job) : Bool := j.task == v.ref && j.phase == .withdrawn
  let s := { s with
    yields := if (restorePair v).isSome then s.yields ++ [v] else s.yields
    jobs := s.jobs.map fun j => if back j then { j with phase := .waiting, core := c } else j
    samples := s.samples.map fun r => if r.task == v.ref then { r with core := c } else r
    disp := { s.disp with
      saved := s.disp.saved.filter fun x => x.ref != v.ref
      order := s.disp.order ++ v.jobs.map fun j => (true, j) } }
  warnPlaced s c

/-- A saved task is put onto core c (10 R299): the SYSTEM acquire, what the core reads back, and the task's streams. s
already holds its reservation. -/
def putTask (s : State) (v : SavedTask) (c : CoreId) (cost : Nat) : Option State :=
  (restoreTask (bumpVersions s c 4) v c).map fun s => placeSaved s v c cost

/-- The class cost with which a saved task resumes (04 R111). -/
def savedCost (s : State) (k : Kernel) (v : SavedTask) : Nat := classCost s (k.record.variants.get v.ctx.launched)

/-- A saved task is ready: its pieces of the emergency area are copied and its account is settled (10 R298; 04 R115). -/
def savedReady (s : State) (v : SavedTask) : Bool := v.emPieces.isEmpty && s.settling.all fun e => e.ref != v.ref

/-- A saved task may go onto core c as far as the bindings of its groups and the core's array go (10 R299, R304). -/
def savedFits (s : State) (k : Kernel) (v : SavedTask) (c : CoreId) : Bool :=
  let array := if v.ctx.atEntry then usesM s k (k.record.variants.get v.ctx.launched) c else (getStream v.ctx .m).enabled
  boundTo k v.ref.task c.val && !((getCore s c).fence == 15 && array)

/-- The saved task resumes on core c, if it may, with the class cost of the variant with which it launched reserved
again (04 R111, R115; 10 R298, R299, R304). -/
def resumeOne (s : State) (v : SavedTask) (c : CoreId) : Option State :=
  match kernelOf s v.ref with
  | none => none
  | some k =>
    if !coreOpen s c || !savedReady s v || !savedFits s k v c then none
    else (reserve s (islandOf c) v.ref (savedCost s k v)).bind fun u => putTask u v c (savedCost s k v)

/-- RESUME on a free core: the first saved task that may resume there. -/
def resumeStep (s : State) (c : CoreId) : State := (s.disp.saved.findSome? fun v => resumeOne s v c).getD s

/-! ### The end of tasks, triggers and accounts -/

/-- The task on core c has ended: every enabled stream has, and every operation has completed (06 R163). -/
def mayEnd (s : State) (c : CoreId) : Bool :=
  let k := getCore s c
  let t := k.ctx
  k.busy && k.stop.isNone && !t.atEntry && !t.csr.inHandler && (allStreams.all fun st => !live t st)
    && readsDone s c && t.aq.stores.isEmpty && t.aq.inflight.isEmpty && t.vpend.isEmpty && t.ppend.isEmpty
    && t.m.cmd.isNone && !t.m.testing && (jobsOf s t.task).isEmpty && (samplesOf s t.task).isEmpty
    && !inSequence t && s.jwrites.all fun j => j.task != t.task

/-- The ACCESS that an issued access of the A-stream comes to: the word has retired, so that the record names the
physical address and no word (02 R51, R61). -/
def lateAccess (pa detail : Nat) : TrapInfo := { taskCause .access detail false with source := 1, faddr := vaddr 0 pa }

/-- A release of the task on core c at its kernel's scope waits for a write that the bridge has lost (02 R61). -/
def lostAtKernel (s : State) (c : CoreId) : Option StoreRec :=
  (kernelOf s (getCore s c).ctx.task).bind fun k => lostWrite s c (kernelScope k.record)

/-- A stream has passed a trigger point (14 R398). -/
def passed (t : Ctx) (p : TriggerPoint) (st : Stream) : Bool :=
  let x := getStream t st
  !x.enabled || x.ended || x.popped > p.entries || (x.popped == p.entries && x.pc.toNat > p.pc.toNat)

/-- Number n came before a trigger point; without a number there, the A-stream issues nothing after it. -/
def beforeTrigger (p : TriggerPoint) (n : Nat) : Bool := p.stamp.all fun m => n < m

/-- A write that the bridge has lost and that the release of the task's TRIGGER waits for (02 R61; 14 R398). -/
def lostAtTrigger (s : State) (c : CoreId) : Option StoreRec :=
  let t := (getCore s c).ctx
  match t.trigger, kernelOf s t.task with
  | some p, some k => if passed t p .a then
      t.aq.lost.find? fun r => beforeTrigger p r.id && !doneAt s r (kernelScope k.record)
    else none
  | _, _ => none

/-- The release at a task's end, or of its TRIGGER, faults on a write that the bridge has lost; it is not made again,
and the write is reported once (02 R61; DEDUCED 112). -/
def faultLost (s : State) (c : CoreId) (r : StoreRec) : State :=
  takeTrap (modCtx s c fun t => { t with trigger := none, aq := { t.aq with lost := [] } }) c (lateAccess r.part.pa 1)

/-- TASK_END (06 R163). -/
def taskEndStep (s : State) (c : CoreId) : State :=
  if !mayEnd s c then s
  else match lostAtKernel s c with
    | some r => faultLost s c r
    | none => endTask s c true

/-- Every stream has passed a trigger point of the task on core c, and what the A-stream issued before it has completed:
stores, atomics and APPENDs at the kernel scope, which 05 R143 widens to DEVICE at most for a dependent on this card, and
jobs and sample requests (14 R398). -/
def triggerReached (s : State) (c : CoreId) (p : TriggerPoint) : Bool :=
  let t := (getCore s c).ctx
  let scope := max 2 (((kernelOf s t.task).map fun k => kernelScope k.record).getD 0)
  [Stream.a, .v, .m, .p].all (passed t p)
    && (t.aq.stores.all fun e => match e with
      | .write r => !beforeTrigger p r.id
      | .atomic a => !beforeTrigger p a.id
      | _ => true)
    && (t.aq.inflight.all fun r => !beforeTrigger p r.id || doneAt s r scope)
    && (jobsOf s t.task).all (fun j => j.phase == .done || !beforeTrigger p (j.fence - 1))
    && (samplesOf s t.task).all fun r => !beforeTrigger p (r.fence - 1)

/-- TRIGGER_REPORT: the task's trigger point is reached (14 R398; 05 R145). -/
def triggerReport (s : State) (c : CoreId) : State :=
  match (getCore s c).busy, (getCore s c).ctx.trigger with
  | true, some p =>
    if !triggerReached s c p then s
    else match lostAtTrigger s c with
      | some r => faultLost s c r
      | none => reportTrigger s c
  | _, _ => s

/-- Settle of 04 R115 for the account a on island i: the account after, and the island, whose allowance a debit recalls
(09 R269). -/
def settleAccount (a : Account) (i : Island) : Account × Island :=
  let due := ceilDiv (jcore a).toNat 200000000 - a.settled
  let a' := { a with settled := a.settled + due, reserved := 0 }
  let i := i.metered
  if a.reserved ≥ due then
    (a', { i with total := i.total + (a.reserved - due), need := i.need - (a.reserved - due : Nat) })
  else
    let short := due - a.reserved
    let take := min short i.total
    (a', { i with
      total := i.total - take, slot := 0, need := i.need + short
      debt := min (2 ^ 32 - 1) (i.debt + (short - take)) })

/-- SETTLE: entry n of the accounts that wait is settled once its jobs and requests have completed (04 R115). -/
def settleStep (s : State) (n : Nat) : State :=
  match s.settling[n]? with
  | none => s
  | some e =>
    let open_ := (jobsOf s e.ref).any (fun j => e.last || j.phase != .withdrawn)
      || (e.last && !(samplesOf s e.ref).isEmpty) || s.jwrites.any fun j => j.task == e.ref
    if open_ then s
    else
      let (a, i) := settleAccount e.acct (getIsland s e.island)
      let s := { modIsland s e.island fun _ => i with settling := listErase s.settling n }
      if e.last then modKernel s (BitVec.ofNat 32 e.ref.kernel) fun k =>
        { k with joules := k.joules + jcore a + a.jmem }
      else
        let settle (t : Ctx) : Ctx := { t with acct := { t.acct with settled := a.settled, reserved := 0 } }
        { s with disp := { s.disp with saved := s.disp.saved.map fun v =>
          if v.ref == e.ref then { v with ctx := settle v.ctx } else v } }

/-- METER_UNIT: the island's memory meter has reached one unit (04 R116). What looks at the allowance before this event
finds the unit taken already (Island.metered). -/
def meterStep (s : State) (i : IslandId) : State :=
  if (getIsland s i).mmeter < 200000000 then s else modIsland s i Island.meterUnit

/-- A kernel's last task has ended and every account of its tasks is settled (03 R88; 04 R115). -/
def kernelDone (s : State) (k : Kernel) : Bool :=
  (unended s k).isEmpty && s.settling.all fun e => e.ref.kernel != k.num.toNat

end Sys2Proof.Machine
end

