-- ==== Sys2Proof/Machine/Csr.lean ====
section
/-!
DEFINITION. The CSRs of a core: what CSRR returns and what the write forms do (13 R365; 14 R391, R392 and the rules of
each register), and the waits for the other streams (06 R186, R187).
-/
namespace Sys2Proof.Machine

/-! ### Waits for the other streams (06 R186) -/

/-- A stream has come to the word of the S-stream in text order. -/
def passedS (t : Ctx) (st : Stream) : Bool :=
  let x := getStream t st
  !x.enabled || x.ended || (x.popped == t.steer.length && x.pc.toNat ≥ (getStream t .s).pc.toNat)

/-- An operation that stream st issued at stamp n came before the word of the S-stream (06 R186). -/
def beforeWord (t : Ctx) (st : Stream) (n : Nat) : Bool :=
  match t.ahead.find? fun e => e.1 == st && e.2.1 == (getStream t .s).pc with
  | some e => n < e.2.2
  | none => true

/-- The stamp of an entry of the store queue. -/
def sqStamp : SqEntry → Nat
  | .write r => r.id
  | .atomic a => a.id
  | .mark n => n
  | .rel n _ => n

/-- Every operation that the other streams issued before the word of the S-stream has completed: accesses, jobs and
draws of the A-stream, results of V-words and P-words, M-words with their signals, and the test of an MTEST (06 R186).
-/
def streamsIdle (s : State) (c : CoreId) : Bool :=
  let t := (getCore s c).ctx
  let a (n : Nat) : Bool := !beforeWord t .a n
  let m (x : Option TileCmd) : Bool := x.all fun x => !beforeWord t .m x.cidx.toNat
  (t.aq.loads.all fun l => a l.id) && (t.aq.stores.all fun e => a (sqStamp e)) && (t.aq.inflight.all fun r => a r.id)
    && ((jobsOf s t.task).all fun j => j.phase == .done || a (j.fence - 1))
      && ((samplesOf s t.task).all fun r => a (r.fence - 1))
    && t.vpend.isEmpty && t.ppend.isEmpty && m t.m.cmd && m t.m.mtest

/-- The wait of CSRR of VFLAGS, of writes of the views, VLC and NBV, and of JOULE; a handler does not wait (10 R284). -/
def othersDone (s : State) : Bool :=
  let t := curCtx s
  t.csr.inHandler || ([Stream.a, .v, .m, .p].all (passedS t) && streamsIdle s s.cur)

/-- The S-stream may evaluate a shared control word: its entry has room (06 R167). -/
def maySteer (t : Ctx) : Bool := t.csr.inHandler || t.steer.length < t.csr.win

/-! ### Reading -/

/-- TSTAT (10 R281). -/
def readTstat (s : State) : Nat :=
  let k := curCore s
  let c := k.ctx.csr
  bitOf c.inHandler + c.act.toNat * 2 + bitOf c.dbLost * 8 + bitOf k.ctx.warn.isSome * 16 + k.fence.toNat * 64
    + arrayMode k.fence * 1024 + bitOf (k.fence == 15) * 4096

/-- The agent of the running word is a dispatch core. -/
def onDispatchCore (s : State) : Bool := s.cur.val ≥ 64

/-- A view register that holds v (06 R179). -/
def viewValue (v : Word) : Word :=
  let stride := if bits v.toNat 43 32 = 0 then 1 else bits v.toNat 43 32
  let count := if bits v.toNat 60 48 = 0 then 1 else bits v.toNat 60 48
  BitVec.ofNat 64 (bits v.toNat 22 5 * 32 + stride * 2 ^ 32 + bits v.toNat 47 44 * 2 ^ 44 + count * 2 ^ 48)

/-- CSR number n as its field map returns it; BBASE outside a handler faults (09 R252; 13 R365). A dispatch core, which
lies in no compute island, reads 0 as its ISLANDID (DESIGN CHOICE 123). -/
def readCsr (s : State) (n : Nat) : Res Word :=
  let k := curCore s
  let t := k.ctx
  let c := t.csr
  let num (v : Nat) : Res Word := .ok (BitVec.ofNat 64 v)
  match n with
  | 0x000 => .ok c.tvec
  | 0x001 => .ok c.tcause
  | 0x002 => num (readTstat s)
  | 0x003 => num (c.trecSlot.toNat * 256)
  | 0x010 => num (c.win + t.steer.length * 256)
  | 0x011 => num (bitOf c.nbv)
  | 0x012 => .ok c.vwv
  | 0x013 => .ok c.vwt
  | 0x014 => .ok c.vwa
  | 0x015 => num c.vlc.toNat
  | 0x016 => num c.vflags.toNat
  | 0x018 => num (t.lc[0]).toNat
  | 0x019 => num (t.lc[1]).toNat
  | 0x01A => num (t.lc[2]).toNat
  | 0x01B => num (t.lc[3]).toNat
  | 0x020 => num k.fwshare.toNat
  | 0x021 => num c.sti.toNat
  | 0x030 => if onDispatchCore s then .ok 0 else .ok c.cycle
  | 0x031 => .ok c.stretch
  | 0x032 => if onDispatchCore s then .ok 0 else num c.taskId.toNat
  | 0x033 => num s.cur.val
  | 0x034 => if onDispatchCore s then .ok 0 else num (islandOf s.cur).val
  | 0x035 => if onDispatchCore s then .ok 0 else num c.varidx.val
  | 0x038 => num (c.specStop[0]).toNat
  | 0x039 => num (c.specStop[1]).toNat
  | 0x03A => num (c.specStop[2]).toNat
  | 0x03B => num (c.specStop[3]).toNat
  | 0x03C => if c.inHandler then num (c.bbase.toNat + c.bdepth.toNat * 16 + c.arrived.toNat * 512) else .fail .priv
  | _ => num s.seq.toNat

/-! ### Writing -/

/-- A write of this CSR faults with PRIV in task mode (13 R365). -/
def csrPriv (n : Nat) : Bool :=
  n == 0x001 || n == 0x020 || (0x030 ≤ n && n ≤ 0x035) || n == 0x03C || n == 0x03D

/-- A write of this CSR waits for the other streams (06 R186). -/
def csrSyncs (n : Nat) : Bool := 0x011 ≤ n && n ≤ 0x015

/-- The W1C bits of a CSR: DOORBELL-LOST of TSTAT (10 R281). -/
def csrW1c (n : Nat) : Word := if n == 0x002 then 8 else 0

/-- The CSRs of the running task with CSR n set to v through its field map (14 R391, R392). v holds, in W1C bits, the
bits to clear. -/
def putCsr (t : Ctx) (n : Nat) (v : Word) : Ctx :=
  let c := t.csr
  let put (c : Csrs) : Ctx := { t with csr := c }
  let lc (i : Nat) : Ctx := { t with lc := vset t.lc i (v.setWidth 32) }
  let stop (i : Nat) : Ctx := put { c with specStop := vset c.specStop i (v.setWidth 33) }
  match n with
  | 0x000 => put { c with tvec := v &&& ~~~ 2 }
  | 0x002 => put { c with act := if v.toNat / 2 % 4 = 3 then 2 else BitVec.ofNat 2 (v.toNat / 2)
                          dbLost := c.dbLost && !v.getLsbD 3 }
  | 0x003 => put { c with trecSlot := BitVec.ofNat 6 (v.toNat / 256) }
  | 0x010 => put { c with win := clamp 1 64 (v.toNat % 128) }
  | 0x011 => put { c with nbv := v.getLsbD 0 }
  | 0x012 => put { c with vwv := viewValue v }
  | 0x013 => put { c with vwt := viewValue v }
  | 0x014 => put { c with vwa := viewValue v }
  | 0x015 => put { c with vlc := if v.toNat % 4096 = 0 then 1 else v.setWidth 12 }
  | 0x016 => put { c with vflags := v.setWidth 7 }
  | 0x018 => lc 0
  | 0x019 => lc 1
  | 0x01A => lc 2
  | 0x01B => lc 3
  | 0x021 => put { c with sti := if v.toNat % 65536 = 0 then 1 else v.setWidth 16 }
  | 0x038 => stop 0
  | 0x039 => stop 1
  | 0x03A => stop 2
  | 0x03B => stop 3
  | _ => t

/-- CSR n of the running core set to v; FWSHARE belongs to the core (03 R95). -/
def writeCsr (s : State) (n : Nat) (v : Word) : State :=
  if n = 0x020 then modCore s s.cur fun k => { k with fwshare := if v.toNat % 8 > 4 then 4 else v.setWidth 3 }
  else modCur s fun t => putCsr t n v

/-- The three write forms of 14 R391: 0 CSRW, 1 CSRS, 2 CSRC. -/
def csrAccess (form : Nat) (d a : Fin 64) (n : Nat) (s : State) : Res State :=
  let t := curCtx s
  if !t.system && csrPriv n then .fail .priv
  else if n == 0x03C then .fail .priv
  else if csrSyncs n && !othersDone s then .wait
  else
    (readCsr { s with cur := s.cur } n).andThen fun old =>
      let x := xGet t a
      let v := if form = 0 then x else if form = 1 then old ||| x else old &&& ~~~ x
      let w := csrW1c n
      let clear := if form = 2 then 0 else x &&& w
      let s := writeCsr s n ((v &&& ~~~ w) ||| clear)
      .ok (modCur s fun t => xSet t d old)

end Sys2Proof.Machine
end

