-- ==== Sys2Proof/Machine/Scalar.lean ====
section
/-!
DEFINITION. The words of the S-stream that reach beyond its registers: scalar local memory, queues, tokens, CSRs, format
words, events, energy, traps and carry speculation (14 R386 to R398; 04 R121 to R127; 12 R340 to R349).
-/
namespace Sys2Proof.Machine

/-! ### Scalar local memory and arguments (14 R386, R387) -/

/-- The byte address of LDS and STS, checked (14 R386). -/
def slmAddr (t : Ctx) (a : Fin 64) (imm : BitVec 12) : Res Nat :=
  let ea : Int := (xGet t a).toNat + imm.toInt
  if ea < 0 || ea + 8 > 16384 then .fail .access
  else if ea % 8 != 0 then .fail .misalign
  else .ok ea.toNat

/-- LDS (14 R386). -/
def execLds (d a : Fin 64) (imm : BitVec 12) :=
  runCtx .s 4 fun t => (slmAddr t a imm).mapTo fun ea => xSet t d (BitVec.ofNat 64 (memNat t.slm ea 8))

/-- STS (14 R386). -/
def execSts (src a : Fin 64) (imm : BitVec 12) :=
  runCtx .s 4 fun t => (slmAddr t a imm).mapTo fun ea => { t with slm := memPut t.slm ea 8 (xGet t src).toNat }

/-- LDARG (14 R387). -/
def execLdarg (d : Fin 64) (n : BitVec 12) :=
  runCtx .s 4 fun t => if n.toNat > 5 then .fail .illegalWord else .ok (xSet t d (vget t.args n.toNat))

/-! ### Queues and tokens (06 R170 to R174; 14 R388, R389) -/

/-- A stream other than S is enabled; a queue that it would fill or empty faults with QUEUE otherwise (06 R172). -/
def partner (t : Ctx) (st : Stream) : Res Unit := guardTrap (getStream t st).enabled .queue

/-- QPUSH (14 R388). -/
def execQpush (src : Fin 64) (q : BitVec 5) :=
  runCtx .s 4 fun t =>
    let e : QEntry Word := ⟨xGet t src, inSpec t .s⟩
    match q.toNat with
    | 1 => (partner t .a).andThen fun _ => (guardWait (t.q.qsa.length < depth32)).mapTo fun _ =>
      modQ t fun q => { q with qsa := q.qsa ++ [e] }
    | 3 => (partner t .v).andThen fun _ => (guardWait (t.q.qb.length < depth16)).mapTo fun _ =>
      modQ t fun q => { q with qb := q.qb ++ [e] }
    | _ => .fail .illegalWord

/-- QPOP (14 R388). -/
def execQpop (d : Fin 64) (q : BitVec 5) :=
  runCtx .s 4 fun t =>
    match q.toNat with
    | 0 => (partner t .a).andThen fun _ => match headSlot t.q.qas with
      | some v => .ok (xSet (modQ t fun q => { q with qas := q.qas.tail }) d (v.setWidth 64))
      | none => .wait
    | 2 => (partner t .v).andThen fun _ => match t.q.qvs with
      | e :: r => .ok (xSet (modQ t fun q => { q with qvs := r }) d e.val)
      | [] => .wait
    | _ => .fail .illegalWord

/-- The entries of the format queue: a nest level takes two (14 R394). -/
def fmtCount (l : List (QEntry FmtEntry)) : Nat :=
  l.foldl (fun n e => n + (match e.val with
    | .format _ => 1
    | .nest _ _ _ => 2)) 0

/-- The occupancy of a queue; an entry that a load has reserved counts once it is filled (14 R388; 15 R413). -/
def occupancy (t : Ctx) (q : Nat) : Nat :=
  match q with
  | 0 => readySlots t.q.qas
  | 1 => t.q.qsa.length
  | 2 => t.q.qvs.length
  | 3 => t.q.qb.length
  | 4 => fmtCount t.q.fmt
  | 5 => readySlots t.q.qap
  | 6 => t.q.qpa.length
  | 7 => t.q.reply.length
  | _ => t.q.events.length

/-- QSTAT (14 R388). -/
def execQstat (d : Fin 64) (q : BitVec 5) :=
  runCtx .s 4 fun t =>
    if q.toNat > 8 then .fail .illegalWord else .ok (xSet t d (BitVec.ofNat 64 (occupancy t q.toNat)))

/-- TSIG (06 R174; 14 R389). -/
def execTsig (t : Fin 16) := runCtx .s 4 fun c => signalToken c t

/-- TWAIT (06 R174; 14 R389). -/
def execTwait (t : Fin 16) := runCtx .s 4 fun c => waitToken c t

/-! ### CSRs (14 R391) -/

/-- CSRR (14 R391). -/
def execCsrr (d : Fin 64) (csr : BitVec 12) :=
  runWord .s 4 fun s =>
    if csr = 0x016 && !othersDone s then .wait
    else (readCsr s csr.toNat).mapTo fun v => modCur s fun t => xSet t d v

/-- CSRW (14 R391). -/
def execCsrw (d a : Fin 64) (csr : BitVec 12) := runWord .s 4 (csrAccess 0 d a csr.toNat)
/-- CSRS (14 R391). -/
def execCsrs (d a : Fin 64) (csr : BitVec 12) := runWord .s 4 (csrAccess 1 d a csr.toNat)
/-- CSRC (14 R391). -/
def execCsrc (d a : Fin 64) (csr : BitVec 12) := runWord .s 4 (csrAccess 2 d a csr.toNat)

/-! ### Format words and the nest table (14 R393, R394; 04 R121, R125) -/

/-- A format word with the overrides of the variant in force (04 R121). -/
def overridden (t : Ctx) (w : Word) : Word :=
  let v := vget t.variants t.csr.varidx.val
  (w &&& ~~~ v.omask) ||| (v.oval &&& v.omask)

/-- The format words pushed before the first that carries a variant's overrides (04 R125). -/
def noteFormat (t : Ctx) : Ctx :=
  let v := t.csr.varidx.val
  { t with
    fmtPushed := t.fmtPushed + 1
    fmtFirst := if t.fmtFirst.any fun e => e.1 == v then t.fmtFirst else t.fmtFirst ++ [(v, t.fmtPushed)] }

/-- FMTPUSH (14 R393). -/
def execFmtpush (a : Fin 64) :=
  runCtx .s 4 fun t =>
    (partner t .m).andThen fun _ => (guardWait (fmtCount t.q.fmt < depth32)).mapTo fun _ =>
      noteFormat (modQ t fun q => { q with fmt := q.fmt ++ [⟨.format (overridden t (xGet t a)), inSpec t .s⟩] })

/-- NESTW (14 R394). -/
def execNestw (a b : Fin 64) (level : BitVec 3) :=
  runCtx .s 4 fun t =>
    if level.toNat > 5 then .fail .illegalWord
    else (partner t .m).andThen fun _ => (guardWait (fmtCount t.q.fmt + 2 ≤ depth32)).mapTo fun _ =>
      modQ t fun q => { q with fmt := q.fmt ++ [⟨.nest level.toNat (xGet t a) (xGet t b), inSpec t .s⟩] }

/-! ### Events (14 R395) -/

/-- The record at the head of the event queue goes to X[d] and X[e]; empty tells what the word does without one. -/
def popEvent (d e : Fin 64) (t : Ctx) (empty : Res Ctx) : Res Ctx :=
  match t.q.events with
  | r :: rest =>
    .ok (xSet (xSet (modQ t fun q => { q with events := rest }) d (r.val.setWidth 64)) e ((r.val >>> 64).setWidth 64))
  | [] => empty

/-- EVPOP (14 R395). -/
def execEvpop (d e : Fin 64) := runCtx .s 4 fun t => popEvent d e t (.ok (xSet (xSet t d 0) e 0))
/-- EVWAIT (14 R395). -/
def execEvwait (d e : Fin 64) := runCtx .s 4 fun t => popEvent d e t .wait

/-! ### Energy (04 R124 to R127) -/

/-- What BUDGET reads of the task's island (04 R125). The island's cores hold no part of its allowance, so that the
approximate total is the home reserve (09 R269). -/
def budgetValue (s : State) (sel : Nat) : Nat :=
  let t := curCtx s
  let i := (getIsland s (islandOf s.cur)).metered
  match sel with
  | 0 => i.total - i.slot
  | 1 => i.total
  | 2 => i.grant
  | 3 => i.op.toNat + (pendingPoint i).toNat * 16 + bitOf i.downPend * 256
  | 4 => i.debt
  | 5 => t.acct.reserved % 2 ^ 32 + t.acct.settled % 2 ^ 32 * 2 ^ 32
  | _ => match t.fmtFirst.find? fun e => e.1 == t.csr.varidx.val with
    | some e => e.2
    | none => t.fmtPushed

/-- BUDGET (04 R124, R125). The exact read recalls every allowance (09 R266, R269). -/
def execBudget (d : Fin 64) (sel : BitVec 12) :=
  runWord .s 4 fun s =>
    if sel.toNat > 6 then .fail .illegalWord
    else
      let u := if sel = 1 then modIsland s (islandOf s.cur) Island.recalled else s
      .ok (modCur u fun t => xSet t d (BitVec.ofNat 64 (budgetValue s sel.toNat)))

/-- What JOULE reads of an account (04 R126). -/
def jouleValue (a : Account) (sel : Nat) : Word :=
  match sel with
  | 0 => jcore a + a.jmem
  | 1 => jcore a
  | 2 => a.jmem
  | _ => a.cal.setWidth 64

/-- JOULE (04 R126). -/
def execJoule (d : Fin 64) (sel : BitVec 12) :=
  runWord .s 4 fun s =>
    if sel.toNat > 3 then .fail .illegalWord
    else if othersDone s then .ok (modCur s fun t => xSet t d (jouleValue t.acct sel.toNat))
    else .wait

/-- VARSEL (04 R127). -/
def execVarsel (d a : Fin 64) (imm : BitVec 12) :=
  runCtx .s 4 fun t =>
    let n : Int := (xGet t a).toInt + imm.toInt
    if inSpec t .s then .fail .specIllegal
    else if n < 0 || n > 3 || !(vget t.variants n.toNat).valid then .ok (xSet t d (BitVec.allOnes 64))
    else
      let old := BitVec.ofNat 64 t.csr.varidx.val
      .ok (xSet { t with csr := { t.csr with varidx := Fin.ofNat 4 n.toNat } } d old)

/-! ### Traps and triggers (14 R396 to R398) -/

/-- TRAP: SOFTWARE, with the word retired (14 R396). -/
def execTrap (imm : BitVec 12) (s : State) : Host.Outcome State Fault Refusal :=
  if runs s then
    let s := retire s .s 4
    .next (takeTrap s s.cur { wordTrap s .s .software 0 (imm.setWidth 72) 0 with status := 0 })
  else .fault .noTask

/-- RETT (10 R286; 14 R397). -/
def execRett (s : State) : Host.Outcome State Fault Refusal :=
  if runs s then
    match (curCtx s).csr.inHandler, (curCtx s).handling with
    | true, some h => .next (returnFromHandler (retire s .s 4) s.cur h)
    | _, _ => .next (takeTrap s s.cur (wordTrap s .s .priv 0 0 4))
  else .fault .noTask

/-- The place in text order of the word that the S-stream executes: in a handler, that before the word at which it
resumes (10 R284). -/
def textPlace (t : Ctx) : Word :=
  match t.csr.inHandler, t.handling with
  | true, some h => h.rpc - 4
  | _, _ => (getStream t .s).pc

/-- TRIGGER: the task's first fixes its trigger point; where the A-stream has come past it already, what it had issued by
then lies before it (14 R398). -/
def execTrigger :=
  runCtx .s 4 fun t =>
    if inSpec t .s then .fail .specIllegal
    else if t.triggered then .ok t
    else
      let pc := textPlace t
      let seen := (t.ahead.find? fun e => e.1 == .a && e.2.1 == pc).map fun e => e.2.2
      .ok { t with trigger := some ⟨t.steer.length, pc, seen⟩, triggered := true }

/-! ### Carry speculation (12 R340 to R349) -/

/-- The word after a speculation word, decoded; it must be the shared control word that ok accepts (12 R340). -/
def followedBy (s : State) (ok : Instr → Bool) : Res State :=
  let pc := (getStream (curCtx s) .s).pc + 4
  match fetchParcel s s.cur (curCtx s).asid pc.toNat with
  | (none, _) => .trap .access 3 (vaddr 0 pc.toNat)
  | (some p, s) => match decodeTableWord 32 p.toNat with
    | some i => if ok i then .ok s else .fail .illegalWord
    | none => .fail .illegalWord

/-- CALL on p0 with NEG 0. -/
def isCallAlways : Instr → Bool
  | .call p neg _ => p == 0 && !neg
  | _ => false

/-- NOPX. -/
def isNopx : Instr → Bool
  | .nopx _ => true
  | _ => false

/-- The values of SPECSTOP0 to SPECSTOP3 whose EN is 1, with their indices (12 R341). -/
def stopSet (c : Csrs) : List (Nat × BitVec 32) :=
  (c.specStop.toList.zipIdx.filter fun e => e.1.getLsbD 32).map fun e => (e.2, e.1.setWidth 32)

/-- What a discard of a round that begins here restores (12 R349). -/
def snapshotRound (t : Ctx) : SpecSnap :=
  { x := t.x, pr := t.pr, lc := t.lc, a := t.a, k := t.k, ret := t.streams.map fun x => x.ret, pc := (getStream t .s).pc }

/-- SPECON (12 R340, R341). -/
def execSpecon (j c : Fin 64) (n : BitVec 4) :=
  runWord .s 4 fun s =>
    (followedBy s isCallAlways).andThen fun s =>
      let t := curCtx s
      let cv := (xGet t c).toNat
      if n = 0 then .fail .illegalWord
      else if inSpec t .s then .fail .specIllegal
      else if cv % 64 != 0 || cv < 0x400000 || cv + 4 * (n.toNat + 1) > 0x440000 then .fail .operandRange
      else
        let r : Round := ⟨(getStream t .s).cidx, n.toNat, cv, xGet t j, stopSet t.csr⟩
        .ok (modCur s fun t => { t with spec := { t.spec with
          rounds := t.spec.rounds.set 0 (some r)
          snap := some (snapshotRound t)
          arm := .enter r } })

/-- The S-stream leaves its round, with what the A-stream has still to do about it (12 R342, R347). -/
def closeRound (t : Ctx) (x : Closing) : Ctx :=
  { t with spec := { t.spec with
    rounds := t.spec.rounds.set 0 none
    snap := none
    arm := .leave
    closings := if live t .a then t.spec.closings ++ [x] else t.spec.closings } }

/-- The next ACCEPT entry of a journal in replay mode: L of the commit, l where the journal does not force it (12
R339). -/
def forcedLength (s : State) (io : EngIo) (w : Acc0) (journal l : Nat) : Eng Nat :=
  (headerPart s io w journal).andThen fun p io s => (headerRead s io w p).andThen fun h io s =>
    if !bit h 96 then .ok l io s
    else
      let first := bits h 95 64
      (journalFirst w journal (fun e => bits e 39 32 == 3) (bits h 63 32 - first) first s io).andThen fun e io s =>
        match e with
        | some (i, e) =>
          let (io, s) := headerPut s io w p 8 4 (i + 1)
          .ok (bits e 55 48) io s
        | none =>
          let (io, s) := headerPut s io w p 12 1 (bits h 103 96 ||| 4)
          .ok l io s

/-- L of a SPECCOMMIT: that of X[a], or in replay mode that of the next ACCEPT entry, for which the word waits while the
peer has still to answer (12 R339, R347). -/
def commitLength (s : State) (journal : Nat) (l : Nat) : Res (Nat × State) :=
  let io := (curCore s).jio
  let w : Acc0 := ⟨agentOf s.cur, (curCtx s).asid, s.cur.val, funcOf s s.cur⟩
  if journal = 0 then .ok (l, s)
  else if !io.atoms.isEmpty then .wait
  else match forcedLength s io w journal l with
    | .ok l io s =>
      .ok (l, modCore (chargeIo s s.cur io) s.cur fun k => { k with jio := { EngIo.none with atoms := io.atoms } })
    | .need lines =>
      let (io, s) := askLines s s.cur io lines
      .waitAs (modCore s s.cur fun k => { k with jio := io })
    | .again io s => .again (modCore s s.cur fun k => { k with jio := io })
    | _ => .ok (l, modCore (chargeIo s s.cur io) s.cur fun k => { k with jio := EngIo.none })

/-- A word that closes a round retires, and then a deferred warning is delivered (04 R122; 12 R342). -/
def runClosing (f : State → Res State) (s : State) : Host.Outcome State Fault Refusal :=
  if runs s then
    .next (settleWord s .s 4 (f s) fun s => deliverWarn (retire s .s 4) s.cur)
  else .fault .noTask

/-- SPECCOMMIT (12 R340, R347). -/
def execSpeccommit (d a : Fin 64) :=
  runClosing fun s =>
    match roundOf (curCtx s) .s with
    | none => .fail .illegalWord
    | some r =>
      (followedBy s isNopx).andThen fun s =>
        let x := (xGet (curCtx s) a).toNat
        (commitLength s r.journal.toNat (x % 16)).andThen fun (l, s) =>
        if l > r.n then .fail .specIllegal
        else .ok (modCur s fun t =>
          xSet (closeRound t ⟨r, true, l, bit x 4, false⟩) d (BitVec.ofNat 64 l))

/-- SPECABORT (12 R340, R347). -/
def execSpecabort :=
  runClosing fun s =>
    match roundOf (curCtx s) .s with
    | none => .fail .illegalWord
    | some r => (followedBy s isNopx).mapTo fun s => modCur s fun t => closeRound t ⟨r, false, 0, false, false⟩

end Sys2Proof.Machine
end

