-- ==== Sys2Proof/Machine/Control.lean ====
section
/-!
DEFINITION. Shared control words: their evaluation by the S-stream, and what the other streams do at them (06 R161, R164
to R169; 14 R403 to R406; 12 R342).
-/
namespace Sys2Proof.Machine

/-- Kinds of steering entries: the sub-operations of 13 R355. -/
inductive Steer
  | nopx | br | loop | call | calli | ret | yield | endw
  deriving DecidableEq, Repr

/-- The sub-operation code (13 R355). -/
def Steer.code : Steer → BitVec 4
  | .nopx => 0 | .br => 1 | .loop => 2 | .call => 3 | .calli => 4 | .ret => 5 | .yield => 6 | .endw => 7

/-- The target of a BR, LOOP or CALL at pc (06 R165). -/
def branchTarget (pc : Word) (off : BitVec 16) : Word := pc + off.signExtend 64 <<< 2

/-! ### The steering queue (06 R165 to R169) -/

/-- The streams other than S that are enabled and have not ended. -/
def followers (t : Ctx) : List Stream := [Stream.a, .v, .m, .p].filter (live t)

/-- Entries that the slowest follower has popped are no longer held (06 R167). -/
def dropHeld (t : Ctx) : Ctx :=
  let m := (followers t).foldl (fun m st => min m (getStream t st).popped) t.steer.length
  { t with
    steer := t.steer.drop m
    streams := t.streams.map fun x => { x with popped := x.popped - m }
    trigger := t.trigger.map fun p => if p.entries < m then { p with entries := 0, pc := 0 }
      else { p with entries := p.entries - m } }

/-- The S-stream pushes an entry, which no stream keeps when none follows; none is pushed in a handler, whose words
leave what the next entry does to speculative mode as it is (06 R164, R167; 12 R342; 14 R403). -/
def pushSteer (t : Ctx) (e : SteerEntry) : Ctx :=
  if t.csr.inHandler then t
  else
    let t := { t with spec := { t.spec with arm := .plain } }
    if (followers t).isEmpty then t else { t with steer := t.steer ++ [e] }

/-- The depth of the S-stream's return stack (06 R165; 10 R284). -/
def stackDepth (t : Ctx) : Nat := if t.csr.inHandler then 8 else 32

/-- QUEUE at a full or an empty return stack: DETAIL 2 in a handler (06 R166; 10 R284). -/
def stackFault {α : Type} (t : Ctx) : Res α := .trap .queue (if t.csr.inHandler then 2 else 0) 0

/-! ### The other streams (06 R164, R165; 12 R342) -/

/-- The next PC of a stream that applies an entry at a word, and its return stack after. -/
def followTarget (k : Steer) (off : BitVec 16) (e : SteerEntry) (pc : Word) (ret : List Word) : Word × List Word :=
  if !e.taken then (pc + 4, ret)
  else match k with
    | .br => (branchTarget pc off, ret)
    | .loop => (branchTarget pc off, ret)
    | .call => (branchTarget pc off, (pc + 4) :: ret)
    | .calli => (e.target, (pc + 4) :: ret)
    | .ret => (ret.headD 0, ret.tail)
    | .yield => (e.target, ret)
    | .nopx => (pc + 4, ret)
    | .endw => (pc + 4, ret)

/-- The stream's part of what a discard of the S-stream's round restores, as it enters that round (12 R349). -/
def snapStream (t : Ctx) (st : Stream) (p : SpecSnap) : SpecSnap :=
  { p with
    a := if st = .a then t.a else p.a
    k := if st = .v then t.k else p.k
    ret := p.ret.set (sIdx st).val (getStream t st).ret (sIdx st).isLt }

/-- A stream enters or leaves speculative mode with the entry it pops (12 R342). -/
def applyMark (t : Ctx) (st : Stream) (m : SteerMark) : Ctx :=
  let set (r : Option Round) : Spec := { t.spec with rounds := t.spec.rounds.set (sIdx st).val r (sIdx st).isLt }
  match m with
  | .plain => t
  | .leave => { t with spec := set none }
  | .enter r =>
    let t' := { t with spec := set (some r) }
    if inLastRound t' st then { t' with spec := { t'.spec with snap := t'.spec.snap.map (snapStream t st) } } else t'

/-- The A-stream applies the commit or abort of the round that it leaves, after the release of a commit (12 R347). -/
def leaveRoundA (s : State) : Res State :=
  let t := curCtx s
  match t.spec.closings with
  | [] => .ok s
  | x :: r =>
    let ready := match x.applied || !x.commit, commitScope t with
      | false, some scope => release s scope
      | _, _ => .ok ()
    ready.mapTo fun _ =>
      let s := applyClosing s s.cur x
      modCur s fun t => { t with spec := { t.spec with closings := r } }

/-- Every stream has reached the YIELD that was taken (10 R296). -/
def yieldReached (t : Ctx) : Bool :=
  match t.yieldPhase with
  | .taken _ _ _ => (followers t).all fun st => (getStream t st).popped == t.steer.length
  | _ => false

/-- The core stops at the taken YIELD once every stream is there. -/
def stopAtYield (s : State) (c : CoreId) : State :=
  if yieldReached (getCore s c).ctx then takeTrap s c (taskCause .preempt 1 false) else s

/-- A stream other than S at a shared control word: it waits for its entry, takes it and passes the word in one step
(06 R164, R169). -/
def followWord (st : Stream) (k : Steer) (off : BitVec 16) (s : State) : Host.Outcome State Fault Refusal :=
  if !runs s then .fault .noTask
  else match replayGate s st with
    | some s => .next s
    | none =>
      let t := curCtx s
      let x := getStream t st
      match t.steer[x.popped]? with
      | none => .next (waitWord s st 4)
      | some e =>
        match (if st = .m && k = .endw && e.taken then endGate s else none) with
        | some s => .next s
        | none =>
          let r := if st = .a && e.mark = .leave then leaveRoundA s else .ok s
          .next (settleWord s st 4 r fun s =>
            let (pc, ret) := followTarget k off e x.pc x.ret
            let s := modCur s fun t =>
              let t := modStream (applyMark t st e.mark) st fun x =>
                { x with ret := ret, popped := x.popped + 1, ended := k == .endw && e.taken }
              dropHeld { t with ahead := t.ahead.filter fun e => e.1 != st }
            stopAtYield (retireAt s st pc) s.cur)

/-! ### The S-stream (14 R403, R406) -/

/-- What the S-stream's evaluation of a word fixes: TAKEN, the entry's TARGET, the next PC, and its changes. -/
structure Evaluated where
  taken  : Bool
  target : Word
  next   : Word
  task   : Ctx

/-- A word that goes to its target when cond holds. -/
def goIf (cond : Bool) (target pc : Word) (t : Ctx) : Evaluated := ⟨cond, 0, if cond then target else pc + 4, t⟩

/-- The S-stream evaluates a word and pushes its entry (14 R403). -/
def steerWord (k : Steer) (f : Ctx → Word → Res Evaluated) (s : State) : Host.Outcome State Fault Refusal :=
  if !runs s then .fault .noTask
  else
    let t := curCtx s
    let pc := (getStream t .s).pc
    if !maySteer t then .next (waitWord s .s 4)
    else match f t pc with
      | .ok e =>
        let entry : SteerEntry := ⟨e.taken, k.code, e.target, t.spec.arm⟩
        let s := modCur s fun _ => modStream (pushSteer e.task entry) .s fun x =>
          { x with ended := k == .endw && e.taken }
        .next (stopAtYield (retireAt s .s e.next) s.cur)
      | r => .next (settleWord s .s 4 (r.mapTo fun _ => s) id)

/-- A shared control word: evaluated by the S-stream, followed by the others. -/
def sharedWord (k : Steer) (off : BitVec 16) (f : Ctx → Word → Res Evaluated) (s : State) :
    Host.Outcome State Fault Refusal :=
  match s.curStream with
  | .s => steerWord k f s
  | st => followWord st k off s

/-- The entry word enables the streams and retires as no stream's word (06 R161). -/
def enterTask (s : State) (streams : BitVec 4) : State :=
  modCur s fun t =>
    { t with
      atEntry := false
      streams := Vector.ofFn fun (i : Fin 5) =>
        { StreamState.off with pc := t.entry + 4, enabled := i = 0 || streams.getLsbD (i.val - 1) } }

/-- NOPX, and the entry word of a task (06 R161; 14 R403). -/
def execNopx (streams : BitVec 4) (s : State) : Host.Outcome State Fault Refusal :=
  if runs s && (curCtx s).atEntry then .next (enterTask s streams)
  else sharedWord .nopx 0 (fun t pc => .ok (goIf false pc pc t)) s

/-- The condition P[p] XOR neg (14 R403). -/
def condition (t : Ctx) (p : Fin 8) (neg : Bool) : Bool := pGet t p != neg

/-- BR (14 R403). -/
def execBr (p : Fin 8) (neg : Bool) (off : BitVec 16) :=
  sharedWord .br off fun t pc => .ok (goIf (condition t p neg) (branchTarget pc off) pc t)

/-- LOOP (14 R403). -/
def execLoop (lc : Fin 4) (off : BitVec 16) :=
  sharedWord .loop off fun t pc =>
    let n := t.lc.get lc
    if n = 0 then .ok (goIf false pc pc t)
    else .ok (goIf (n - 1 != 0) (branchTarget pc off) pc { t with lc := t.lc.set lc.val (n - 1) lc.isLt })

/-- The S-stream's return stack with an address pushed (06 R165, R166). -/
def pushReturn (t : Ctx) (a : Word) : Res Ctx :=
  if (getStream t .s).ret.length ≥ stackDepth t then stackFault t
  else .ok (modStream t .s fun x => { x with ret := a :: x.ret })

/-- CALL (14 R403). -/
def execCall (p : Fin 8) (neg : Bool) (off : BitVec 16) :=
  sharedWord .call off fun t pc =>
    if condition t p neg then (pushReturn t (pc + 4)).mapTo fun t => goIf true (branchTarget pc off) pc t
    else .ok (goIf false pc pc t)

/-- CALLI (14 R403). -/
def execCalli (a : Fin 64) :=
  sharedWord .calli 0 fun t pc =>
    let target := xGet t a
    if target.toNat % 4 != 0 then .trap .misalign 0 (vaddr 0 target.toNat)
    else (pushReturn t (pc + 4)).mapTo fun t => ⟨true, target, target, t⟩

/-- RET (14 R403). -/
def execRet (p : Fin 8) (neg : Bool) :=
  sharedWord .ret 0 fun t pc =>
    if condition t p neg then
      match (getStream t .s).ret with
      | [] => stackFault t
      | a :: r => .ok ⟨true, a, a, modStream t .s fun x => { x with ret := r }⟩
    else .ok (goIf false pc pc t)

/-- END; a taken END in a handler is no word (14 R403, R406). -/
def execEndw (p : Fin 8) (neg : Bool) :=
  sharedWord .endw 0 fun t pc =>
    let taken := condition t p neg
    if taken && t.csr.inHandler then .fail .illegalWord else .ok ⟨taken, 0, pc + 4, t⟩

/-! ### YIELD (14 R405; 10 R296, R297) -/

/-- TEXTBASE of the task on core c (05 R131). -/
def textBaseOf (s : State) (c : CoreId) : Nat :=
  match kernelOf s (getCore s c).ctx.task with
  | some k => (vget s.slots k.slot.val).textBase.toNat * 2 ^ 21
  | none => 0

/-- n parcels of the yield table as one number, read by instruction fetch (14 R405). -/
def yieldTable (s : State) (n off : Nat) : Except Nat Nat × State :=
  fetchWord s s.cur (curCtx s).asid n ((textBaseOf s s.cur + 2 ^ 64 - 4096 + off) % 2 ^ 64)

/-- The pre-emption that waits for this YIELD: none, or the taken pair i, or a table that makes it fall back. -/
inductive YieldEnd
  | pass
  | taken (save restore : Word)
  | fall

/-- Entry i of the yield table, none where it cannot be read or breaks the layout: its offsets are multiples of 4 and
its other bytes zero. -/
def yieldEntry (s : State) (i : Nat) : Option Nat :=
  match (yieldTable s 4 (16 + 16 * i)).1 with
  | .ok e => if bits e 127 64 = 0 && e % 4 = 0 && bits e 63 32 % 4 = 0 then some e else none
  | .error _ => none

/-- A yield table of count entries is laid out as 14 R405 states. -/
def yieldTableOk (s : State) (count : Nat) : Bool :=
  count ≤ 255 && (match (yieldTable s 4 0).1 with
    | .ok head => bits head 127 32 = 0
    | .error _ => false) && (List.range count).all fun i => (yieldEntry s i).isSome

/-- Pair i of the yield table, of count entries, for a pending pre-emption (14 R405). -/
def yieldPair (s : State) (count i : Nat) : YieldEnd :=
  match yieldTableOk s count, yieldEntry s i with
  | true, some e =>
    let base := textBaseOf s s.cur
    .taken (BitVec.ofNat 64 (base + bits e 31 0)) (BitVec.ofNat 64 (base + bits e 63 32))
  | _, _ => .fall

/-- What YIELD i makes of a pre-emption: it is taken only for one that is pending, outside speculative mode and
handlers. -/
def yieldTaken (s : State) (count i : Nat) : YieldEnd :=
  let t := curCtx s
  if t.yieldPhase = .asked && !inSpec t .s && !t.csr.inHandler then yieldPair s count i else .pass

/-- The S-stream's evaluation of YIELD i, which reads COUNT, taken or not, in a handler too (14 R405). -/
def steerYield (i : BitVec 16) (s : State) : Host.Outcome State Fault Refusal :=
  if !maySteer (curCtx s) then steerWord .yield (fun t pc => .ok (goIf false pc pc t)) s
  else match yieldTable s 1 0 with
    | (.error a, s') =>
      if runs s then .next (takeTrap s' s.cur (wordTrap s .s .access 3 (vaddr 0 a) 4)) else .fault .noTask
    | (.ok count, s) =>
      let illegal : Ctx → Word → Res Evaluated := fun _ _ => .fail .illegalWord
      if i.toNat ≥ count then steerWord .yield illegal s
      else match yieldTaken s count i.toNat with
        | .pass => steerWord .yield (fun t pc => .ok (goIf false pc pc t)) s
        | .taken save restore => steerWord .yield (fun t pc =>
            .ok ⟨true, save, save, { t with yieldPhase := .taken save restore (pc + 4) }⟩) s
        | .fall => match steerWord .yield (fun t pc => .ok (goIf false pc pc { t with yieldPhase := .none })) s with
          | .next s => .next (if (curCtx s).yieldPhase = .none then takeTrap s s.cur (taskCause .preempt 2 false)
            else s)
          | r => r

/-- YIELD (14 R405). -/
def execYield (i : BitVec 16) (s : State) : Host.Outcome State Fault Refusal :=
  match s.curStream with
  | .s => steerYield i s
  | st => followWord st .yield 0 s

end Sys2Proof.Machine
end

