-- ==== Sys2Proof/Machine/Addresses.lean ====
section
/-!
DEFINITION. The frame of an A-word, its address forms, and the words that compute addresses (15 R407 to R411).
-/
namespace Sys2Proof.Machine

/-! ### The frame of an A-word -/

/-- An A-word that reads or writes the registers named: it waits while a load or an atomic in flight will write one of
them (06 R184; 15 R407), and faults in speculative mode unless specOk (12 R348; 15 R439). -/
def accessWord (specOk : Bool) (regs : List (Fin 32)) (f : State → Res State) : State → Host.Outcome State Fault Refusal :=
  runWord .a 4 fun s =>
    let t := curCtx s
    if !specOk && inSpec t .a then .fail .specIllegal
    else if regs.all (aReady t) then f s
    else .wait

/-- An A-word whose effect stays within the task's own state. -/
def addressWord (regs : List (Fin 32)) (f : Ctx → Res Ctx) : State → Host.Outcome State Fault Refusal :=
  accessWord true regs fun s => (f (curCtx s)).mapTo fun t => modCur s fun _ => t

/-- EA of 15 R408. -/
def effective (b : VAddr) (disp : Int) : Res VAddr :=
  let o : Int := (offset b : Int) + disp
  if o < 0 || o > 2 ^ 64 - 1 then .trap .region 0 (vaddr (region b) (wrap 64 o)) else .ok (vaddr (region b) o.toNat)

/-- SOff of 15 R409: the offset of a register read as a signed word. -/
def signedOff (r : VAddr) : Int := signed 64 (offset r)

/-! ### Arithmetic (15 R409) -/

/-- ANOP (15 R409). -/
def execAnop := addressWord [] fun t => .ok t

/-- AADD (15 R409). -/
def execAadd (d b c : Fin 32) :=
  addressWord [d, b, c] fun t => (effective (aGet t b) (signedOff (aGet t c))).mapTo fun v => aSet t d v

/-- AADDI (15 R409). -/
def execAaddi (d b : Fin 32) (imm : BitVec 14) :=
  addressWord [d, b] fun t => (effective (aGet t b) imm.toInt).mapTo fun v => aSet t d v

/-- ASUB (15 R409). -/
def execAsub (d b c : Fin 32) :=
  addressWord [d, b, c] fun t => (effective (aGet t b) (-signedOff (aGet t c))).mapTo fun v => aSet t d v

/-- ASHADD (15 R409). -/
def execAshadd (d b c : Fin 32) (sh : BitVec 6) :=
  addressWord [d, b, c] fun t =>
    (effective (aGet t b) (signedOff (aGet t c) * (2 ^ sh.toNat : Nat))).mapTo fun v => aSet t d v

/-- AMOVI (15 R409). -/
def execAmovi (d b : Fin 32) (r : BitVec 8) :=
  addressWord [d, b] fun t => .ok (aSet t d (vaddr r.toNat (offset (aGet t b))))

/-- ARELOC (15 R409). -/
def execAreloc (d : Fin 32) (n : Fin 8) := addressWord [d] fun t => .ok (aSet t d (t.rl.get n))

/-! ### Moves to and from the S-stream (15 R410) -/

/-- A 64-bit value pushed to qas, which waits while it is full. -/
def pushQas (t : Ctx) (v : Nat) : Res Ctx :=
  (guardWait (t.q.qas.length < depth32)).mapTo fun _ =>
    modQ t fun q => { q with qas := q.qas ++ [fullSlot (BitVec.ofNat 2048 v) (inSpec t .a)] }

/-- AMOVQ (15 R410). -/
def execAmovq (d b : Fin 32) (f : BitVec 2) :=
  addressWord [d, b] fun t =>
    match f.toNat with
    | 0 => match t.q.qsa with
      | e :: r => .ok (aSet (modQ t fun q => { q with qsa := r }) d (vaddr (region (aGet t b)) e.val.toNat))
      | [] => .wait
    | 1 => pushQas t (offset (aGet t b))
    | 2 => pushQas t (region (aGet t b))
    | _ => .fail .illegalWord

/-! ### Append windows (15 R411; 12 R345) -/

/-- AREG, read form (15 R411). -/
def execAregRead (d : Fin 32) (w : BitVec 2) (n : Fin 4) :=
  addressWord [d] fun t =>
    if w = 3 then .fail .illegalWord else .ok (aSet64 t d (vget (t.windows.get n) w.toNat).toNat)

/-- A value that word 1 of a window accepts (15 R411). -/
def windowOk (v : Nat) : Bool := bits v 7 0 ≤ 0xEF && bits v 10 8 ≤ 4 && bits v 15 12 == 0 && bits v 31 16 % 8 == 0

/-- AREG, write form (15 R411). -/
def execAregWrite (b : Fin 32) (w : BitVec 2) (n : Fin 4) :=
  accessWord (w = 3) [b] fun s =>
    let t := curCtx s
    let v := offset (aGet t b)
    let old := t.windows.get n
    let put (x : Vector Word 3) : Res State :=
      .ok (modCur s fun t => { t with windows := t.windows.set n.val x n.isLt })
    match w.toNat with
    | 0 => put (old.set 0 (BitVec.ofNat 64 v))
    | 1 => if windowOk v then put (old.set 1 (BitVec.ofNat 64 v)) else .fail .access
    | 2 => put (winSet old (v % 2 ^ 32) (winOff old))
    | _ => .fail .illegalWord

end Sys2Proof.Machine
end

