-- ==== Sys2Proof/Machine/Governor.lean ====
section
/-!
DEFINITION. The governor: budgets and grants, the step at an interval boundary, throttling, holds and escalation
(04 R96 to R119; 01 R20).
-/
namespace Sys2Proof.Machine

/-! ### Budget and grants (01 R20; 04 R98 to R101) -/

/-- The terms of the board power limit other than the contract's sustained watts (01 R20). -/
def otherLimits (s : State) : List Nat := [s.gov.plimit, s.pkg.connector + 75] ++ s.pkg.bmcLimit.toList

/-- The least of a limit and others. -/
def leastOf (a : Nat) (l : List Nat) : Nat := l.foldl min a

/-- The one-second envelope applies (04 R99). -/
def envelopeApplies (s : State) : Bool :=
  let c := s.pkg.contract
  c.envelope > c.sustained && c.sustained ≤ leastOf c.sustained (otherLimits s)
    && decide (s.gov.charged.foldl (· + ·) (0 : Int) ≤ (c.sustained * 1000000 / 200 : Nat))

/-- The card budget of an interval, and whether the envelope raised it (04 R98, R99, R106). -/
def cardBudget (s : State) : Nat × Bool :=
  let c := s.pkg.contract
  let of (p : Nat) := p * s.gov.gint / 200
  let plain := of (leastOf c.sustained (otherLimits s))
  if envelopeApplies s then
    let raised := of (leastOf c.envelope (otherLimits s))
    (raised, raised > plain)
  else (plain, false)

/-- n units given one each, from island first on and around, to the islands of l; fuel bounds the visits (04 R101). -/
def leftovers (l : List Nat) : (fuel : Nat) → (n i : Nat) → List Nat → List Nat
  | 0, _, _, g => g
  | fuel + 1, n, i, g =>
    if n = 0 then g
    else if l.contains (i % 16) then leftovers l fuel (n - 1) (i + 1) (listMod g (i % 16) (· + 1))
    else leftovers l fuel n (i + 1) g

/-- The sum of a list. -/
def total (l : List Nat) : Nat := l.foldl (· + ·) 0

/-- The grants of interval k from a units (04 R101). -/
def grants (s : State) (a k : Nat) : List Nat :=
  let isl (i : Nat) := getIsland s (Fin.ofNat 16 i)
  let all := List.range 16
  let fix (i : Nat) := (isl i).gfix.toNat
  let weight (i : Nat) := (isl i).weight.toNat
  let sf := total (all.map fix)
  let free := all.filter fun i => fix i == 0
  let sw := total (free.map weight)
  if sf ≤ a then
    let share (i : Nat) := if fix i != 0 then fix i else if sw = 0 then 0 else (a - sf) * weight i / sw
    let g := all.map share
    let left := if sw = 0 then 0 else a - total g
    leftovers (free.filter fun i => weight i != 0) (16 * (left + 1)) left k g
  else
    let g := all.map fun i => a * fix i / sf
    leftovers (all.filter fun i => fix i != 0) (16 * (a - total g + 1)) (a - total g) k g

/-! ### Operating points (04 R97, R109, R110) -/

/-- The decided change of an island's operating point takes effect (04 R97). -/
def switchPoint (s : State) (i : IslandId) : State :=
  modIsland s i fun il => { il with op := il.opNext.getD il.op, opNext := none }

/-- Island i steps to a point. -/
def stepTo (s : State) (i : IslandId) (op : BitVec 4) : State := modIsland s i fun il => { il with opNext := some op }

/-- The cores of island i. -/
def coresOf (i : IslandId) : List CoreId := ((List.range 64).map coreOf).filter fun c => islandOf c == i

/-- A step-down of island i is marked, counted in WARNS and sent to its tasks (04 R109, R122). -/
def markDown (s : State) (i : IslandId) (forced : Bool) : State :=
  let s := modIsland s i fun il =>
    { il with downPend := true, downForced := forced, warns := if il.warns = 0xFFFF then il.warns else il.warns + 1 }
  (coresOf i).foldl warnTask s

/-- EvaluateThrottle of 04 R102: need is N of the interval that ended, t the new total; hot and warm tell that a sensor
reads at or above the junction limit, or less than 5 °C below it (04 R100). -/
def evaluateThrottle (s : State) (i : IslandId) (t : Nat) (need : Int) (hot warm : Bool) : State :=
  let il := getIsland s i
  let was := il.downPend
  let short := need > (t : Int) || hot
  let s := modIsland s i fun il => { il with downPend := false, downForced := false }
  if il.op < il.opmin then stepTo s i (il.op + 1)
  else
    let down := was && il.op > il.opmin && (il.downForced || short)
    let s := if down then stepTo s i (il.op - 1) else s
    let op := if down then il.op - 1 else il.op
    if op > il.opmax then markDown s i true
    else if op > il.opmin && short then markDown s i false
    else if !was && (t : Int) ≥ 2 * need && op < il.opmax && !warm && !hot then stepTo s i (op + 1)
    else s

/-! ### The boundary step (04 R102) -/

/-- The boundary step of island i with its grant g; its allowance is recalled (09 R269). -/
def boundaryStep (s : State) (i : IslandId) (g : Nat) (hot warm : Bool) : State :=
  let il := getIsland s i
  let applied := g - il.debt
  let (moved, esc) := match il.esc with
    | some (r, need, res) =>
      let m := min (il.total + applied) (need - res)
      (m, some (r, need, res + m))
    | none => (0, none)
  let t := min (il.total + applied - moved) (2 * g)
  let s := modIsland s i fun il =>
    { il with total := t, slot := 0, totalAt := t, grant := g, debt := il.debt - g, esc := esc, need := moved }
  evaluateThrottle s i t il.need hot warm

/-! ### Holds and escalation (04 R117 to R119) -/

/-- Task t of kernel k is held: it is ready, its launch variant is covered by no island of a free core that may take it,
and no other variant that the dispatcher may launch instead is covered either (04 R117). -/
def heldTask (s : State) (k : Kernel) (t : Nat) : Bool :=
  let hw := vget s.disp.hwqs k.hwq
  hw.mapped && !hw.frozen && taskMayStart s k t && heldFor s k t (classCost s (k.record.variants.get k.record.lvar))
    && (variantOrder k.record).all fun v => !variantCovered s k t v

/-- A saved task that is ready and waits for its reservation alone is held (04 R117; 10 R299). -/
def heldSaved (s : State) (v : SavedTask) : Bool :=
  match kernelOf s v.ref with
  | some k =>
    let cs := ((List.range 64).map coreOf).filter fun c => coreOpen s c && savedFits s k v c
    savedReady s v && cs != [] && cs.all fun c => allowanceTotal s (islandOf c) < savedCost s k v
  | none => false

/-- The hold count of task t of kernel k. -/
def holdCount (k : Kernel) (t : Nat) : Nat := ((k.holds.find? fun h => h.1 == t).map fun h => h.2).getD 0

/-- Hold counts rise at a boundary for the tasks that are held (04 R118). -/
def countHolds (s : State) : State :=
  let rise (k : Kernel) : Kernel :=
    let held := (unstarted s k).filter (heldTask s k)
    { k with holds := (k.holds.filter fun h => !held.contains h.1) ++ held.map fun t => (t, holdCount k t + 1) }
  { s with disp := { s.disp with
    kernels := s.disp.kernels.map rise
    saved := s.disp.saved.map fun v => if heldSaved s v then { v with hold := v.hold + 1 } else v } }

/-- A held task that has waited for 8 boundaries: its count, hardware queue and kernel, and its cost (04 R118). -/
structure Held where
  count  : Nat
  queue  : Nat
  ref    : TaskRef
  kernel : Kernel
  cost   : Nat

/-- Held task a comes before b for the role of an escalated task (04 R118). -/
def Held.before (a b : Held) : Bool :=
  a.count > b.count || (a.count == b.count && (a.queue < b.queue || (a.queue == b.queue
    && (a.ref.kernel < b.ref.kernel || (a.ref.kernel == b.ref.kernel && a.ref.task < b.ref.task)))))

/-- A held task put in its place. -/
def placeHeld (a : Held) : List Held → List Held
  | [] => [a]
  | b :: r => if b.before a then b :: placeHeld a r else a :: b :: r

/-- The held tasks with a count of 8 or more, in the order of 04 R118. -/
def escalationOrder (s : State) : List Held :=
  let heads := s.disp.kernels.flatMap fun k =>
    ((unstarted s k).filter fun t => holdCount k t ≥ 8 && heldTask s k t).map fun t =>
      (⟨holdCount k t, k.hwq, ⟨k.num.toNat, t⟩, k, classCost s (k.record.variants.get k.record.lvar)⟩ : Held)
  let saved := s.disp.saved.filterMap fun v => match kernelOf s v.ref with
    | some k => if heldSaved s v then some (⟨v.hold, k.hwq, v.ref, k, savedCost s k v⟩ : Held) else none
    | none => none
  ((saved ++ heads).filter fun e => e.count ≥ 8).foldr placeHeld []

/-- A task is some island's escalated task. -/
def isEscalated (s : State) (r : TaskRef) : Bool := s.islands.toList.any fun il => match il.esc with
  | some (e, _) => e == r
  | none => false

/-- Task r of kernel k may be placed on core c as far as its bindings and the core's array go (04 R118; 10 R304). -/
def maySit (s : State) (k : Kernel) (r : TaskRef) (c : CoreId) : Bool :=
  match s.disp.saved.find? fun v => v.ref == r with
  | some v => savedFits s k v c
  | none => boundTo k r.task c.val && !((getCore s c).fence == 15 && usesM s k (k.record.variants.get k.record.lvar) c)

/-- A held task becomes the escalated task of the lowest-numbered island that it may use and that has a nonzero grant
and no escalated task yet (04 R118). -/
def escalate (s : State) (e : Held) : State :=
  if isEscalated s e.ref then s
  else
    let may (i : Nat) : Bool :=
      let il := getIsland s (Fin.ofNat 16 i)
      il.grant != 0 && il.esc.isNone && (coresOf (Fin.ofNat 16 i)).any fun c =>
        maySit s e.kernel e.ref c && !(getCore s c).offline && il.powered
    match (List.range 16).find? may with
    | some i => modIsland s (Fin.ofNat 16 i) fun il => { il with esc := some (e.ref, e.cost, 0) }
    | none => s

/-- An escalated task that has gone gives its reservation back, as a refund (04 R118; DESIGN CHOICE 20). -/
def dropEscalated (s : State) : State :=
  let alive (r : TaskRef) : Bool := s.disp.saved.any (fun v => v.ref == r) || match kernelOf s r with
    | some k => (unstarted s k).contains r.task
    | none => false
  { s with islands := s.islands.map fun il => match il.esc with
    | some (r, _, res) => if alive r then il
      else { il with esc := none, total := il.total + res, need := il.need - res }
    | none => il }

/-! ### GOVERNOR_BOUNDARY -/

/-- Register writes that were waiting for the boundary take effect (04 R104, R105, R107). -/
def takeWrites (s : State) : State :=
  let g := s.gov
  let g := match g.newCtl with
    | some (gint, plimit, hubres, memres) =>
      { g with gint := gint, plimit := plimit, hubres := hubres, memres := memres, newCtl := none }
    | none => g
  { s with
    gov := { g with ecost := g.newEcost.getD g.ecost, newEcost := none }
    islands := s.islands.map fun il => match il.newCfg with
      | some (weight, gfix, opmin, opmax) =>
        { il with weight := weight, gfix := gfix, opmin := opmin, opmax := opmax, newCfg := none }
      | none => il }

/-- The interval that ends enters the count of the last second (04 R99). -/
def closeInterval (s : State) : State :=
  let g := s.gov
  let used := s.islands.toList.foldl (fun n il => n + il.need) (g.hubres.toNat + g.memres.toNat : Int)
  { s with gov := if g.begun then { g with charged := used :: g.charged, epoch := g.epoch + 1 }
    else { g with begun := true } }

/-- What each escalated task reserves is its cost as the costs now stand (04 R105, R119). -/
def renewNeeds (s : State) : State :=
  let cost (r : TaskRef) (need : Nat) : Nat := match s.disp.saved.find? (fun v => v.ref == r), kernelOf s r with
    | some v, some k => savedCost s k v
    | none, some k => classCost s (k.record.variants.get k.record.lvar)
    | _, none => need
  { s with islands := s.islands.map fun il =>
    { il with esc := il.esc.map fun e => (e.1, cost e.1 e.2.1, e.2.2) } }

/-- The boundary of interval k (04 R98 to R102, R118); hot and warm give each island's sensors. -/
def governorStep (s : State) (hot warm : BitVec 16) : State :=
  let s := { s with islands := s.islands.map Island.metered }
  let s := dropEscalated ((List.range 16).foldl (fun s i => switchPoint s (Fin.ofNat 16 i)) s)
  let s := renewNeeds (takeWrites (closeInterval s))
  let s := { s with gov := { s.gov with charged := s.gov.charged.take (1000000 / s.gov.gint) } }
  let (cb, raised) := cardBudget s
  let s := { s with gov := { s.gov with cb := cb, envelope := raised } }
  let g := grants s (cb - s.gov.hubres.toNat - s.gov.memres.toNat) s.gov.epoch.toNat
  let s := (List.range 16).foldl (fun s i =>
    boundaryStep s (Fin.ofNat 16 i) (g.getD i 0) (hot.getLsbD i) (warm.getLsbD i)) s
  let s := countHolds s
  (escalationOrder s).foldl escalate s

/-- GOVERNOR_BOUNDARY (04 R102). -/
def execGovernorBoundary (hot warm : BitVec 16) (s : State) : Host.Outcome State Fault Refusal :=
  .next (if s.pkg.cause = 0 then governorStep s hot warm else s)

/-- OPERATING_POINT_SWITCH (04 R97). -/
def execOperatingPointSwitch (i : IslandId) (s : State) : Host.Outcome State Fault Refusal := .next (switchPoint s i)

/-- METER_UNIT (04 R116). -/
def execMeterUnit (i : IslandId) (s : State) : Host.Outcome State Fault Refusal := .next (meterStep s i)

/-- SETTLE (04 R115). -/
def execSettle (k : Nat) (s : State) : Host.Outcome State Fault Refusal := .next (settleStep s k)

end Sys2Proof.Machine
end

