-- ==== Sys2Proof/Machine/Firmware.lean ====
section
/-!
DEFINITION. The dispatch firmware: its journal and checkpoints, the mapping of software queues, and the entry of the
records that the front end hands over (05 R151 to R156, R525). Policy that the specification leaves to the firmware is
DESIGN CHOICE 21.
-/
namespace Sys2Proof.Machine

/-! ### The journal (05 R152 to R154) -/

/-- The 64 bytes of a journal entry (05 R152, R154). -/
def JournalEntry.bytes (e : JournalEntry) : List Byte :=
  natToBytes 4 e.seq.toNat ++ natToBytes 1 e.type ++ natToBytes 1 e.hwq ++ natToBytes 2 e.swq
    ++ natToBytes 4 e.kernel.toNat ++ natToBytes 8 e.arg ++ natToBytes 4 e.arg2 ++ List.replicate 40 0

/-- First byte of the journal ring. -/
def journalBase (s : State) : Nat := s.disp.jbase.toNat * 4096

/-- Entries of the journal ring. -/
def journalSize (s : State) : Nat := 2 ^ s.disp.log2n.toNat

/-- An entry appended to the journal (05 R152). -/
def appendEntry (s : State) (type hwq swq : Nat) (kernel : BitVec 32) (arg arg2 : Nat) : State :=
  let (n, s) := takeSeq s
  let e : JournalEntry := ⟨n, type, hwq, swq, kernel, arg, arg2⟩
  let s := physWrite s (journalBase s + 64 * s.disp.jwrite) e.bytes
  { s with disp := { s.disp with jwrite := (s.disp.jwrite + 1) % journalSize s, jlog := s.disp.jlog ++ [e] } }

/-- The word of software queue w in a checkpoint image (05 R154). -/
def imageWord (s : State) (w : Nat) : Nat :=
  match (List.range 64).find? fun q => (vget s.disp.hwqs q).mapped && (vget s.disp.hwqs q).swq.toNat == w with
  | some q =>
    let h := vget s.disp.hwqs q
    q + 64 + bitOf h.unmapping * 128 + bitOf h.frozen * 256 + h.tickets.toNat * 65536
  | none => 0

/-- The kernel numbers that an image of 64 KiB has room for (05 R154). -/
def imageKernels : Nat := 12287

/-- The numbers that a checkpoint lists: the kernels that the dispatcher holds. -/
def heldNumbers (s : State) : List (BitVec 32) := (s.disp.kernels.map fun k => k.num).take imageKernels

/-- A checkpoint image (05 R154). -/
def checkpointImage (s : State) : List Byte :=
  (List.range 4096).flatMap (fun w => natToBytes 4 (imageWord s w)) ++ natToBytes 4 (heldNumbers s).length
    ++ (heldNumbers s).flatMap fun n => natToBytes 4 n.toNat

/-- A checkpoint: the older image rewritten behind the ring, its entry, and the table of kernel numbers cut to those
that the image lists (05 R154). -/
def checkpoint (s : State) : State :=
  let at_ := journalBase s + 64 * journalSize s + 65536 * s.disp.jimage
  let s := physWrite s at_ (checkpointImage s)
  let s := appendEntry s 8 0 0 0 at_ (16388 + 4 * (heldNumbers s).length)
  { s with disp := { s.disp with jimage := 1 - s.disp.jimage, jlast := some at_, jlog := [], numbers := heldNumbers s } }

/-- The firmware journals a change with an operand, behind the checkpoint that may be due (05 R153, R154). -/
def journalArg (s : State) (type hwq swq : Nat) (kernel : BitVec 32) (arg : Nat) : State :=
  let s := if s.disp.jlog.length ≥ journalSize s / 2 then checkpoint s else s
  appendEntry s type hwq swq kernel arg 0

/-- The firmware journals a change without an operand. -/
def journalChange (s : State) (type hwq swq : Nat) (kernel : BitVec 32) : State := journalArg s type hwq swq kernel 0

/-! ### Queues (05 R147, R155, R525) -/

/-- s with f applied to hardware queue q. -/
def modHwq (s : State) (q : Nat) (f : HwQueue → HwQueue) : State :=
  { s with disp := { s.disp with hwqs := vmod s.disp.hwqs q f } }

/-- Hardware queue q holds no task. -/
def queueEmpty (s : State) (q : Nat) : Bool := s.disp.kernels.all fun k => k.hwq != q

/-- The hardware queue onto which software queue w is mapped. -/
def hwqOf (s : State) (w : Nat) : Option Nat :=
  (List.range 64).find? fun q => (vget s.disp.hwqs q).mapped && (vget s.disp.hwqs q).swq.toNat == w

/-- The end of an unmap of an empty hardware queue (05 R155). -/
def endUnmap (s : State) (q : Nat) : State :=
  let w := (vget s.disp.hwqs q).swq.toNat
  modHwq (journalChange s 4 q w 0) q fun h => { h with mapped := false, unmapping := false }

/-- The unmaps whose queues have become empty end. -/
def endUnmaps (s : State) : State :=
  (List.range 64).foldl (fun s q => if (vget s.disp.hwqs q).unmapping && queueEmpty s q then endUnmap s q else s) s

/-- An unmapped hardware queue, the lowest-numbered, or else an empty one after its unmap. -/
def freeHwq (s : State) : Option (Nat × State) :=
  match (List.range 64).find? fun q => !(vget s.disp.hwqs q).mapped with
  | some q => some (q, s)
  | none =>
    match (List.range 64).find? fun q => queueEmpty s q && !(vget s.disp.hwqs q).unmapping with
    | some q =>
      let s := modHwq (journalChange s 3 q (vget s.disp.hwqs q).swq.toNat 0) q fun h => { h with unmapping := true }
      some (q, endUnmap s q)
    | none => none

/-- The hardware queue that takes records of software queue w, after a map if there is none (05 R151, R155). A freeze
that is not over stays (05 R150). -/
def mapQueue (s : State) (w : Nat) : Option (Nat × State) :=
  match hwqOf s w with
  | some q => if (vget s.disp.hwqs q).unmapping then none else some (q, s)
  | none => (freeHwq s).map fun (q, s) =>
    (q, modHwq (journalChange s 2 q w 0) q fun h =>
      { h with swq := BitVec.ofNat 12 w, mapped := true, unmapping := false })

/-! ### The entry of records -/

/-- The primary dispatch core. -/
def primaryCore (s : State) : CoreId := coreOf (64 + bitOf s.disp.primary)

/-- The primary has trapped (03 R93; 05 R156). -/
def primaryDown (s : State) : Bool := (getCore s (primaryCore s)).stop.isSome

/-- The dispatch firmware works. -/
def firmwareUp (s : State) : Bool := s.pkg.cause = 0 && !s.disp.takeover && !primaryDown s

/-- The kick bit of software queue w is cleared. -/
def clearKick (s : State) (w : Nat) : State := { s with disp := { s.disp with kicks := s.disp.kicks.filter (· != w) } }

/-- The firmware takes a handed record: it clears the kick bit, journals ENQ and enters the kernel. A record of a queue
that cannot be mapped stays with its bit set (05 R151, R153, R155), and so does one while the dispatcher holds as many
kernels as a checkpoint image has room for (05 R154). -/
def takeRecord (s : State) (h : Handed) : State :=
  let w := recField h.record 4 2 % 4096
  match if s.disp.kernels.length ≥ imageKernels then none else mapQueue s w with
  | none => s
  | some (q, s) =>
    let s := journalChange (clearKick s w) 1 q w h.kernel
    (enterKernel s h.kernel h.record h.rl q h).2

/-- The firmware takes what it can of the records that the front end has handed over, in their order. -/
def firmwareStep (s : State) : State :=
  if firmwareUp s then
    let s := endUnmaps s
    s.disp.handed.foldl takeRecord s
  else s

/-- The front end hands a record over: it assigns the kernel number, sets the kick bit and keeps the record until it is
acknowledged (05 R151, R152). -/
def handOver (s : State) (h : Handed) : BitVec 32 × State :=
  let n := s.disp.nextKernel
  let w := recField h.record 4 2 % 4096
  (n, firmwareStep { s with disp := { s.disp with
    nextKernel := n + 1
    kicks := if s.disp.kicks.contains w then s.disp.kicks else w :: s.disp.kicks
    handed := s.disp.handed ++ [{ h with kernel := n }] } })

/-- A completion record with this SEQ of a context is not yet written. -/
def recordWaits (s : State) (x : ContextId) (seq : BitVec 32) : Bool :=
  let waits (h : HeldRecord) : Bool := BitVec.ofNat 32 h.bytes.toNat == seq
  (getContext s x.val).held.any waits || s.disp.heldDone.any fun e => e.1 == x && waits e.2

/-- The firmware clears FROZEN of a queue once no kernel of it that a fatal fault stopped is left and the records of
those that were have been written (05 R150). -/
def unfreeze (s : State) (q : Nat) : State :=
  let s := { s with disp := { s.disp with
    thaw := s.disp.thaw.filter fun e => recordWaits s e.2.1 e.2.2
    thawJobs := s.disp.thawJobs.filter fun e => s.jobs.any fun j => j.num == e.2 } }
  if (vget s.disp.hwqs q).frozen && firmwareUp s && (s.disp.kernels.all fun k => k.hwq != q || !k.fatal)
      && s.disp.thaw.all (fun e => e.1 != q) && s.disp.thawJobs.all (fun e => e.1 != q) then
    modHwq (journalChange s 6 q (vget s.disp.hwqs q).swq.toNat 0) q fun h => { h with frozen := false }
  else s

/-- The firmware journals the freezes of hardware queues that fatal faults have made (05 R150, R152). -/
def journalFreezes (s : State) : State :=
  if firmwareUp s then
    s.disp.freezes.foldl (fun s q => journalChange s 5 q (vget s.disp.hwqs q).swq.toNat 0)
      { s with disp := { s.disp with freezes := [] } }
  else s

/-- The firmware journals the freezes that fatal faults have made, and clears those that are over; then it takes what
records it can (05 R150 to R153). -/
def firmwareWork (s : State) : State := firmwareStep ((List.range 64).foldl unfreeze (journalFreezes s))

/-! ### Take-over (05 R156) -/

/-- A change that a journal entry records, made on the hardware queues: ENQ has no effect, since its kernel's number is
in the dispatcher's table (05 R153, R156). -/
def replayEntry (s : State) (type q w arg : Nat) : State :=
  match type with
  | 2 => modHwq s q fun h => { h with swq := BitVec.ofNat 12 w, mapped := true, unmapping := false }
  | 3 => modHwq s q fun h => { h with unmapping := true }
  | 4 => modHwq s q fun h => { h with mapped := false, unmapping := false }
  | 5 => modHwq s q fun h => { h with frozen := true }
  | 6 => if (s.disp.kernels.any fun k => k.hwq == q && k.fatal) || s.disp.thaw.any (fun e => e.1 == q)
      || s.disp.thawJobs.any (fun e => e.1 == q) then s
    else modHwq s q fun h => { h with frozen := false }
  | 7 => modHwq s q fun h => { h with tickets := BitVec.ofNat 16 arg }
  | _ => s

/-- The entry in place i of the journal ring is replayed. -/
def replayAt (s : State) (i : Nat) : State :=
  let f (o n : Nat) := physNat s (journalBase s + 64 * (i % journalSize s) + o) n
  replayEntry s (f 4 1) (f 5 1 % 64) (f 6 2) (f 12 8)

/-- The word of software queue w in the image at an address takes effect on its hardware queue (05 R154). -/
def loadWord (at_ : Nat) (s : State) (w : Nat) : State :=
  let v := physNat s (at_ + 4 * w) 4
  if !bit v 6 then s
  else modHwq s (bits v 5 0) fun h => { h with
    swq := BitVec.ofNat 12 w, mapped := true, unmapping := bit v 7, frozen := h.frozen || bit v 8
    tickets := BitVec.ofNat 16 (bits v 31 16) }

/-- The new primary loads the image that the last CHECKPOINT names and replays every later entry, in sequence order
(05 R156). -/
def replayJournal (s : State) : State :=
  let n := s.disp.jlog.length
  let first := s.disp.jwrite + journalSize s - n % journalSize s
  let s := match s.disp.jlast with
    | some at_ => (List.range 4096).foldl (loadWord at_) s
    | none => s
  (List.range n).foldl (fun s i => replayAt s (first + i)) s

end Sys2Proof.Machine
end

