-- ==== Sys2Proof/Machine/FrontEnd.lean ====
section
/-!
DEFINITION. The front end: command packets, resident-model slots, armed launches, completions, and what ends a context's
work (03 R69 to R91; 02 R46, R47, R52; 01 R36).
-/
namespace Sys2Proof.Machine

/-! ### Completion records (03 R87 to R91) -/

/-- A status of 03 R90. -/
def stOk : Nat := 0
/-- NOT-RESIDENT. -/
def stNotResident : Nat := 1
/-- BAD-PACKET. -/
def stBadPacket : Nat := 2
/-- FAULTED. -/
def stFaulted : Nat := 4
/-- TAG-BUSY. -/
def stTagBusy : Nat := 5
/-- ARM-FULL. -/
def stArmFull : Nat := 6
/-- NO-ARMED. -/
def stNoArmed : Nat := 7
/-- NOT-READY. -/
def stNotReady : Nat := 8
/-- DISARMED. -/
def stDisarmed : Nat := 10

/-- The 32 bytes of a completion record (03 R87). -/
def completionRecord (seq : BitVec 32) (x : ContextId) (cmd : Command) (status : Nat) (joules : Word) (ran : Nat) :
    BitVec 256 :=
  ofBytes 256 (natToBytes 4 seq.toNat ++ natToBytes 4 cmd.cookie.toNat ++ natToBytes 2 status
    ++ natToBytes 1 cmd.opcode.toNat ++ natToBytes 1 cmd.slot.toNat ++ natToBytes 2 x.val ++ natToBytes 2 cmd.tag.toNat
    ++ natToBytes 8 joules.toNat ++ natToBytes 4 ran)

/-- Records of a completion ring. -/
def ringSize (x : Context) : Nat := 2 ^ x.log2size.toNat

/-- The ring is full (03 R89). -/
def ringFull (x : Context) : Bool := (x.cprod - x.ccons).toNat == ringSize x

/-- Bytes that a block of the hub writes at a physical address with the requester ID of a function: those of the peer's
memory go out as stores of the bridge, which name core 64 (02 R41, R54; DESIGN CHOICE 88), also while the bridge is down
(DESIGN CHOICE 121). -/
def hubWrite (s : State) (f : BitVec 4) (pa : Nat) (data : List Byte) : State :=
  match placeOf s pa with
  | .peer =>
    let (n, s) := takeStamp s
    { s with sent := .bridgeStore 64 n pa data false :: s.sent }
  | .host => physWrite { s with sent := .hostRequest f true (busAddress s pa) data.length :: s.sent } pa data
  | _ => physWrite s pa data

/-- A record written to the next slot of the ring, with the MSI-X message after it (03 R87, R88); a device that has
halted sends none (03 R91). The packet that it completes has completed. -/
def writeRecord (s : State) (x : ContextId) (r : HeldRecord) : State :=
  let c := getContext s x.val
  let s := hubWrite s c.func (c.cbase.toNat * 4096 + 32 * (c.cprod.toNat % ringSize c)) (bytesOf r.bytes 0 32)
  let s := modContext s x.val fun c =>
    { c with cprod := c.cprod + 1, pendingCmds := c.pendingCmds.filter (· != r.num) }
  if r.notify && s.pkg.cause = 0 then { s with sent := .msix c.func c.vector :: s.sent } else s

/-- The oldest FENCE of a context whose earlier packets have all completed (03 R84). -/
def fenceDue (s : State) (x : ContextId) : Option (Nat × Command) :=
  let c := getContext s x.val
  match c.fences with
  | e :: _ => if s.disp.takeover || c.pendingCmds.any fun p => p < e.1 then none else some e
  | [] => none

/-- Held records are written in their order while the ring has room, and fences complete as they come due; a FENCE, as
any packet, has completed once its record is written; n bounds the steps (03 R84, R89). -/
def pump (x : ContextId) : (n : Nat) → State → State
  | 0, s => s
  | n + 1, s =>
    let c := getContext s x.val
    match fenceDue s x with
    | some (k, cmd) =>
      let (q, s) := takeSeq s
      pump x n (modContext s x.val fun c => { c with
        fences := c.fences.drop 1
        pendingCmds := c.pendingCmds ++ [k]
        held := c.held ++ [⟨completionRecord q x cmd stOk 0 0, cmd.notify, k⟩] })
    | none =>
      match c.held with
      | [] => s
      | r :: l => if ringFull c then s else pump x n (writeRecord (modContext s x.val fun c =>
        { c with held := l }) x r)

/-- A disabled context reads ENABLE 0 once its last record is written (03 R75). -/
def settleDisable (s : State) (x : ContextId) : State :=
  let c := getContext s x.val
  if c.disabling && c.pendingCmds = [] && c.fences = [] && c.held = [] && !s.disp.heldDone.any fun e => e.1 == x then
    modContext s x.val fun c => { c with enable := false, disabling := false, fifo := [], stage := 0, mask := 0 }
  else s

/-- The completions of a context go on as far as its ring has room. -/
def runRing (s : State) (x : ContextId) : State :=
  let c := getContext s x.val
  settleDisable (pump x (c.held.length + 2 * c.fences.length + 1) s) x

/-- A completion reaches its ring, or is held while the ring is full, or while a take-over runs (03 R89, R92; 05 R156).
A device that has halted writes to rings in host memory only (03 R91). -/
def postCompletion (s : State) (x : ContextId) (r : HeldRecord) : State :=
  let c := getContext s x.val
  if s.pkg.cause != 0 && placeOf s (c.cbase.toNat * 4096) != .host then s
  else if s.disp.takeover then { s with disp := { s.disp with heldDone := s.disp.heldDone ++ [(x, r)] } }
  else runRing (modContext s x.val fun c => { c with held := c.held ++ [r] }) x

/-- The packet of number num completes with a status; 0 stands for an armed launch, which no packet waits for (03 R87).
-/
def completeCmd (s : State) (x : ContextId) (cmd : Command) (num status : Nat) : State :=
  let (n, s) := takeSeq s
  postCompletion s x ⟨completionRecord n x cmd status 0 0, cmd.notify, num⟩

/-- An armed launch, or a packet that was never handled, completes with a status (03 R87). -/
def complete (s : State) (x : ContextId) (cmd : Command) (status : Nat) : State := completeCmd s x cmd 0 status

/-- The command of number num completes with what its kernel came to (03 R88, R92). -/
def completeKernel (s : State) (x : ContextId) (cmd : Command) (num status : Nat) (joules : Word) (ran : Nat) : State :=
  if num = 0 then s
  else
    let (n, s) := takeSeq s
    postCompletion s x ⟨completionRecord n x cmd status joules ran, cmd.notify, num⟩

/-! ### Slots (03 R76 to R79) -/

/-- Slot number n. -/
def getSlot (s : State) (n : Nat) : Slot := vget s.slots n
/-- An armed launch goes, with a record of this status (03 R87). -/
def removeArmed (s : State) (a : Armed) (status : Nat) : State :=
  let s := { s with armed := s.armed.filter fun b => !(b.context == a.context && b.tag == a.tag) }
  complete (dropRef s (a.cmd.slot.toNat % 64)) a.context a.cmd status

/-- RESIDENT of a slot becomes 0: its armed launches are removed in the order in which they were armed (03 R79; DESIGN
CHOICE 89). -/
def clearResident (s : State) (n : Fin 64) : State :=
  let s := modSlot s n.val fun x => { x with resident := false }
  (s.armed.filter fun a => a.cmd.slot.toNat % 64 == n.val).foldl (fun s a => removeArmed s a stDisarmed) s

/-- The launch-record template of a slot, none where its read fails (03 R80). -/
def readTemplate (s : State) (x : Slot) : Option (BitVec 2048) :=
  let pa := x.template.toNat * 256
  if placeOf s pa = .local && placeOf s (pa + 255) = .local then some (ofBytes 2048 (physRead s pa 256)) else none

/-! ### Packets (03 R69, R70) -/

/-- Bits hi to lo of a packet. -/
def pkt (p : BitVec 512) (hi lo : Nat) : Nat := bits p.toNat hi lo
/-- RELj of a packet. -/
def pktRel (p : BitVec 512) (j : Nat) : Nat := pkt p (175 + 48 * j) (128 + 48 * j)
/-- The command of a packet (03 R87). -/
def pktCommand (p : BitVec 512) : Command :=
  { opcode := BitVec.ofNat 8 (pkt p 7 0), slot := BitVec.ofNat 8 (pkt p 13 8), tag := BitVec.ofNat 16 (pkt p 47 32)
    cookie := BitVec.ofNat 32 (pkt p 95 64), notify := bit (pkt p 20 20) 0 }
/-- RCOUNT. -/
def pktRcount (p : BitVec 512) : Nat := pkt p 19 16

/-- The packet breaks no rule of 03 R70. -/
def packetOk (p : BitVec 512) : Bool :=
  let op := pkt p 7 0
  let reserved := pkt p 23 22 == 0 && pkt p 62 60 == 0 && pkt p 111 106 == 0 && pkt p 127 112 == 0
  let counted := pktRcount p ≤ (if op = 4 then 1 else 8)
    && (List.range 8).all fun j => j < pktRcount p || pktRel p j == 0
  1 ≤ op && op ≤ 5 && reserved && (op = 3 || op = 5 || counted) && (3 ≤ op || pkt p 31 24 ≤ 0xEF)

/-- The relocation values of a packet (03 R80). -/
def pktRelocs (p : BitVec 512) : Vector VAddr 8 :=
  Vector.ofFn fun j => if j.val < pktRcount p then vaddr (pkt p 31 24) (pktRel p j.val) else 0

/-- A field of n bytes of a launch record set. -/
def recSet (r : BitVec 2048) (i n v : Nat) : BitVec 2048 :=
  BitVec.ofNat 2048 (r.toNat - recField r i n * 2 ^ (8 * i) + v % 2 ^ (8 * n) * 2 ^ (8 * i))

/-- The launch record that a LAUNCH or ARM makes of its template; QUEUE is 12 bits wide (03 R80; 05 R128). -/
def pktRecord (p : BitVec 512) (template : BitVec 2048) (asid : BitVec 16) : BitVec 2048 :=
  let r := if bit (pkt p 63 63) 0 then recSet template 4 2 (recField template 4 2 / 4096 * 4096 + pkt p 59 48)
    else template
  recSet (recSet r 6 2 asid.toNat) 8 4 (pkt p 95 64)

/-! ### The frequency class (03 R85, R86) -/

/-- The operating point of a frequency class. -/
def classPoint (s : State) (fclass : BitVec 2) : BitVec 4 :=
  BitVec.ofNat 4 (s.fclassOp.toNat / 2 ^ (4 * (fclass.toNat - 1)))

/-- Every island runs at a point or above it. -/
def allAtPoint (s : State) (op : BitVec 4) : Bool := s.islands.toList.all fun i => i.op ≥ op

/-- A launch record goes to the dispatcher, through the hold of its frequency class: whether the governor grants the
request is left open, and a free value decides it (03 R86). -/
def passOn (s : State) (fclass : BitVec 2) (h : Handed) : State :=
  if fclass = 0 || allAtPoint s (classPoint s fclass) then (handOver s h).2
  else
    let granted := Config.freeBool s.freeCtr 0
    let s := { s with freeCtr := s.freeCtr + 1 }
    if granted then
      { s with disp := { s.disp with holds := s.disp.holds ++ [{ h with op := some (classPoint s fclass) }] } }
    else (handOver s h).2

/-- A hold ends: its record is handed over, and a launch job learns its kernel number. -/
def endHold (s : State) (k : Nat) : State :=
  match s.disp.holds[k]? with
  | none => s
  | some h =>
    let (n, s) := handOver { s with disp := { s.disp with holds := listErase s.disp.holds k } } h
    match h.origin with
    | .job j => { s with jobs := s.jobs.map fun o => if o.num == j then { o with phase := .entered n } else o }
    | .packet _ _ _ => s

/-! ### The opcodes (03 R80 to R84) -/

/-- The checks and the record of R80: a status, or the slot and the record. -/
def launchRecord (s : State) (x : ContextId) (p : BitVec 512) : Except Nat (Nat × BitVec 2048) :=
  let n := pkt p 13 8
  let slot := getSlot s n
  let c := getContext s x.val
  if !slot.resident || slot.owner != c.func then .error stNotResident
  else match readTemplate s slot with
    | none => .error stFaulted
    | some t => .ok (n, pktRecord p t c.asid)

/-- A launch of context x for a command. -/
def handedFor (s : State) (x : ContextId) (slot : Nat) (record : BitVec 2048) (rl : Vector VAddr 8) (cmd : Command)
    (num : Nat) : Handed :=
  { kernel := s.disp.nextKernel, record := record, rl := rl, slot := Fin.ofNat 64 slot, context := x
    origin := .packet x cmd num, op := none, relocOk := true }

/-- LAUNCH (03 R80). -/
def handleLaunch (s : State) (x : ContextId) (p : BitVec 512) (num : Nat) : State :=
  match launchRecord s x p with
  | .error st => completeCmd s x (pktCommand p) num st
  | .ok (slot, r) =>
    let s := addRef s slot
    passOn s (BitVec.ofNat 2 (pkt p 15 14)) (handedFor s x slot r (pktRelocs p) (pktCommand p) num)

/-- The armed launch of a key. -/
def findArmed (s : State) (x : ContextId) (tag : BitVec 16) : Option Armed :=
  s.armed.find? fun a => a.context == x && a.tag == tag

/-- ARM (03 R81). Where more than one status applies, NOT-RESIDENT or FAULTED comes before TAG-BUSY, and TAG-BUSY before
ARM-FULL (DESIGN CHOICE 90). -/
def handleArm (s : State) (x : ContextId) (p : BitVec 512) (num : Nat) : State :=
  let cmd := pktCommand p
  match launchRecord s x p with
  | .error st => completeCmd s x cmd num st
  | .ok (slot, r) =>
    if (findArmed s x cmd.tag).isSome then completeCmd s x cmd num stTagBusy
    else if s.armed.length ≥ 1024 then completeCmd s x cmd num stArmFull
    else
      let a : Armed := ⟨x, cmd.tag, r, pktRelocs p, BitVec.ofNat 2 (pkt p 15 14), bit (pkt p 21 21) 0, cmd⟩
      completeCmd { addRef s slot with armed := s.armed ++ [a] } x cmd num stOk

/-- FIRE (03 R82). -/
def handleFire (s : State) (x : ContextId) (p : BitVec 512) (num : Nat) : State :=
  let cmd := pktCommand p
  match findArmed s x cmd.tag with
  | none => completeCmd s x cmd num stNoArmed
  | some a =>
    let slot := a.cmd.slot.toNat % 64
    let r := if pktRcount p = 1 then recSet a.record 208 8 (pktRel p 0) else a.record
    let s := if a.rearm then addRef s slot
      else { s with armed := s.armed.filter fun b => !(b.context == x && b.tag == a.tag) }
    passOn s a.fclass (handedFor s x slot r a.rl { cmd with slot := a.cmd.slot, tag := a.tag } num)

/-- DISARM (03 R83). The record of the removed launch comes before the DISARM's own (DESIGN CHOICE 91). -/
def handleDisarm (s : State) (x : ContextId) (p : BitVec 512) (num : Nat) : State :=
  let cmd := pktCommand p
  match findArmed s x cmd.tag with
  | none => completeCmd s x cmd num stNoArmed
  | some a => completeCmd (removeArmed s a stDisarmed) x cmd num stOk

/-- FENCE (03 R84). -/
def handleFence (s : State) (x : ContextId) (p : BitVec 512) (num : Nat) : State :=
  runRing (modContext s x.val fun c => { c with fences := c.fences ++ [(num, pktCommand p)] }) x

/-- A packet of the context is held for its frequency class, so that the next one of the context waits (03 R72, R86). -/
def contextHolds (s : State) (x : ContextId) : Bool := s.disp.holds.any fun h => match h.origin with
  | .packet y _ _ => y == x
  | .job _ => false

/-- The front end may handle packets of a context (03 R72, R86, R89, R92). -/
def frontReady (s : State) (x : ContextId) : Bool :=
  let c := getContext s x.val
  c.enable && !c.disabling && c.held.length < 64 && !s.disp.takeover && !primaryDown s && s.pkg.cause = 0
    && !contextHolds s x

/-- The front end handles the head of a context's FIFO when it has this opcode; only tells whether a packet of another
opcode is left for another event (03 R70, R72). The packet gets the next number, under which it is pending until its
record is written. -/
def handlePacket (s : State) (x : ContextId) (mine : Nat → Bool) (f : State → ContextId → BitVec 512 → Nat → State) :
    State :=
  match (getContext s x.val).fifo with
  | [] => s
  | p :: r =>
    if !frontReady s x || !mine (pkt p 7 0) then s
    else
      let n := s.nextCmd + 1
      let s := modContext { s with nextCmd := n, disp := { s.disp with front := x.val } } x.val fun c =>
        { c with fifo := r, pendingCmds := if pkt p 7 0 = 5 && packetOk p then c.pendingCmds else c.pendingCmds ++ [n] }
      if packetOk p then f s x p n else completeCmd s x (pktCommand p) n stBadPacket

/-! ### The end of a context's work (02 R52; 03 R75) -/

/-- A record that was on its way to the dispatcher for a packet of context x is taken back, with this status. -/
def withdrawHanded (s : State) (x : ContextId) (status : Nat) (joules : Word) : State :=
  let mine (h : Handed) : Bool := h.context == x
  let all := (s.disp.holds ++ s.disp.handed).filter mine
  let s := { s with disp := { s.disp with
    holds := s.disp.holds.filter fun h => !mine h, handed := s.disp.handed.filter fun h => !mine h } }
  all.foldl (fun s h =>
    let s := dropRef s h.slot.val
    match h.origin with
    | .packet y cmd num => completeKernel s y cmd num status joules 0
    | .job j => (findJob s j).elim s fun o => setJob s (finishJob o status)) s

/-- The fences and the packets of a context that were never handled, taken out of it, with their numbers; its command
window is cleared whole (02 R52). -/
def takePackets (s : State) (x : ContextId) : List (Nat × Command) × State :=
  let c := getContext s x.val
  (c.fences ++ c.fifo.map fun p => (0, pktCommand p), modContext s x.val fun c =>
    { c with fifo := [], fences := [], stage := 0, mask := 0, overrun := false, discards := 0 })

/-- Every task and pending command of a context ends with FUNCTION-RESET, and its armed launches, FIFO and window go
(02 R52). -/
def resetContext (s : State) (x : ContextId) : State :=
  let (cmds, s) := takePackets s x
  let s := (s.disp.kernels.filter fun k => k.context == x).foldl (fun s k => stopKernel s k.num stFunctionReset) s
  let s := withdrawHanded s x stFunctionReset 0
  let s := cmds.foldl (fun s e => completeCmd s x e.2 e.1 stFunctionReset) s
  (s.armed.filter fun a => a.context == x).foldl (fun s a => removeArmed s a stFunctionReset) s

/-- Every enabled context for which f holds is reset. -/
def resetContexts (s : State) (f : Context → Bool) : State :=
  (s.contexts.filter fun e => e.2.enable && f e.2).foldl (fun s e => resetContext s (Fin.ofNat 1024 e.1)) s

/-! ### The halt of the device (01 R28, R36; 03 R91, R93) -/

/-- The events that tasks ended before the halt have counted and that were not yet settled go to their kernels' sums
(01 R36; 03 R87). -/
def sumEnded (s : State) : State :=
  (s.settling.filter fun e => e.last).foldl (fun s e =>
    modKernel s (BitVec.ofNat 32 e.ref.kernel) fun k => { k with joules := k.joules + jcore e.acct + e.acct.jmem }) s

/-- The completion records that a take-over held back are written, in the order of their sequence numbers (05 R156). -/
def writeHeldDone (s : State) : State :=
  s.disp.heldDone.foldl (fun s e =>
    postCompletion { s with disp := { s.disp with heldDone := s.disp.heldDone.drop 1 } } e.1 e.2) s

/-- Every kernel and command of a device that has halted completes with NOT-READY (01 R36), but for kernels whose record
a take-over held back, which keep their status; half-written packets go (DESIGN CHOICE 124). -/
def failPending (s : State) : State :=
  let (cmds, s) := s.contexts.foldl (fun (acc : List (ContextId × Nat × Command) × State) e =>
    let x : ContextId := Fin.ofNat 1024 e.1
    let (l, s) := takePackets acc.2 x
    (acc.1 ++ l.map fun c => (x, c), s)) ([], s)
  let s := writeHeldDone s
  let s := s.disp.kernels.foldl (fun s k => match k.origin with
    | .packet x cmd num => completeKernel s x cmd num stNotReady k.joules k.ran
    | .job _ => s) s
  let s := s.contexts.foldl (fun s e => withdrawHanded s (Fin.ofNat 1024 e.1) stNotReady 0) s
  cmds.foldl (fun s e => completeCmd s e.1 e.2.2 e.2.1 stNotReady) s

/-- The device halts: CAUSE keeps the first cause, resident tasks end, and nothing runs on the tile cores, so that DONE
reads 0 (01 R35, R36). What runs on the dispatch cores stays: the hub island keeps running (01 R28). -/
def haltDevice (s : State) (cause : BitVec 4) : State :=
  let s := { s with
    pkg := { s.pkg with cause := if s.pkg.cause = 0 then cause else s.pkg.cause, bootDone := false }
    disp := { s.disp with takeover := false } }
  let s := failPending (sumEnded s)
  { s with
    cores := Vector.ofFn fun c =>
      let k := s.cores.get c
      if c.val < 64 then
        { k with busy := false, ctx := k.ctx.left, stop := none, rings := Vector.replicate 32 ⟨0, 0, []⟩
                 fw := { k.fw with running := false } }
      else k
    jobs := [], samples := [], settling := [], yields := [], monitors := [], invPend := [], jwrites := []
    disp := { s.disp with kernels := [], order := [], saved := [], thaw := [], thawJobs := [], freezes := [] } }

/-! ### Command windows (02 R43 to R47) -/

/-- A packet is latched for a context: a device that has halted completes it, and a full FIFO discards it (01 R36; 02
R47). -/
def latchPacket (s : State) (x : ContextId) (p : BitVec 512) : State :=
  let c := getContext s x.val
  if s.pkg.cause != 0 then complete s x (pktCommand p) stNotReady
  else if c.fifo.length ≥ 64 then
    modContext s x.val fun c =>
      { c with overrun := true, discards := if c.discards = 0xFFFF then c.discards else c.discards + 1 }
  else modContext s x.val fun c => { c with fifo := c.fifo ++ [p] }

/-- The context is enabled and not on its way out. -/
def contextLive (c : Context) : Bool := c.enable && !c.disabling

/-- The enabled contexts of a function in ascending order (02 R44). -/
def windowList (s : State) (f : FuncId) : List Nat :=
  (s.contexts.filter fun e => e.2.enable && e.2.func.toNat == f.val).map fun e => e.1

/-- The context of a window of a function's BAR 0, none when it is not that function's (02 R42 to R44). -/
def windowContext (s : State) (f : FuncId) (window : Nat) : Option ContextId :=
  let found := if f.val = 0 then (if window < 1024 then some window else none)
    else if window < 64 then (windowList s f)[window]? else none
  found.bind fun n =>
    let c := getContext s n
    if contextLive c && c.func.toNat == f.val then some (Fin.ofNat 1024 n) else none

/-- MISROUTE of a function is set and counted (02 R44). -/
def misroute (s : State) (f : FuncId) : State :=
  { s with links := { s.links with
    misroute := vset s.links.misroute f.val true
    misroutes := vmod s.links.misroutes f.val fun n => if n = 0xFFFF then n else n + 1 } }

/-- OVERRUN of a window is cleared, and DISCARDS with it (02 R45). -/
def clearOverrun (s : State) (x : ContextId) : State := modContext s x.val fun c =>
  { c with overrun := false, discards := 0 }

/-- Bytes written to a command window (02 R45, R46). -/
def windowWrite (s : State) (x : ContextId) (off : Nat) (data : List Byte) : State :=
  let inside := data.take (0x40 - off)
  let s := if off ≥ 0x40 || inside = [] then s
    else
      let c := getContext s x.val
      let stage := ofBytes 512 (spliceBytes (bytesOf c.stage 0 64) off inside)
      let mask := setBits c.mask ((List.range inside.length).map (off + ·))
      if bits mask.toNat 63 56 == 0xFF then latchPacket (modContext s x.val fun c =>
        { c with stage := 0, mask := 0 }) x stage
      else modContext s x.val fun c => { c with stage := stage, mask := mask }
  if off ≤ 0x40 && 0x40 < off + data.length && bit (data.getD (0x40 - off) 0).toNat 7 then clearOverrun s x else s

/-! ### Meanings of the events -/

/-- COMMAND_WINDOW_WRITE (02 R43, R46). -/
def execCommandWindowWrite (f : FuncId) (window off : Nat) (data : List Byte) (s : State) :
    Host.Outcome State Fault Refusal :=
  .next (match windowContext s f window with
    | some x => windowWrite s x off data
    | none => misroute s f)

/-- The host reaches registers of BAR 0 other than BOOTSTAT and the mailbox (01 R36). -/
def whileUp (s : State) (f : State → State) : State := if s.pkg.cause = 0 then f s else s

/-- OVERRUN_CLEAR (01 R36; 02 R45). -/
def execOverrunClear (f : FuncId) (window : Nat) (s : State) : Host.Outcome State Fault Refusal :=
  .next (whileUp s fun s => (windowContext s f window).elim s (clearOverrun s))

/-- MISROUTE of a function is cleared, and MISROUTES with it (02 R44). -/
def clearMisroute (s : State) (f : FuncId) : State :=
  { s with links := { s.links with
    misroute := vset s.links.misroute f.val false, misroutes := vset s.links.misroutes f.val 0 } }

/-- MISROUTE_CLEAR (01 R36; 02 R44). -/
def execMisrouteClear (f : FuncId) (s : State) : Host.Outcome State Fault Refusal :=
  .next (whileUp s fun s => clearMisroute s f)

/-- LAUNCH_PACKET; a reserved opcode is refused here as well (03 R70, R80). -/
def execLaunchPacket (x : ContextId) (s : State) : Host.Outcome State Fault Refusal :=
  .next (handlePacket s x (fun op => op < 2 || 5 < op) handleLaunch)

/-- ARM_PACKET (03 R81). -/
def execArmPacket (x : ContextId) (s : State) : Host.Outcome State Fault Refusal :=
  .next (handlePacket s x (· == 2) handleArm)

/-- DISARM_PACKET (03 R83). -/
def execDisarmPacket (x : ContextId) (s : State) : Host.Outcome State Fault Refusal :=
  .next (handlePacket s x (· == 3) handleDisarm)

/-- FIRE_PACKET (03 R82). -/
def execFirePacket (x : ContextId) (s : State) : Host.Outcome State Fault Refusal :=
  .next (handlePacket s x (· == 4) handleFire)

/-- FENCE_PACKET (03 R84). -/
def execFencePacket (x : ContextId) (s : State) : Host.Outcome State Fault Refusal :=
  .next (handlePacket s x (· == 5) handleFence)

/-- FREQUENCY_CLASS_HOLD_END: every island runs at the point, or 50 µs have passed (03 R86). -/
def execFrequencyClassHoldEnd (k : Nat) (s : State) : Host.Outcome State Fault Refusal := .next (endHold s k)

/-- CCONS of a context set; one that passes CPROD is ignored (03 R89). -/
def writeCcons (s : State) (x : ContextId) (v : BitVec 16) : State :=
  let c := getContext s x.val
  if (v - c.ccons).toNat > (c.cprod - c.ccons).toNat then s
  else firmwareWork (runRing (modContext s x.val fun c => { c with ccons := v }) x)

/-- CCONS_WRITE (01 R36; 03 R89). -/
def execCconsWrite (x : ContextId) (v : BitVec 16) (s : State) : Host.Outcome State Fault Refusal :=
  .next (whileUp s fun s => writeCcons s x v)

/-- A kernel that has ended leaves the dispatcher, and what barriers its groups still have are freed (05 R135). -/
def removeKernel (s : State) (k : Kernel) : State :=
  let s := dropRef (freeBarriers s k) k.slot.val
  { s with disp := { s.disp with
    kernels := s.disp.kernels.filter fun o => o.num != k.num
    order := s.disp.order.filter fun e => e != (false, k.num.toNat) } }

/-- KERNEL_COMPLETION: every task of the kernel has ended and is settled (03 R88; 05 R139, R150; 15 R434). -/
def kernelCompletion (s : State) (n : Nat) : State :=
  match findKernel s (BitVec.ofNat 32 n) with
  | none => s
  | some k =>
    if !kernelDone s k then s
    else
      let status := k.status.getD stOk
      let s := removeKernel s k
      let s := match k.origin with
        | .packet x cmd num =>
          let seq := s.seq
          let s := completeKernel s x cmd num status k.joules k.ran
          if k.fatal then { s with disp := { s.disp with thaw := s.disp.thaw ++ [(k.hwq, x, seq)] } } else s
        | .job j =>
          let s := (findJob s j).elim s fun o => setJob s { finishJob o status with moved := k.ran }
          if k.fatal then { s with disp := { s.disp with thawJobs := s.disp.thawJobs ++ [(k.hwq, j)] } } else s
      firmwareWork s

/-- KERNEL_COMPLETION (03 R88). -/
def execKernelCompletion (kernel : Nat) (s : State) : Host.Outcome State Fault Refusal :=
  .next (kernelCompletion s kernel)

/-- A write with RESIDENT 0 to the first word of a slot's entry: while RESIDENT is 1 it clears it and leaves the other
fields, and else it writes them (03 R76, R77, R79). -/
def slotClear (s : State) (slot : Fin 64) (v : Word) : State :=
  if (getSlot s slot.val).resident then clearResident s slot
  else modSlot s slot.val fun x =>
    { x with owner := BitVec.ofNat 4 (bits v.toNat 4 1), wsize := BitVec.ofNat 20 (bits v.toNat 51 32) }

/-- SLOT_RESIDENT_CLEAR (01 R36; 03 R79). -/
def execSlotResidentClear (slot : Fin 64) (v : Word) (s : State) : Host.Outcome State Fault Refusal :=
  .next (whileUp s fun s => slotClear s slot v)

/-- CONTEXT_ENABLE: a write with ENABLE 1 to the first word of a context's entry (03 R74). The check of CBASE and
LOG2SIZE takes the values that stand; the fields of the word itself are stored by the same write. -/
def contextEnable (s : State) (x : ContextId) (v : Word) : State :=
  let c := getContext s x.val
  if c.enable then s
  else
    let func := bits v.toNat 5 2
    let full := func != 0 && (windowList s (Fin.ofNat 16 func)).length ≥ 64
    let ring := c.cbase.toNat * 4096
    let badRing := !(placeOf s ring == .local || placeOf s ring == .peer || placeOf s ring == .host)
    let badSize := c.log2size.toNat < 4
    let c := { c with func := BitVec.ofNat 4 func, asid := BitVec.ofNat 16 (bits v.toNat 31 16) }
    let c := if full || badRing || badSize then { c with assignFail := true }
      else { c with enable := true, assignFail := false, cprod := 0, ccons := 0, held := [], disabling := false }
    modContext s x.val fun _ => c

/-- CONTEXT_ENABLE (01 R36; 03 R74). -/
def execContextEnable (x : ContextId) (v : Word) (s : State) : Host.Outcome State Fault Refusal :=
  .next (whileUp s fun s => contextEnable s x v)

/-- CONTEXT_DISABLE: a write with ENABLE 0 to the first word of a context's entry (03 R75). -/
def contextDisable (s : State) (x : ContextId) (v : Word) : State :=
  let c := getContext s x.val
  if c.enable then
    if c.disabling then s
    else settleDisable (modContext (resetContext s x) x.val fun c => { c with disabling := true }) x
  else modContext s x.val fun c =>
    { c with func := BitVec.ofNat 4 (bits v.toNat 5 2), asid := BitVec.ofNat 16 (bits v.toNat 31 16) }

/-- CONTEXT_DISABLE (01 R36; 03 R75). -/
def execContextDisable (x : ContextId) (v : Word) (s : State) : Host.Outcome State Fault Refusal :=
  .next (whileUp s fun s => contextDisable s x v)

/-- FUNCTION_LEVEL_RESET of a function; that of the physical function resets every function (02 R52). -/
def execFunctionLevelReset (f : FuncId) (s : State) : Host.Outcome State Fault Refusal :=
  .next (resetContexts s fun c => f.val = 0 || c.func.toNat == f.val)

/-- HOST_LINK_DOWN (02 R52). -/
def execHostLinkDown (s : State) : Host.Outcome State Fault Refusal := .next (resetContexts s fun _ => true)

end Sys2Proof.Machine
end

