-- ==== Sys2Proof/Machine/Memory.lean ====
section
/-!
DEFINITION. Loads, stores, prefetches, appends and the ordering words of the A-stream (15 R412 to R420; 08 R226 to R231;
12 R345).
-/
namespace Sys2Proof.Machine

/-! ### Queues (15 R412 to R414) -/

/-- The bytes of a size code (13 R356). -/
def sizeBytes (size : BitVec 3) : Nat := if size = 4 then 256 else 2 ^ size.toNat

/-- The queue that a load fills: its destination, its partner stream, its entries and its depth (15 R412). -/
def loadQueue (t : Ctx) (q : BitVec 5) : Option (LoadDest × Stream × Nat × Nat) :=
  match q.toNat with
  | 12 => some (.qas, .s, t.q.qas.length, depth32)
  | 14 => some (.qap, .p, t.q.qap.length, depth16)
  | n => if n < 8 then some (.ql (Fin.ofNat 8 n), .v, (vget t.q.ql n).length, depth16) else none

/-- A load into a queue may issue: its partner is enabled and it has an entry that no load has reserved (15 R412,
R413). -/
def loadTarget (t : Ctx) (q : BitVec 5) : Res LoadDest :=
  match loadQueue t q with
  | none => .fail .illegalWord
  | some (dest, st, n, depth) => (partner t st).andThen fun _ => (guardWait (n < depth)).mapTo fun _ => dest

/-- The entry at the head of a store's source queue and the task without it; qsa gives 8 bytes, the others 256
(15 R412 to R414). -/
def popSource (t : Ctx) (q : BitVec 5) : Res (List Byte × Ctx) :=
  match q.toNat with
  | 13 => match t.q.qsa with
    | e :: r => .ok (bytesOf e.val 0 8, modQ t fun q => { q with qsa := r })
    | [] => .wait
  | 15 => (partner t .p).andThen fun _ => match t.q.qpa with
    | e :: r => .ok (bytesOf e.val 0 256, modQ t fun q => { q with qpa := r })
    | [] => .wait
  | n =>
    if n < 8 || 12 ≤ n then .fail .illegalWord
    else (partner t .v).andThen fun _ => match vget t.q.qs (n - 8) with
      | e :: r => .ok (bytesOf e.val 0 256, modQ t fun q => { q with qs := vset q.qs (n - 8) r })
      | [] => .wait

/-- The checks of a source queue: a number that stores accept and a partner that is enabled (15 R412). -/
def sourceQueue (t : Ctx) (q : BitVec 5) : Res Unit :=
  match popSource t q with
  | .ok _ | .wait => .ok ()
  | r => r.mapTo fun _ => ()

/-- Several entries popped in order. -/
def popSources (q : BitVec 5) : (n : Nat) → Ctx → Res (List (List Byte) × Ctx)
  | 0, t => .ok ([], t)
  | n + 1, t => (popSource t q).andThen fun (b, t) => (popSources q n t).mapTo fun (l, t) => (b :: l, t)

/-! ### Accesses (15 R415 to R418) -/

/-- The pieces of accesses by the running core, all of them checked (15 R418). -/
def accessParts (s : State) (k : WalkKind) (l : List (VAddr × Nat × Nat)) : Res (List Part × State) :=
  resolveAll s (agentOf s.cur) (curCtx s).asid s.cur.val k l

/-- The loads of these accesses into dest (15 R413): n bytes of data in all. -/
def loadAll (s : State) (dest : LoadDest) (n : Nat) (l : List (VAddr × Nat × Nat)) : Res State :=
  (accessParts s .read l).mapTo fun (ps, s) => issueLoad s s.cur dest ps n (inSpec (curCtx s) .a)

/-- The store of data to these accesses. -/
def storeAll (s : State) (data : List Byte) (signal : Bool) (l : List (VAddr × Nat × Nat)) : Res State :=
  (accessParts s .write l).mapTo fun (ps, s) => issueStore s s.cur ps data signal false

/-- The address of the AM format: the base and imm11 scaled by the size (15 R415). -/
def scaledAddr (t : Ctx) (b : Fin 32) (imm : BitVec 11) (size : BitVec 3) : Res VAddr :=
  effective (aGet t b) (imm.toInt * sizeBytes size)

/-- The m accesses of size bytes at EA(base, i × step), as address, place in the entry and size (15 R416, R417). -/
def stridedFrom (base : VAddr) (size : Nat) (disp : Nat → Int) : List Nat → Res (List (VAddr × Nat × Nat))
  | [] => .ok []
  | i :: r => (effective base (disp i)).andThen fun a =>
    (stridedFrom base size disp r).mapTo fun l => (a, size * i, size) :: l

/-- The accesses of LQS and SQS (15 R416). -/
def stridedAccesses (t : Ctx) (b c : Fin 32) (strided : Bool) (size : Nat) : Res (List (VAddr × Nat × Nat)) :=
  let step := signedOff (aGet t c)
  if strided then stridedFrom (aGet t b) size (fun i => i * step) (List.range (256 / size))
  else (effective (aGet t b) step).mapTo fun a => [(a, 0, size)]

/-- LQ (15 R415). -/
def execLq (q : BitVec 5) (b : Fin 32) (size : BitVec 3) (imm : BitVec 11) :=
  accessWord true [b] fun s =>
    let t := curCtx s
    (loadTarget t q).andThen fun dest => (scaledAddr t b imm size).andThen fun a =>
      loadAll s dest (sizeBytes size) [(a, 0, sizeBytes size)]

/-- LQS (15 R416). -/
def execLqs (q : BitVec 5) (b c : Fin 32) (strided : Bool) (size : BitVec 3) :=
  accessWord true [b, c] fun s =>
    let t := curCtx s
    let n := sizeBytes size
    (loadTarget t q).andThen fun dest => (stridedAccesses t b c strided n).andThen fun l =>
      loadAll s dest (if strided then 256 else n) l

/-- LX (15 R415). -/
def execLx (d b : Fin 32) (size : BitVec 3) (imm : BitVec 11) :=
  accessWord true [d, b] fun s =>
    (scaledAddr (curCtx s) b imm size).andThen fun a => loadAll s (.areg d) (sizeBytes size) [(a, 0, sizeBytes size)]

/-- SQ (15 R415). -/
def execSq (q : BitVec 5) (b : Fin 32) (size : BitVec 3) (imm : BitVec 11) :=
  accessWord false [b] fun s =>
    (popSource (curCtx s) q).andThen fun (data, t) => (scaledAddr (curCtx s) b imm size).andThen fun a =>
      storeAll (modCur s fun _ => t) (data.take (sizeBytes size)) false [(a, 0, sizeBytes size)]

/-- SQS (15 R416). -/
def execSqs (q : BitVec 5) (b c : Fin 32) (strided signal : Bool) (size : BitVec 3) :=
  accessWord false [b, c] fun s =>
    let n := sizeBytes size
    (popSource (curCtx s) q).andThen fun (data, t) => (stridedAccesses (curCtx s) b c strided n).andThen fun l =>
      storeAll (modCur s fun _ => t) (if strided then data else data.take n) signal l

/-- SX (15 R415). -/
def execSx (src b : Fin 32) (size : BitVec 3) (imm : BitVec 11) :=
  accessWord false [src, b] fun s =>
    let t := curCtx s
    (scaledAddr t b imm size).andThen fun a =>
      storeAll s (natToBytes (sizeBytes size) (offset (aGet t src))) false [(a, 0, sizeBytes size)]

/-! ### Reads that a word makes itself (15 R417, R427, R436) -/

/-- The pieces of a read that must end before its word goes on, as a load that is never queued (08 R228). -/
def nowLoad (s : State) (parts : List Part) (n mark : Nat) : LoadRec :=
  ⟨s.stamp, mark, .drop, parts.flatMap (locPieces s), List.replicate n 0, false, (curCtx s).aq.ask⟩

/-- The bytes of a read of n bytes whose locations have been read. -/
def nowBytes (parts : List Part) (n : Nat) (seen : List (Nat × List Byte)) : List Byte :=
  parts.foldl (fun l p => spliceBytes l p.off ((seen.find? fun e => e.1 == p.pa).map (·.2) |>.getD [])) (List.replicate n 0)

/-- A read that must end before its word goes on: its locations one after another, each once the load may be performed
there, and the bytes with the last of them; mark is the number below which every write must be performed first (08 R224,
R228). Lines of the peer's memory are asked for. -/
def readNow (s : State) (va : VAddr) (n mark : Nat) : Res (List Byte × State) :=
  (accessParts s .read [(va, 0, n)]).andThen fun (ps, s) =>
    let l := nowLoad s ps n mark
    let (ask, s') := askFor s s.cur l
    let left := l.parts.filter fun p => !(curCtx s).aq.now.any fun e => e.1 == p.pa
    let finish (s : State) : Res (List Byte × State) :=
      .ok (nowBytes l.parts n (curCtx s).aq.now,
        modCur (chargeParts s s.cur ps) fun t => { t with aq := { t.aq with ask := [], now := [] } })
    if ask ≠ [] then .waitAs (modCur s' fun t => { t with aq := { t.aq with ask := t.aq.ask ++ ask } })
    else match left with
      | [] => finish s
      | p :: r =>
        if !mayReturn s s.cur l p then .wait
        else
          let (data, s) := readParts s s.cur l.ask l.data [p]
          let s := modCur s fun t => { t with aq := { t.aq with now := t.aq.now ++ [(p.pa, (data.drop p.off).take p.len)] } }
          if r.isEmpty then finish s else .again s

/-- LQG (15 R417). -/
def execLqg (q : BitVec 5) (b c : Fin 32) (size : BitVec 3) :=
  accessWord true [b, c] fun s =>
    let t := curCtx s
    let n := sizeBytes size
    (loadTarget t q).andThen fun dest =>
      (readNow s (aGet t c) (4 * (256 / n)) t.aq.lastMark).andThen fun (idx, s) =>
        let disp (i : Nat) : Int := signed 32 (bytesToNat ((idx.drop (4 * i)).take 4)) * n
        (stridedFrom (aGet t b) n disp (List.range (256 / n))).andThen fun l => loadAll s dest 256 l

/-! ### Prefetch (15 R419) -/

/-- The line that a prefetch may take: its number, and whether it is a PRIVATE line of this core; none where the
prefetch is dropped. It marks no entry, claims no page and classifies none; what its walk reads is charged (04 R114). -/
def prefetchLine (s : State) (va : VAddr) : Option (Nat × Bool) × State :=
  if region va ≥ 0xF0 then (none, s)
  else
    let who := agentOf s.cur
    let asid := (curCtx s).asid
    let (found, s) := match tlbLookup s who asid va.toNat false with
      | some e => (some (e.leaf.toNat, e.pa + va.toNat % 2 ^ e.bits), s)
      | none =>
        let u := chargeFills (touchWalk s asid va .read) s.cur
        match walkTables s asid va .read with
        | .leaf _ pte size => (some (pte, ptePa pte / 2 ^ size * 2 ^ size + va.toNat % 2 ^ size), u)
        | .fault _ => (none, u)
    match found with
    | none => (none, s)
    | some (leaf, pa) =>
      let own := leafClass leaf == 0 && leafOwner leaf == who
      (if placeOf s pa != .local || !bit leaf 5 || !(leafClass leaf == 1 || own) then none else some (pa / 64, own), s)

/-- A prefetched line reaches the cache that the word names, unless it holds it: level 0 the L1, from the island cache
where that holds it, level 1 the island cache. A line with a write of the island on
its way is left alone. -/
def fillLine (s : State) (level line : Nat) (own : Bool) : State :=
  let busy := s.cores.toList.zipIdx.any fun (k, i) => islandOf (coreOf i) == islandOf s.cur
    && k.ctx.aq.inflight.any fun r => (linesOf r.part).contains line
  if busy then s
  else if own then (if level = 0 then (privateLine s s.cur line).2 else s)
  else
    let i := getIsland s (islandOf s.cur)
    let inIsland := (cacheHit i.cache i.ver line).isSome
    let s := if inIsland || (level = 0 && !sharedMiss s s.cur line) then s else touchHome s (some s.cur) line false
    let data : BitVec 512 := ofBytes 512 (memReadN s.mem (line * 64) 64)
    if level = 0 then (sharedLine s s.cur line data true).2
    else if inIsland then s
    else modIsland s (islandOf s.cur) fun i =>
      { i with cache := cacheFill 32768 i.cache ⟨line, i.ver, false, false, data⟩ }

/-- PREF (15 R419). -/
def execPref (level : BitVec 5) (b : Fin 32) (size : BitVec 3) (imm : BitVec 11) :=
  accessWord true [b] fun s =>
    match scaledAddr (curCtx s) b imm size with
    | .ok va => match prefetchLine s va with
      | (some (line, own), s) => .ok (fillLine s level.toNat line own)
      | (none, s) => .ok s
    | _ => .ok s

/-! ### APPEND (15 R420; 12 R345) -/

/-- The size of a window in bytes. -/
def winLimit (w : Vector Word 3) : Nat := bits w[1].toNat 63 32

/-- The places of the entries that an APPEND writes: their displacements from BASE and the window after (12 R345). -/
def appendPlaces (w : Vector Word 3) (r : Option Round) (size : Nat) : Res (List Nat × Vector Word 3) :=
  if !winEn w then .fail .access
  else match r with
    | none =>
      if winClen w + size > winLimit w then .fail .appendFull
      else .ok ([winClen w], winSet w (winClen w + size) (winOff w))
    | some r =>
      if winOff w + size > winStride w || winClen w + (r.n + 1) * winStride w > winLimit w then .fail .appendFull
      else .ok ((List.range (r.n + 1)).map fun j => winClen w + j * winStride w + winOff w,
        winSet w (winClen w) (winOff w + size))

/-- One store of an APPEND. In speculative mode its bytes lie beyond the committed length and no access is ordered with
them until the commit (08 R240). -/
def appendStore (s : State) (data : List Byte) (a : VAddr) : Res State :=
  (accessParts s .write [(a, 0, data.length)]).mapTo fun (ps, s) =>
    if inSpec (curCtx s) .a then issueStore (loosen s s.cur (curCtx s).asid a ps) s.cur ps data false true
    else issueStore s s.cur ps data false false

/-- Stores of the popped entries at their places, one after another. -/
def appendStores (base : VAddr) (size : Nat) : List (Nat × List Byte) → State → Res State
  | [], s => .ok s
  | (d, data) :: r, s => (effective base d).andThen fun a =>
    (appendStore s (data.take size) a).andThen fun s => appendStores base size r s

/-- APPEND (15 R420). -/
def execAppend (q : BitVec 5) (w : BitVec 5) (size : BitVec 3) :=
  accessWord true [] fun s =>
    let t := curCtx s
    let n := sizeBytes size
    if w.toNat > 3 || q.toNat = 15 then .fail .illegalWord
    else
      let win := vget t.windows w.toNat
      (sourceQueue t q).andThen fun _ => (appendPlaces win (roundOf t .a) n).andThen fun (places, win') =>
        (popSources q places.length t).andThen fun (data, t) =>
          let s := modCur s fun _ => { t with windows := vset t.windows w.toNat win' }
          appendStores (winBase win) n (places.zip data) s

/-! ### Ordering (08 R227, R228, R231) -/

/-- The running A-stream passes a MARK: it enters both queues (08 R228). -/
def placeMark (s : State) : State :=
  let (n, s) := takeStamp s
  drainStores (modCur s fun t => { t with aq := { t.aq with lastMark := n, stores := t.aq.stores ++ [.mark n] } }) s.cur

/-- ACQ once every load and atomic before it has returned (08 R231; 07 R218). -/
def acquire (s : State) (scope : Nat) : Res State :=
  if readsDone s s.cur then .ok (bumpVersions s s.cur scope) else .wait

/-- MARK (08 R228). -/
def execMark := accessWord true [] fun s => .ok (placeMark s)

/-- ACQ (08 R231). -/
def execAcq (scope : BitVec 3) := accessWord true [] fun s => acquire s scope.toNat

/-- REL: it holds back later stores in the store queue and no later A-word (08 R231). -/
def execRel (scope : BitVec 3) :=
  accessWord true [] fun s => (releasable s scope.toNat).andThen fun _ =>
    let (n, s) := takeStamp s
    .ok (drainStores (modCur s fun t =>
      { t with aq := { t.aq with stores := t.aq.stores ++ [.rel n scope.toNat] } }) s.cur)

/-- FENCE (08 R231). -/
def execFence (scope : BitVec 3) :=
  accessWord true [] fun s => (release s scope.toNat).andThen fun _ => acquire s scope.toNat

end Sys2Proof.Machine
end

