-- ==== Sys2Proof/Machine/Sync.lean ====
section
/-!
DEFINITION. Atomics, monitors, rings, barriers and split counters, as the A-stream drives them (15 R421 to R426; 09 R245
to R271).
-/
namespace Sys2Proof.Machine

/-! ### Atomics (15 R421 to R423; 08 R236) -/

/-- The location of an atomic or a WAITA, which walks as a read: aligned, and one piece that is no window (15 R423;
09 R257). -/
def atomicPart (s : State) (b : VAddr) (size : Nat) (k : WalkKind) : Res (Part × State) :=
  if offset b % size != 0 then .trap .misalign 0 b
  else if region b ≥ 0xF0 then .trap .access (kindDetail k) b
  else (accessParts s k [(b, 0, size)]).andThen fun (ps, s) =>
    match ps with
    | [p] => .ok (p, s)
    | _ => .trap .access (kindDetail k) b

/-- An atomic issues: it enters both queues and orders as a MARK before and after it, so that no later load passes it
(08 R226, R233). hostOk tells whether the host port completes it (02 R51). -/
def issueAtomic (s : State) (b : VAddr) (hostOk : Bool) (wide : Bool) (mk : Nat → Part → AtomicRec) : Res State :=
  (atomicPart s b (if wide then 8 else 4) .atomic).andThen fun (p, s) =>
    if placeOf s p.pa = .host && !hostOk then .trap .access 2 b
    else
      let (n, s) := takeStamp s
      let a := mk n p
      .ok (drainStores (modCur s fun t => { t with
        aBusy := match a.dest with
          | some d => d :: t.aBusy
          | none => t.aBusy
        aq := { t.aq with lastMark := n + 1, stores := t.aq.stores ++ [.atomic a] } }) s.cur)

/-- The operand of an atomic: the low bits of a register. -/
def atomicOperand (t : Ctx) (c : Fin 32) (wide : Bool) : Word :=
  BitVec.ofNat 64 (offset (aGet t c) % 2 ^ (if wide then 64 else 32))

/-- AMO (15 R421). -/
def execAmo (d b c : Fin 32) (signal wide : Bool) (op : BitVec 4) :=
  accessWord false [d, b, c] fun s =>
    let t := curCtx s
    if op.toNat > 9 || (op == 9 && wide) then .fail .illegalWord
    else issueAtomic s (aGet t b) (op == 0 || op == 4) wide fun n p =>
      { id := n, part := p, wide := wide, op := op, cas := false, operand := atomicOperand t c wide, cmp := 0
        signal := signal, dest := some d, sent := false }

/-- ACAS (15 R421). -/
def execAcas (d b c : Fin 32) (signal wide : Bool) :=
  accessWord false [d, b, c] fun s =>
    let t := curCtx s
    issueAtomic s (aGet t b) true wide fun n p =>
      { id := n, part := p, wide := wide, op := 4, cas := true, operand := atomicOperand t c wide
        cmp := atomicOperand t d wide, signal := signal, dest := some d, sent := false }

/-- RED (15 R421). -/
def execRed (b c : Fin 32) (signal wide : Bool) (op : BitVec 4) :=
  accessWord false [b, c] fun s =>
    let t := curCtx s
    if op.toNat > 9 || op == 4 || (op == 9 && wide) then .fail .illegalWord
    else issueAtomic s (aGet t b) (op == 0) wide fun n p =>
      { id := n, part := p, wide := wide, op := op, cas := false, operand := atomicOperand t c wide, cmp := 0
        signal := signal, dest := none, sent := false }

/-! ### Monitors (09 R257 to R259) -/

/-- The value of a location at its home, after any write-back of an owner, this core's own among them (09 R257). The
copies of the core and its island go, so that no later load goes back behind it (08 R225). -/
def homeValue (s : State) (p : Part) : Nat × State :=
  let s := dropLine s s.cur (p.pa / 64)
  let s := if placeOf s p.pa = .local then touchHome s (some s.cur) (p.pa / 64) false else s
  let (b, s) := looseBytes s p.pa (physRead s p.pa p.len)
  (bytesToNat b, s)

/-- One more waiter enters the monitor entry of a line; none when the table of the line's home slice is full (09 R257).
-/
def addWaiter (s : State) (line : Nat) (add : Monitor → Monitor) : Option State :=
  if s.monitors.any fun m => m.line == line then
    some { s with monitors := s.monitors.map fun m => if m.line == line then add m else m }
  else if (s.monitors.filter fun m => homeSlice (m.line * 64) == homeSlice (line * 64)).length ≥ 64 then none
  else some { s with monitors := s.monitors ++ [add ⟨line, [], []⟩] }

/-- The running core waits in the monitor entry of a line (09 R257). -/
def addMonitor (s : State) (line : Nat) : Option State :=
  addWaiter s line fun m => { m with waiters := (m.waiters.filter (· != s.cur)) ++ [s.cur] }

/-- A WAITA at a location of the peer's memory goes to its home slice there, which makes the compare and the
registration (02 R54; 09 R257; DESIGN CHOICE 105 for the message). -/
def askWaita (s : State) (d : Fin 32) (p : Part) (expect : Nat) : State :=
  let c := s.cur
  let s := modIsland (dropShared s c (p.pa / 64)) (islandOf c) fun i => { i with fills := i.fills + 1 }
  let (n, s) := takeStamp s
  let m : BridgeAtomic := ⟨p.pa, 0, false, p.len == 8, false, 0, BitVec.ofNat 64 expect, Fin.ofNat 64 c.val, true,
    false⟩
  let s := chargeExternal { s with sent := .bridgeAtomic n m :: s.sent } c 1
  modCur s fun t => { t with aq := { t.aq with waita := .asked n p.pa d } }

/-- The compare and the registration of a WAITA, one step at the home slice (09 R257). -/
def startWaita (s : State) (d : Fin 32) (b : VAddr) (expect : Nat) (size : Nat) : Res State :=
  (atomicPart s b size .read).andThen fun (p, s) =>
    if placeOf s p.pa = .host then .trap .access 0 b
    else
      if writesBefore s (curCtx s) (curCtx s).aq.lastMark then .wait
      else if placeOf s p.pa = .peer then .waitAs (askWaita s d p expect)
      else
        let (v, s) := homeValue s p
        let finish (n : Nat) (s : State) : Res State := .ok (modCur s fun t => aSet64 t d n)
        if v != expect then finish 0 s
        else match addMonitor s (p.pa / 64) with
          | none => finish 2 s
          | some s => .waitAs (modCur s fun t => { t with aq := { t.aq with waita := .registered (p.pa / 64) d } })

/-- WAITA (15 R421; 09 R257). -/
def execWaita (d b c : Fin 32) (wide : Bool) :=
  accessWord false [d, b, c] fun s =>
    let t := curCtx s
    match t.aq.waita with
    | .none => startWaita s d (aGet t b) (atomicOperand t c wide).toNat (if wide then 8 else 4)
    | .registered _ _ | .asked _ _ _ => .wait
    | .woken _ => .ok (modCur s fun t => aSet64 { t with aq := { t.aq with waita := .none } } d 1)
    | .answered _ n => .ok (modCur s fun t => aSet64 { t with aq := { t.aq with waita := .none } } d n)

/-! ### Rings (09 R245 to R250; 15 R424) -/

/-- LSLOT + 6: the logarithm of the slot size. -/
def ringSlotBits (d : Word) : Nat := bits d.toNat 23 20 + 6
/-- The slots of a ring. -/
def ringCount (d : Word) : Nat := 2 ^ bits d.toNat 27 24
/-- The scope of a ring's release and acquire. -/
def ringScope (d : Word) : Nat := bits d.toNat 30 28
/-- The ring is in use. -/
def ringEn (d : Word) : Bool := d.getLsbD 31
/-- Slots freed, modulo 512. -/
def ringHead (d : Word) : Nat := bits d.toNat 40 32
/-- Slots made ready, modulo 512. -/
def ringTail (d : Word) : Nat := bits d.toNat 49 41
/-- Slots claimed, modulo 512. -/
def ringClaim (d : Word) : Nat := bits d.toNat 58 50
/-- The descriptor with new HEAD, TAIL and CLAIM. -/
def ringPut (d : Word) (head tail claim : Nat) : Word :=
  BitVec.ofNat 64 (d.toNat % 2 ^ 32 + head % 512 * 2 ^ 32 + tail % 512 * 2 ^ 41 + claim % 512 * 2 ^ 50)
/-- a − b modulo 512. -/
def mod512 (a b : Nat) : Nat := (a + 512 - b % 512) % 512

/-- The ring that a word names: its core and its number there (15 R424; 07 R198). -/
def ringName (s : State) (b : Fin 32) (imm : BitVec 11) : Res (CoreId × Nat) :=
  let base := aGet (curCtx s) b
  let rid := offset base + imm.toNat
  if region base != 0 || rid > 2047 then .fail .access
  else if rid / 32 != s.cur.val && !mayUseScratch s (curCtx s).asid (rid / 32) then .fail .access
  else .ok (coreOf (rid / 32), rid % 32)

/-- Ring n of core c. -/
def getRing (s : State) (c : CoreId) (n : Nat) : Ring := vget (getCore s c).rings n
/-- Ring n of core c set. -/
def setRing (s : State) (c : CoreId) (n : Nat) (r : Ring) : State :=
  modCore s c fun k => { k with rings := vset k.rings n r }

/-- The running word waits at ring n of core c (09 R249). -/
def ringWaits (s : State) (c : CoreId) (n : Nat) : State :=
  modCur s fun t => { t with aq := { t.aq with ringWait := some (c, n, false) } }

/-- A word that uses an enabled ring; one that has waited at a ring which was disabled meanwhile, or whose core's task
has ended, faults (09 R249). -/
def ringWord (regs : List (Fin 32)) (b : Fin 32) (imm : BitVec 11) (f : State → CoreId → Nat → Ring → Res State) :
    State → Host.Outcome State Fault Refusal :=
  accessWord false regs fun s =>
    (ringName s b imm).andThen fun (c, n) =>
      let r := getRing s c n
      let gone := match (curCtx s).aq.ringWait with
        | some w => w.2.2
        | none => false
      if ringEn r.desc && !gone then f s c n r else .fail .access

/-- The address of slot k of a ring of core c (09 R247). -/
def slotAddr (c : CoreId) (d : Word) (k : Nat) : VAddr :=
  vaddr 0xFD (c.val * 2 ^ 20 + (bits d.toNat 19 0 + k * 2 ^ ringSlotBits d))

/-- RCLAIM; waiters are served in the order in which they arrived (09 R247). -/
def execRclaim (d b : Fin 32) (imm : BitVec 11) :=
  ringWord [d, b] b imm fun s c n r =>
    let q := r.waiters.filter (· != s.cur)
    let first := r.waiters.isEmpty || r.waiters.head? == some s.cur
    let w := r.desc
    if first && mod512 (ringClaim w) (ringHead w) < ringCount w && readsDone s s.cur then
      let k := ringClaim w % ringCount w
      let s := setRing s c n { r with desc := ringPut w (ringHead w) (ringTail w) (ringClaim w + 1), waiters := q }
      (acquire s (ringScope w)).mapTo fun s => modCur s fun t => aSet t d (slotAddr c w k)
    else .waitAs (setRing (ringWaits s c n) c n
      { r with waiters := if r.waiters.contains s.cur then r.waiters else r.waiters ++ [s.cur] })

/-- The slot of a ring that an address names, of the words of core who (09 R248). -/
def namedSlot (who c : CoreId) (d : Word) (a : VAddr) : Option Nat :=
  let o := if region a = 0xFD && offset a / 2 ^ 20 = c.val then some (offset a % 2 ^ 20)
    else if region a = 0xFE && who = c && offset a < 2 ^ 20 then some (offset a) else none
  match o with
  | none => none
  | some o =>
    let base := bits d.toNat 19 0
    if base ≤ o && (o - base) % 2 ^ ringSlotBits d = 0 && (o - base) / 2 ^ ringSlotBits d < ringCount d then
      some ((o - base) / 2 ^ ringSlotBits d)
    else none

/-- Slot k is CLAIMED: its position lies from TAIL to CLAIM − 1, and it is not FILLED (09 R247). -/
def slotClaimed (r : Ring) (k : Nat) : Bool :=
  let w := r.desc
  !r.filled.getLsbD k && (List.range (mod512 (ringClaim w) (ringTail w))).any fun i =>
    (ringTail w + i) % 512 % ringCount w == k

/-- TAIL passes every FILLED slot at it (09 R247); fuel bounds the slots. -/
def advanceTail : (fuel : Nat) → Ring → Ring
  | 0, r => r
  | fuel + 1, r =>
    let w := r.desc
    let k := ringTail w % ringCount w
    if ringTail w != ringClaim w && r.filled.getLsbD k then
      advanceTail fuel { r with
        desc := ringPut w (ringHead w) (ringTail w + 1) (ringClaim w), filled := setBit r.filled k false }
    else r

/-- RPUB (09 R247, R248). -/
def execRpub (src b : Fin 32) (imm : BitVec 11) :=
  ringWord [src, b] b imm fun s c n r =>
    match namedSlot s.cur c r.desc (aGet (curCtx s) src) with
    | none => .fail .queue
    | some k =>
      if !slotClaimed r k then .fail .queue
      else (release s (ringScope r.desc)).mapTo fun _ =>
        setRing s c n (advanceTail 256 { r with filled := setBit r.filled k true })

/-- RWAITF (09 R247). -/
def execRwaitf (d b : Fin 32) (imm : BitVec 11) :=
  ringWord [d, b] b imm fun s c n r =>
    let w := r.desc
    if ringTail w == ringHead w then .waitAs (ringWaits s c n)
    else (acquire s (ringScope w)).mapTo fun s => modCur s fun t => aSet t d (slotAddr c w (ringHead w % ringCount w))

/-- RFREE (09 R247). -/
def execRfree (b : Fin 32) (imm : BitVec 11) :=
  ringWord [b] b imm fun s c n r =>
    let w := r.desc
    if ringTail w == ringHead w then .fail .queue
    else (release s (ringScope w)).mapTo fun _ =>
      setRing s c n { r with desc := ringPut w (ringHead w + 1) (ringTail w) (ringClaim w) }

/-- RSTAT, read form (09 R245, R247). -/
def execRstatRead (d b : Fin 32) (imm : BitVec 11) :=
  accessWord false [d, b] fun s =>
    (ringName s b imm).mapTo fun (c, n) => modCur s fun t => aSet64 t d (getRing s c n).desc.toNat

/-- A descriptor that the set form accepts (09 R246). -/
def ringOk (v : Word) : Bool :=
  let base := bits v.toNat 19 0
  !ringEn v || (bits v.toNat 23 20 ≤ 10 && bits v.toNat 27 24 ≤ 8 && ringScope v ≤ 2 && base % 2 ^ ringSlotBits v == 0
    && base + ringCount v * 2 ^ ringSlotBits v ≤ 0x100000 && bits v.toNat 63 59 == 0)

/-- RSTAT, set form: clearing EN ends the waits at the ring (09 R245, R246, R249). -/
def execRstatSet (d b : Fin 32) (imm : BitVec 11) :=
  accessWord false [d, b] fun s =>
    let base := aGet (curCtx s) b
    let rid := offset base + imm.toNat
    let v : Word := BitVec.ofNat 64 (offset (aGet (curCtx s) d))
    if region base != 0 || rid > 2047 || rid / 32 != s.cur.val then .fail .access
    else
      let r := getRing s s.cur (rid % 32)
      if (ringEn r.desc && ringClaim r.desc != ringHead r.desc) || !ringOk v then .fail .queue
      else
        let s := if ringEn v then s else disableWaits s s.cur fun n => n == rid % 32
        .ok (setRing s s.cur (rid % 32) { r with
          desc := BitVec.ofNat 64 (v.toNat % 2 ^ 32), filled := 0, waiters := if ringEn v then r.waiters else [] })

/-! ### Barriers (09 R251 to R256; 15 R425) -/

/-- The scope of the task's group (05 R133). -/
def groupScope (s : State) : Nat :=
  match kernelOf s (curCtx s).task with
  | some k => ((barLevel k.record).map fun e => e.2.scope).getD 0
  | none => 0

/-- The position of barrier operand b in the group's block (09 R252). -/
def barPosition (t : Ctx) (b : Nat) : Res Nat :=
  let d := t.csr.bdepth.toNat
  if d = 0 || b ≥ d then .fail .barrierRange else .ok ((t.csr.bbase.toNat + b) % d)

/-- The file and the number of the barrier at position p. -/
def barName (t : Ctx) (p : Nat) : Nat × Nat := ((t.barFile.getD (16, 0)).1, (t.barFile.getD (16, 0)).2 + p)

/-- BARR (09 R253). -/
def execBarr (b : Fin 16) :=
  accessWord false [] fun s =>
    let t := curCtx s
    (barPosition t b.val).andThen fun p =>
      if t.csr.arrived.getLsbD p then .wait
      else (release s (groupScope s)).mapTo fun _ =>
        let (file, i) := barName t p
        let s := modCur s fun t => { t with csr := { t.csr with arrived := setBit t.csr.arrived p true } }
        let r := barGet s file i
        checkComplete (barSet s file i { r with arr := r.arr + 1 }) file i

/-- BWAIT (09 R253). -/
def execBwait (b : Fin 16) :=
  accessWord false [] fun s =>
    let t := curCtx s
    (barPosition t b.val).andThen fun p =>
      if t.csr.arrived.getLsbD p then .wait else acquire s (groupScope s)

/-- BEXPECT (09 R253). -/
def execBexpect (a : Fin 32) (b : Fin 16) :=
  accessWord false [a] fun s =>
    let t := curCtx s
    let n := offset (aGet t a)
    (barPosition t b.val).andThen fun p =>
      let (file, i) := barName t p
      let r := barGet s file i
      if n > pendMax ∨ r.pend + n > pendMax then .fail .barrierRange
      else if n = 0 then .ok s
      else .ok (checkComplete (barSet s file i { r with pend := r.pend + n }) file i)

/-- BROT (09 R252). -/
def execBrot :=
  accessWord false [] fun s =>
    let t := curCtx s
    (barPosition t 0).mapTo fun _ => modCur s fun t => { t with csr := { t.csr with
      bbase := BitVec.ofNat 4 ((t.csr.bbase.toNat + 1) % t.csr.bdepth.toNat) } }

/-! ### Split counters (09 R260 to R267; 15 R426) -/

/-- The allowance of a holder. -/
def allowance (o : SplitCounter) (c : Nat) : Nat := tget o.allow c 0
/-- The exact total (09 R260). -/
def exactTotal (o : SplitCounter) : Nat := o.allow.foldl (fun n e => n + e.2) o.res
/-- The allowance of a holder set. -/
def setAllowance (o : SplitCounter) (c n : Nat) : SplitCounter :=
  { o with allow := if n = 0 then tdel o.allow c else tset o.allow c n }

/-- RecallRound(1) by the request of core c: what the other active holders hold above ⌊T / A⌋ goes to RES (09 R264). -/
def recallExcess (o : SplitCounter) (c : Nat) : SplitCounter :=
  let f := exactTotal o / o.hints.length
  let others := (o.hints.map fun e => e.1).filter (· != c)
  let o := others.foldl (fun o h =>
    let a := allowance o h
    if a > f then { setAllowance o h f with res := o.res + (a - f) } else o) o
  { o with last := ((others.filter (· ≤ o.last)).getLast?).getD (others.getLast?.getD o.last) }

/-- RecallRound(2) of every holder that keep does not except (09 R264). -/
def recallAll (o : SplitCounter) (keep : Nat → Bool) : SplitCounter :=
  let out := o.allow.filter fun e => !keep e.1
  { o with res := out.foldl (fun n e => n + e.2) o.res, allow := o.allow.filter fun e => keep e.1 }

/-- The object that a word names, bound to the task's ASID (09 R260; 15 R426). -/
def counterName (s : State) (b : Fin 32) (imm : BitVec 12) : Res Nat :=
  let base := aGet (curCtx s) b
  let obj := offset base + imm.toNat
  if region base != 0 || obj > 4095 then .fail .access else .ok obj

/-- A split-counter word other than SCINIT: f gets the object's number, the object, and the requesting core. -/
def counterWord (d b : Fin 32) (imm : BitVec 12) (f : State → Nat → SplitCounter → Res State) :
    State → Host.Outcome State Fault Refusal :=
  accessWord false [d, b] fun s =>
    (counterName s b imm).andThen fun obj =>
      match tfind s.counters obj with
      | none => .fail .access
      | some o => if o.bound == some (curCtx s).asid then f s obj o else .fail .access

/-- An object set. -/
def setCounter (s : State) (obj : Nat) (o : SplitCounter) : State := { s with counters := tset s.counters obj o }

/-- The holder c of an object lets go of it: its allowance goes to RES and it is active no more (09 R262). -/
def dropHolder (s : State) (obj c : Nat) : State :=
  match tfind s.counters obj with
  | none => s
  | some o =>
    let o := { setAllowance o c 0 with res := o.res + allowance o c, hints := tdel o.hints c }
    serveFifo (setCounter s obj o) obj

/-- The object becomes the most recently used of the running core's allowance cache; a victim is evicted for a new entry
(09 R262). -/
def touchCounter (s : State) (obj : Nat) : State :=
  let l := (curCore s).scCache
  let l' := obj :: l.filter (· != obj)
  let s := modCore s s.cur fun k => { k with scCache := l'.take 32 }
  (l'.drop 32).foldl (fun s o => dropHolder s o s.cur.val) s

/-- The word's result. -/
def counterResult (s : State) (d : Fin 32) (n : Nat) : Res State := .ok (modCur s fun t => aSet64 t d n)

/-- A refill that the reserve covers (09 R263): the object after, with the share hint. -/
def grantUnits (o : SplitCounter) (c n : Nat) : SplitCounter :=
  let a := o.hints.length
  let loc := allowance o c
  let g := min (min o.res (max (n - loc) (ceilDiv o.res (2 * a)))) (2 ^ 32 - 1 + n - loc)
  let h := max 1 (ceilDiv o.res a)
  { setAllowance o c (loc + g - n) with res := o.res - g, hints := tset o.hints c h }

/-- SCDEC.WAIT and SCDEC.TRY (09 R263). -/
def scdec (wait : Bool) (d b : Fin 32) (imm : BitVec 12) :=
  counterWord d b imm fun s obj o =>
    let c := s.cur.val
    let n := offset (aGet (curCtx s) d) % 2 ^ 32
    if n = 0 then counterResult s d 0
    else if allowance o c ≥ n then
      counterResult (touchCounter (setCounter s obj (setAllowance o c (allowance o c - n))) obj) d 0
    else
      let s := touchCounter s obj
      let o := tget s.counters obj o
      let o := { o with hints := if o.hints.any (fun e => e.1 == c) then o.hints else tset o.hints c 1 }
      let short := n - allowance o c
      let queue (o : SplitCounter) : Res State :=
        let o := { setAllowance o c 0 with res := o.res + allowance o c, fifo := o.fifo ++ [(c, n)] }
        let s := modCur (setCounter s obj o) fun t => { t with aq := { t.aq with scWait := .queued obj d } }
        .waitAs (serveFifo s obj)
      if !o.fifo.isEmpty then (if wait then queue o else counterResult (setCounter s obj o) d 1)
      else
        let o := if o.res < short then recallExcess o c else o
        let o := if o.res < short then recallAll o (· == c) else o
        if o.res ≥ short then counterResult (setCounter s obj (grantUnits o c n)) d 0
        else if wait then queue o
        else counterResult (setCounter s obj o) d 1

/-- SCDEC.WAIT (09 R263). -/
def execScdecWait (d b : Fin 32) (o : BitVec 12) (s : State) : Host.Outcome State Fault Refusal :=
  match (curCtx s).aq.scWait with
  | .none => scdec true d b o s
  | .queued _ _ => accessWord false [d, b] (fun _ => .wait) s
  | .ended _ status =>
    accessWord false [d, b] (fun s =>
      counterResult (modCur s fun t => { t with aq := { t.aq with scWait := .none } }) d status) s
/-- SCDEC.TRY (09 R263). -/
def execScdecTry (d b : Fin 32) (o : BitVec 12) := scdec false d b o

/-- SCDEC.RES (09 R263). -/
def execScdecRes (d b : Fin 32) (o : BitVec 12) :=
  counterWord d b o fun s obj x =>
    let v := offset (aGet (curCtx s) d)
    let n := v % 2 ^ 32
    let floor := v / 2 ^ 32
    let take (x : SplitCounter) : Res State := counterResult (setCounter s obj { x with res := x.res - n }) d 0
    if n = 0 then counterResult s d 0
    else if !x.fifo.isEmpty then counterResult s d 1
    else if x.res ≥ n + floor then take x
    else
      let x := recallAll x fun _ => false
      if x.res ≥ n + floor then take x else counterResult (setCounter s obj x) d 1

/-- SCINC (09 R265). -/
def execScinc (d b : Fin 32) (o : BitVec 12) :=
  counterWord d b o fun s obj x =>
    let c := s.cur.val
    let n := offset (aGet (curCtx s) d) % 2 ^ 32
    let loc := allowance x c
    let hint := tfind x.hints c
    let h := hint.getD 0
    if n = 0 then counterResult s d 0
    else if x.fifo.isEmpty && hint.isSome && loc + n ≤ min (2 * h) (2 ^ 32 - 1) then
      counterResult (touchCounter (setCounter s obj (setAllowance x c (loc + n))) obj) d 0
    else
      let excess := if hint.isSome then loc - h else 0
      if x.res + n + excess > 2 ^ 48 - 1 then counterResult s d 3
      else
        let x := { setAllowance x c (loc - excess) with res := x.res + n + excess }
        counterResult (serveFifo (setCounter s obj x) obj) d 0

/-- SCRD (09 R266). -/
def execScrd (d b : Fin 32) (o : BitVec 12) :=
  counterWord d b o fun s _ x => counterResult s d (x.res + allowance x s.cur.val)

/-- Every allowance of an object is recalled, and no core holds an entry of it (09 R262, R266). -/
def recallObject (s : State) (obj : Nat) (o : SplitCounter) : SplitCounter × State :=
  ({ recallAll o (fun _ => false) with hints := [] },
    { s with cores := s.cores.map fun k => { k with scCache := k.scCache.filter (· != obj) } })

/-- SCRDX (09 R266). -/
def execScrdx (d b : Fin 32) (o : BitVec 12) :=
  counterWord d b o fun s obj x =>
    let (x, s) := recallObject s obj x
    counterResult (serveFifo (setCounter s obj x) obj) d x.res

/-- SCINIT (09 R261). -/
def execScinit (d b : Fin 32) (o : BitVec 12) :=
  accessWord false [d, b] fun s =>
    (counterName s b o).andThen fun obj =>
      let v := offset (aGet (curCtx s) d)
      let asid := (curCtx s).asid
      let x := tget s.counters obj ⟨0, none, [], [], [], 0⟩
      if x.bound.isSome && x.bound != some asid then .fail .access
      else if v > 2 ^ 48 - 1 then .fail .access
      else
        let (x, s) := recallObject s obj x
        counterResult (serveFifo (setCounter s obj { x with bound := some asid, res := v }) obj) d 0

end Sys2Proof.Machine
end

