-- ==== Sys2Proof/Machine/Submit.lean ====
section
/-!
DEFINITION. The submission of jobs and sample requests, and the sampler reply queue (15 R427 to R437; 12 R328, R330; 02
R66).
-/
namespace Sys2Proof.Machine

/-- The 64 bytes of a card or descriptor, read in one load behind every earlier write, with a MARK placed before the
load (15 R427; 08 R237). -/
def readCard (s : State) (va : VAddr) : Res (BitVec 512 × State) :=
  (readNow s va 64 s.stamp).mapTo fun (b, s) => (ofBytes 512 b, placeMark s)

/-- A collective job of this card that has not completed has this tag (02 R66). -/
def collTagHeld (s : State) (tag : BitVec 16) : Bool :=
  s.jobs.any fun o => cardField o.card 0 1 == 3 && collTag o == tag
    && (o.phase == .waiting || o.phase == .running || o.phase == .stalled)

/-- A collective job completes at its submission with NO-PEER, BRIDGE-DOWN or COLL-TAG-BUSY (02 R61, R66). -/
def collRefusal (s : State) (j : Job) : Nat :=
  if cardField j.card 0 1 != 3 then 0
  else if !s.links.paired then 6
  else if !s.links.up then 8
  else if collTagHeld s (collTag j) then 5
  else 0

/-- A job enters the dispatch order, or is done at once with a status (15 R429, R435). -/
def enterJob (s : State) (j : Job) (status : Nat) : State :=
  let s := { s with nextJob := s.nextJob + 1 }
  if status != 0 then { s with jobs := s.jobs ++ [{ j with phase := .done, status := status }] }
  else { s with jobs := s.jobs ++ [j], disp := { s.disp with order := s.disp.order ++ [(true, j.num)] } }

/-- A job with this card is submitted; its barrier operand is resolved now (15 R427, R429; 09 R254). -/
def submitJob (s : State) (card : BitVec 512) (va : VAddr) : Res State :=
  let t := curCtx s
  let j (bar : Option (Nat × Nat)) : Job :=
    { num := s.nextJob, task := t.task, core := s.cur, asid := t.asid, context := t.context, card := card, cardVa := va
      bar := bar, fence := s.stamp, phase := .waiting, engine := 0, row := 0, col := 0, moved := 0, status := 0
      replay := none, io := EngIo.none, matched := false, buf := [], ending := false, kept := false }
  if !cardOk card then .ok (enterJob s (j none) 12)
  else if bit (cardField card 1 1) 1 then
    (barPosition t (cardField card 2 1)).mapTo fun p =>
      let j := j (some (barName t p))
      enterJob s j (collRefusal s j)
  else .ok (enterJob s (j none) (collRefusal s (j none)))

/-- JOB (15 R427, R428). -/
def execJob (b : Fin 32) :=
  accessWord false [b] fun s =>
    let t := curCtx s
    if offset (aGet t b) % 64 != 0 then .trap .misalign 0 (aGet t b)
    else if jobsAt s s.cur ≥ 32 then .wait
    else (readCard s (aGet t b)).andThen fun (card, s) => submitJob s card (aGet t b)

/-- The descriptor of a sample request, with the events of its read, which are the request's and reach the task's
counters with its last draw (04 R114). -/
def readDescriptor (s : State) (va : VAddr) : Res (BitVec 512 × EngIo × State) :=
  (readCard s va).mapTo fun (desc, s') =>
    let old := (curCtx s).acct
    let moved := ((curCtx s').acct.jmem - old.jmem).toNat
    let s' := modIsland (modCur s' fun t => { t with acct := old }) (islandOf s.cur) fun i =>
      { i with mmeter := i.mmeter - moved }
    let io := countIo EngIo.none (if region va = 0xFC then 1 else 0) 0
    (desc, { io with jmem := io.jmem + moved }, s')

/-- SAMPLE (15 R436; 12 R328, R330). -/
def execSample (b : Fin 32) :=
  accessWord true [b] fun s =>
    let t := curCtx s
    if offset (aGet t b) % 64 != 0 then .trap .misalign 0 (aGet t b)
    else if (samplesOf s t.task).length ≥ 8 then .wait
    else (readDescriptor s (aGet t b)).mapTo fun (desc, io, s) =>
      let r : Sample :=
        { num := s.nextJob, task := t.task, core := s.cur, asid := t.asid, desc := desc, cardVa := aGet t b
          specN := (roundOf t .a).map fun r => r.n, fence := s.stamp, engine := none, drawn := 0, bad := false
          cancelled := false, decided := none, replay := none, io := io, kept := false }
      { s with samples := s.samples ++ [r], nextJob := s.nextJob + 1 }

/-- SRPOP (15 R437). -/
def execSrpop (d : Fin 32) (f : Bool) :=
  addressWord [d] fun t =>
    match t.q.reply with
    | [] => .wait
    | e :: r =>
      let v := e.val.toNat
      let t := aSet64 (modQ t fun q => { q with reply := r }) d v
      if f then pushQas t v else .ok t

end Sys2Proof.Machine
end

