-- ==== Sys2Proof/Machine/Operands.lean ====
section
/-!
DEFINITION. The operands of V-words: register operands through the views, load queues, store queues and qb, their checks
and the issue of a word (06 R178 to R185; 16 R440 to R444).
-/
namespace Sys2Proof.Machine

/-! ### Elements and segments (16 R440) -/

/-- Bytes of a segment of a format (06 R181). -/
def segBytes (fmt : Nat) : Nat := if fmt = 13 then 768 else 256

/-! ### Register operands (06 R179 to R181) -/

/-- An operand of a V-word: its number, its step, its format, the segments it sweeps, and whether it goes through
VWT. -/
structure VOp where
  num   : BitVec 9
  step  : BitVec 7
  fmt   : Nat
  count : Nat
  tile  : Bool

/-- The view of an operand (06 R180). -/
def viewOf (c : Csrs) (o : VOp) : Word := if o.tile then c.vwt else if o.fmt = 13 then c.vwa else c.vwv

/-- The offset of segment j of register n of a view, with a step in granules (06 R181). -/
def segAddr (w : Word) (n : Nat) (step : BitVec 7) (j : Nat) : Int :=
  (viewBase w + viewStride w * n : Nat) + 32 * step.toInt * j

/-- CheckOperand of 06 R181. -/
def operandOk (w : Word) (n : Nat) (step : BitVec 7) (count fmt : Nat) : Bool :=
  (List.range count).all fun j =>
    let a := segAddr w n step j
    let e := a + segBytes fmt
    (viewBase w : Int) ≤ a && e ≤ viewEnd w && e ≤ 0x440000
      && (if fmt = 13 then a % 12 == 0 && e ≤ 0x3FFFFC else 0x400000 ≤ a)

/-- Where a source operand reads: registers from an address with a step, the entries that it pops, or a scalar. -/
inductive VSrc
  | regs (view : Word) (n : Nat) (step : BitVec 7)
  | entries (l : List Seg)
  | scalar (v : Word)

/-- Where a destination operand writes. -/
inductive VDst
  | regs (view : Word) (n : Nat) (step : BitVec 7)
  | queue (q : Fin 4)
  | nothing

/-- Register space as a read at byte a may find it: a result whose word issued before the V-stream last stalled may
already be visible; the free values choose for each result (06 R185). -/
def earlyResults (free a : Nat) (k : Core) : Core :=
  k.ctx.vpend.zipIdx.foldl (fun u (p, i) =>
    if p.tag.stalls != k.ctx.vstall && Config.freeBool free (0x1000000 * (i + 1) + a) then regWrites u p.regs else u) k

/-- The running M-word writes one of the n bytes from a on (06 R177; 17 R487). -/
def mWriting (k : Core) (a n : Nat) : Option TileCmd :=
  k.ctx.m.cmd.filter fun c => !c.landed && c.regs.any fun r => r.1 < a + n && a < r.1 + r.2.length

/-- The elements of w bits of n bytes of register space from byte a as a V-word that issues now may read them: of a
result on its way from before a stall, and of each element that a running M-word writes, the value before or the value
after; the free values of segment j choose (06 R177, R185; 17 R487). -/
def placeCodes (w n a free : Nat) (k : Core) (j : Nat) : List Nat :=
  let k := earlyResults free a k
  let codes (k : Core) : List Nat := splitElems w (8 * n / w) (bytesToNat (regRead k a n))
  match mWriting k a n with
  | none => codes k
  | some c => ((codes k).zip (codes (regWrites k c.regs))).zipIdx.map fun (e, i) =>
      if Config.freeBool free (4096 * j + i) then e.2 else e.1

/-- The elements of w bits of segment j of a source of format fmt as a V-word that issues now may read them; of a scalar,
the low w bits stand for every element (06 R180; 16 R441). -/
def VSrc.readCodes (x : VSrc) (w fmt : Nat) (free : Nat) (k : Core) (j : Nat) : List Nat :=
  match x with
  | .regs v r step => placeCodes w (segBytes fmt) (segAddr v r step j).toNat free k j
  | .entries l => splitElems w (8 * segBytes fmt / w) (l.getD j 0).toNat
  | .scalar v => List.replicate (8 * segBytes fmt / w) (v.toNat % 2 ^ w)

/-- The elements of segment j of a source as a V-word that issues now may read them. -/
def VSrc.read (x : VSrc) (fmt : Nat) (free : Nat) (k : Core) (j : Nat) : List Nat := x.readCodes (fmtBits fmt) fmt free k j

/-! ### Results -/

/-- A result that writes nothing yet. -/
def Pending.none (due : Nat) (tag : IssueTag) : Pending :=
  { due := due, regs := [], banks := [], masks := [], flags := 0, qs := [], qvs := [], qpa := [], tag := tag }

/-- Of a word of a stream that issues now. -/
def issueTag (t : Ctx) (st : Stream) (free : Nat) : IssueTag := ⟨(roundOf t st).map (·.id), t.vstall, free⟩

/-- What a destination receives for segment j: the elements of l that are some, each of w bits, or zero in a queue entry
for the others (16 R442). -/
def Pending.put (p : Pending) (d : VDst) (w j : Nat) (l : List (Option Nat)) : Pending :=
  match d with
  | .nothing => p
  | .queue q => { p with qs := p.qs ++ [(q, BitVec.ofNat 2048 (joinElems w (l.map fun e => e.getD 0)))] }
  | .regs v n step =>
    let a := (segAddr v n step j).toNat
    if l.all fun e => e.isSome then
      { p with regs := p.regs ++ [(a, natToBytes (w * l.length / 8) (joinElems w (l.map fun e => e.getD 0)))] }
    else
      { p with regs := p.regs ++ l.zipIdx.filterMap fun (e, i) => e.map fun v => (a + w * i / 8, natToBytes (w / 8) v) }

/-- The enabled elements of a segment: those that the mask does not disable (16 R442). -/
def enabledAt (f : VFields) (mask : BitVec 256) (e : Nat) : Bool := !f.masked || mask.getLsbD (e % 256)

/-! ### The issue of a V-word (16 R441 to R444) -/

/-- The latency of a class (06 R184), and what a segment of it costs (04 R112). -/
structure VClass where
  latency : Nat
  cost    : Nat

/-- Adds, logic, compares, moves and permutes. -/
def classAdd : VClass := ⟨4, 4000⟩
/-- Multiplications. -/
def classMul : VClass := ⟨6, 6000⟩
/-- Conversions. -/
def classCvt : VClass := ⟨8, 4000⟩
/-- Divisions, roots and transcendental functions. -/
def classDiv : VClass := ⟨12, 20000⟩

/-- What a word needs of its operands: sources, destination, the masks it reads, its pushes to queue 2, its segments and
their class; more holds a second destination, and qb tells that the word pops qb for itself. -/
structure VUse where
  srcs  : List VOp
  dst   : Option VOp
  masks : List (BitVec 3)
  push2 : Nat
  segs  : Nat
  cls   : VClass
  more  : List VOp := []
  qb    : Bool := false

/-- The word pops a qb entry. -/
def VUse.popsQb (u : VUse) : Bool := u.qb || u.srcs.any fun o => isQb o.num

/-- The segments of a word: its count field, or VLC (16 R440). -/
def sweepCount (c : Csrs) (f : VFields) : Nat := if f.count = 0 then c.vlc.toNat else f.count.toNat

/-- The register check of an operand. -/
def VOp.inRange (c : Csrs) (o : VOp) : Bool := !isVReg o.num || operandOk (viewOf c o) o.num.toNat o.step o.count o.fmt

/-- The load queue that an operand names. -/
def VOp.loadQueue (o : VOp) : Option (Fin 8) := if isLoadQueue o.num then some (Fin.ofNat 8 (o.num.toNat - 320))
  else none
/-- The store queue that an operand names. -/
def VOp.storeQueue (o : VOp) : Option (Fin 4) := if isStoreQueue o.num then some (Fin.ofNat 4 (o.num.toNat - 328))
  else none

/-- The pushes to store queue q that V-words have issued and that have not taken place. -/
def pendingPushes (t : Ctx) (q : Fin 4) : Nat :=
  t.vpend.foldl (fun n p => n + (p.qs.filter fun e => e.1 == q).length) 0
/-- The pushes to queue 2 that V-words have issued and that have not taken place. -/
def pendingScalars (t : Ctx) : Nat := t.vpend.foldl (fun n p => n + p.qvs.length) 0

/-- The load queues that a word reads, each with the entries that its sweep pops. -/
def loadNeeds (u : VUse) : List (Fin 8 × Nat) :=
  (u.srcs.filterMap fun o => o.loadQueue.map fun q => (q, o.count)).eraseDups

/-- The faults of a word's operands (06 R172, R181; 16 R441). -/
def vFaults (t : Ctx) (u : VUse) : Res Unit :=
  let all := u.srcs ++ u.dst.toList ++ u.more
  (guardTrap (all.all fun o => o.inRange t.csr) .operandRange).andThen fun _ =>
    (guardTrap (all.all fun o => (o.loadQueue.isNone && o.storeQueue.isNone)
      || o.count ≤ 16) .operandRange).andThen fun _ =>
      if all.any fun o => o.loadQueue.isSome || o.storeQueue.isSome then partner t .a else .ok ()

/-- The queues let the word issue (16 R441). -/
def vQueuesReady (t : Ctx) (u : VUse) : Bool :=
  (loadNeeds u).all (fun e => e.2 ≤ readySlots (t.q.ql.get e.1))
    && (match u.dst.bind fun o => o.storeQueue.map fun q => (q, o.count) with
      | some (q, n) => (t.q.qs.get q).length + pendingPushes t q + n ≤ depth16
      | none => true)
    && (u.push2 = 0 || t.q.qvs.length + pendingScalars t + u.push2 ≤ depth16)
    && (!u.popsQb || !t.q.qb.isEmpty)

/-- The V-stream stalls until every earlier word that writes one of these masks has written it (16 R443). -/
def landMasks (k : Core) (masks : List (BitVec 3)) : Core :=
  let due := (k.ctx.vpend.filter fun p => p.masks.any fun m => masks.any fun n => n.toNat == m.1).foldl
    (fun d p => max d p.due) 0
  vStall k due

/-- The entry at the head of qb. -/
def qbHead (t : Ctx) : Word := (t.q.qb.head?.map fun e => e.val).getD 0

/-- What a source operand reads. -/
def vSource (t : Ctx) (o : VOp) : VSrc :=
  match o.loadQueue with
  | some q => .entries (((t.q.ql.get q).take o.count).map fun e => e.val.getD 0)
  | none => if isQb o.num then .scalar (qbHead t) else .regs (viewOf t.csr o) o.num.toNat o.step

/-- Where a destination operand writes. -/
def vDest (t : Ctx) (o : Option VOp) : VDst :=
  match o with
  | none => .nothing
  | some o => match o.storeQueue with
    | some q => .queue q
    | none => .regs (viewOf t.csr o) o.num.toNat o.step

/-- The entries that a word pops leave their queues (16 R441). -/
def vPop (t : Ctx) (u : VUse) : Ctx :=
  modQ t fun q => { q with
    ql := (loadNeeds u).foldl (fun v e => vmod v e.1.val fun l => l.drop e.2) q.ql
    qb := if u.popsQb then q.qb.tail else q.qb }

/-- The writes of l that lie outside those of cut. -/
def outside (cut l : List (Nat × List Byte)) : List (Nat × List Byte) :=
  l.flatMap fun w => (cut.foldl (fun v c => v.flatMap (cutRange c.1 c.2.length)) [(w.1, w.2.length)]).map fun r =>
    (r.1, (w.2.drop (r.1 - w.1)).take r.2)

/-- Two results parted by a stall write one place: the free value may let the one that lands first stand there, so that
the other does not write it (06 R185). -/
def settlePair (i : Nat) (q p : Pending) : Pending × Pending :=
  if q.tag.stalls == p.tag.stalls || !Config.freeBool p.tag.free (0x1000000000 * (i + 1) + p.due) then (q, p)
  else if p.due < q.due then ({ q with regs := outside p.regs q.regs }, p)
  else (q, { p with regs := outside q.regs p.regs })

/-- The result p settles with each of those on their way, which keep their order. -/
def settleAll (i : Nat) (p : Pending) : List Pending → List Pending × Pending
  | [] => ([], p)
  | q :: r =>
    let (q, p) := settlePair i q p
    let (r, p) := settleAll (i + 1) p r
    (q :: r, p)

/-- One result of a segment joins those on their way. -/
def pushPending (k : Core) (p : Pending) : Core :=
  let (l, p) := settleAll 0 p k.ctx.vpend
  { k with ctx := { k.ctx with vpend := addPending p l } }

/-- The segments issue one each cycle; body gives, from the core as it then is, what the word has gathered so far and
the results that join those on their way (06 R184). -/
def sweepFrom {α : Type} (body : Nat → Core → Nat → α → α × List Pending) (t0 : Nat) :
    (n j : Nat) → α → Core → Core
  | 0, j, _, k => vAdvance k (t0 + j)
  | n + 1, j, acc, k =>
    let k := vAdvance k (t0 + j)
    let (acc, l) := body (t0 + j) k j acc
    sweepFrom body t0 n (j + 1) acc (l.foldl pushPending k)

/-- n segments issue from the V-stream's cycle on, with what the word gathers from them; body is given the cycle at
which the segment issues. -/
def gather {α : Type} (n : Nat) (start : α) (body : (cycle : Nat) → Core → Nat → α → α × List Pending) (k : Core) : Core :=
  sweepFrom body k.ctx.vcyc n 0 start k

/-- n segments issue from the V-stream's cycle on, each with its own result. -/
def sweep (n : Nat) (body : (cycle : Nat) → Core → Nat → Pending) (k : Core) : Core :=
  gather n () (fun t k j _ => ((), [body t k j])) k

/-- What a word's effect is given: its sources, its destination, the qb entry, the number of the free values, and the tag
of its results. -/
structure VArgs where
  src  : List VSrc
  dst  : VDst
  qb   : Word
  free : Nat
  tag  : IssueTag

/-- Source i. -/
def VArgs.arg (a : VArgs) (i : Nat) : VSrc := a.src.getD i (.scalar 0)

/-- A V-word that issues now may meet a choice: an M-word runs, or results are on their way (06 R177, R185). -/
def vRaces (t : Ctx) : Bool := t.m.cmd.isSome || !t.vpend.isEmpty

/-- A V-word: its checks in order, its waits, and its effect on the core (16 R441 to R444). -/
def vWord (use : Ctx → VUse) (check : Ctx → Res Unit) (f : VArgs → Core → Core) : State → Host.Outcome State Fault Refusal :=
  runWord .v 12 fun s =>
    let t := curCtx s
    let u := use t
    (check t).andThen fun _ => (vFaults t u).andThen fun _ =>
      if !vQueuesReady t u then .wait
      else
        let k := landMasks (curCore s) u.masks
        let a : VArgs := ⟨u.srcs.map (vSource t), vDest t u.dst, qbHead t, s.freeCtr, issueTag k.ctx .v s.freeCtr⟩
        let s := setCore s s.cur (f a { k with ctx := vPop k.ctx u })
        let s := if vRaces t then { s with freeCtr := s.freeCtr + 1 } else s
        .ok (charge s s.cur u.cls.cost u.segs)

/-- Nothing else to check. -/
def noCheck : Ctx → Res Unit := fun _ => .ok ()

/-- The operand va of a format and count. -/
def opA (f : VFields) (fmt n : Nat) : VOp := ⟨f.va, f.sa, fmt, n, false⟩
/-- The operand vb of a format and count. -/
def opB (f : VFields) (fmt n : Nat) : VOp := ⟨f.vb, f.sb, fmt, n, false⟩
/-- The operand vd of a format and count. -/
def opD (f : VFields) (fmt n : Nat) : VOp := ⟨f.vd, f.sd, fmt, n, false⟩

/-- The mask of a word: k when MASKED. -/
def maskUse (f : VFields) : List (BitVec 3) := if f.masked then [f.k] else []

/-- The result of a segment whose elements, of w bits, and their flags are given; none is a disabled element (16 R442;
11 R323). -/
def segResult (a : VArgs) (due w j : Nat) (out : List (Option (Nat × BitVec 7))) : Pending :=
  let flags : BitVec 7 := out.foldl (fun v e => v ||| (e.map Prod.snd).getD 0) 0
  let p : Pending := { Pending.none due a.tag with flags := flags }
  p.put a.dst w j (out.map fun e => e.map Prod.fst)

/-- The mask of a word, as it now reads. -/
def maskNow (f : VFields) (k : Core) : BitVec 256 := k.ctx.k.get (Fin.ofNat 8 f.k.toNat)

/-- A word whose operands each sweep n segments in the word's format, and whose effect on each segment is op: the
elements of its sources in it, the mask, and the index of its first element (16 R440). -/
def vSegments (f : VFields) (cls : VClass) (srcs : List (VFields → Nat → Nat → VOp)) (masks : List (BitVec 3))
    (op : List (List Nat) → BitVec 256 → Nat → List (Option (Nat × BitVec 7))) :
    State → Host.Outcome State Fault Refusal :=
  let fmt := f.fmt.toNat
  vWord (fun t =>
      let n := sweepCount t.csr f
      { srcs := srcs.map fun g => g f fmt n, dst := some (opD f fmt n), masks := masks, push2 := 0, segs := n, cls := cls })
    noCheck fun a k =>
      sweep (sweepCount k.ctx.csr f) (fun t k j =>
        segResult a (t + cls.latency) (fmtBits fmt) j
          (op (a.src.map fun x => x.read fmt a.free k j) (maskNow f k) (j * elemsPerSeg fmt))) k

/-- An elementwise word (16 R446): op of the elements of the sources gives the element and its flags. -/
def vElementwise (f : VFields) (cls : VClass) (srcs : List (VFields → Nat → Nat → VOp))
    (op : List Nat → Nat × BitVec 7) : State → Host.Outcome State Fault Refusal :=
  vSegments f cls srcs (maskUse f) fun ins mask first =>
    (List.range (elemsPerSeg f.fmt.toNat)).map fun i =>
      if enabledAt f mask (first + i) then some (op (ins.map fun l => l.getD i 0)) else none

end Sys2Proof.Machine
end

