-- ==== Sys2Proof/Machine/Flags.lean ====
section
/-!
DEFINITION. What V-words compute on elements, with the flags that each element sets (11 R306 to R323; 16 R446 to R464).
-/
namespace Sys2Proof.Machine

/-! ### Floating-point results (11 R317 to R319; 16 R446) -/

/-- The result r of an operation on these operands, rounded to format fmt; invalid tells that the operation itself was
(11 R318, R319). -/
def floatResult (fmt mode : Nat) (sat invalid : Bool) (ops : List FVal) (r : FVal) : Nat × Flags :=
  let nv := if invalid || ops.any isSNaN then flagNV else 0
  match r with
  | .nan _ => (defaultNaN (floatFmt fmt), nv)
  | _ => let (v, g) := roundFloat (floatFmt fmt) mode sat r
    (v, nv ||| g)

/-- An operation was invalid: it gave a NaN and no operand is one. -/
def madeNaN (ops : List FVal) (r : FVal) : Bool := isNaN r && !ops.any isNaN

/-- The rounding mode that rounds down (11 R317). -/
def isDown (mode : Nat) : Bool := mode == 2

/-- The sum, or with neg the difference, of two elements. -/
def floatAdd (fmt mode : Nat) (sat neg : Bool) (x y : Nat) : Nat × Flags :=
  let a := decodeElem fmt x
  let b := decodeElem fmt y
  let r := fAdd (isDown mode) a (if neg then fNeg b else b)
  floatResult fmt mode sat (madeNaN [a, b] r) [a, b] r

/-- The product of two elements. -/
def floatMul (fmt mode : Nat) (sat : Bool) (x y : Nat) : Nat × Flags :=
  let a := decodeElem fmt x
  let b := decodeElem fmt y
  floatResult fmt mode sat (madeNaN [a, b] (fMul a b)) [a, b] (fMul a b)

/-- a × b + d with the product or the addend negated; a product of zero and infinity is invalid even beside a NaN
addend. -/
def floatFma (fmt mode : Nat) (sat negProduct negAddend : Bool) (x y z : Nat) : Nat × Flags :=
  let a := decodeElem fmt x
  let b := decodeElem fmt y
  let d := decodeElem fmt z
  let p := fMul a b
  let r := fAdd (isDown mode) (if negProduct then fNeg p else p) (if negAddend then fNeg d else d)
  floatResult fmt mode sat (madeNaN [a, b] p || madeNaN [p, d] r) [a, b, d] r

/-- The value is a number other than zero. -/
def isFiniteNonzero : FVal → Bool
  | .num _ m _ => m != 0
  | _ => false

/-- The quotient; a finite nonzero number by zero sets DZ (11 R319). -/
def floatDiv (fmt mode : Nat) (sat : Bool) (x y : Nat) : Nat × Flags :=
  let a := decodeElem fmt x
  let b := decodeElem fmt y
  let (v, g) := floatResult fmt mode sat (madeNaN [a, b] (fDiv a b)) [a, b] (fDiv a b)
  (v, if isFiniteNonzero a && isZero b then g ||| flagDZ else g)

/-- The functions of one operand (11 R319). -/
inductive VFunc
  | sqrt | rcp | rsq | exp2 | log2 | tanh
  deriving DecidableEq, Repr

/-- The exact value of a function and its own flag, NV or DZ (11 R319). -/
def VFunc.value : VFunc → FVal → FVal × Flags
  | _, .nan s => (.nan s, 0)
  | .sqrt, .inf neg => if neg then (.nan false, flagNV) else (.inf false, 0)
  | .sqrt, .num neg m e => if m = 0 then (.num neg 0 0, 0) else if neg then (.nan false, flagNV) else (sqrtCut m e, 0)
  | .rcp, .inf neg => (.num neg 0 0, 0)
  | .rcp, .num neg m e => if m = 0 then (.inf neg, flagDZ) else (divCut neg 1 0 m e, 0)
  | .rsq, .inf neg => if neg then (.nan false, flagNV) else (fZero, 0)
  | .rsq, .num neg m e =>
    if m = 0 then (.inf neg, flagDZ)
    else if neg then (.nan false, flagNV)
    else
      let half : Int := e / 2
      let m' := m * 2 ^ (e % 2).toNat
      let sh := 2 * (cutBits + Nat.log2 m' + 1)
      let q := 2 ^ sh / m'
      let r := isqrt q
      (.num false (2 * r + if r * r * m' = 2 ^ sh then 0 else 1) (-half - (sh / 2 : Nat) - 1), 0)
  | .exp2, x => (fExp2 x, 0)
  | .log2, .inf neg => if neg then (.nan false, flagNV) else (.inf false, 0)
  | .log2, .num neg m e => if m = 0 then (.inf true, flagDZ) else if neg then (.nan false, flagNV) else (fLog2 m e, 0)
  | .tanh, x => (fTanh x, 0)

/-- A function of an element, correctly rounded (11 R317, R319). -/
def floatFunc (g : VFunc) (fmt mode : Nat) (sat : Bool) (x : Nat) : Nat × Flags :=
  let a := decodeElem fmt x
  let (r, own) := g.value a
  let (v, h) := floatResult fmt mode sat false [a] r
  (v, h ||| own)

/-! ### Order (16 R447, R450) -/

/-- The order of two elements that are no NaN: −1, 0 or 1; with signed zeros −0 lies below +0. -/
def elemCompare (fmt : Nat) (zeros : Bool) (x y : Nat) : Int :=
  if isInt fmt then
    (if decodeInt fmt x < decodeInt fmt y then -1 else if decodeInt fmt x = decodeInt fmt y then 0 else 1)
  else
    let a := decodeElem fmt x
    let b := decodeElem fmt y
    let r := fCompare a b
    if r == 0 && zeros && isZero a then bitOf (signOf b) - bitOf (signOf a) else r

/-- The element is a NaN. -/
def elemNaN (fmt x : Nat) : Bool := !isInt fmt && isNaN (decodeElem fmt x)
/-- The element is a signalling NaN. -/
def elemSNaN (fmt x : Nat) : Bool := !isInt fmt && isSNaN (decodeElem fmt x)

/-- The lesser, or with greater the greater, of two elements (16 R447). -/
def minMax (fmt : Nat) (greater : Bool) (x y : Nat) : Nat × Flags :=
  let nv := if elemSNaN fmt x || elemSNaN fmt y then flagNV else 0
  if elemNaN fmt x && elemNaN fmt y then (defaultNaN (floatFmt fmt), nv)
  else if elemNaN fmt x then (y, nv)
  else if elemNaN fmt y then (x, nv)
  else
    let c := elemCompare fmt true x y
    (if (if greater then c ≥ 0 else c ≤ 0) then x else y, nv)

/-- The relation cc of VCMP (16 R450). -/
def compareElems (fmt cc x y : Nat) : Bool × Flags :=
  let nan := elemNaN fmt x || elemNaN fmt y
  let snan := elemSNaN fmt x || elemSNaN fmt y
  let c := elemCompare fmt false x y
  let holds := match cc with
    | 0 => !nan && c == 0
    | 1 => nan || c != 0
    | 2 => !nan && c < 0
    | 3 => !nan && c ≥ 0
    | 4 => !nan && c ≤ 0
    | 5 => !nan && c > 0
    | _ => nan
  (holds, if snan || (nan && 2 ≤ cc && cc ≤ 5) then flagNV else 0)

/-! ### Integers (16 R448, R449) -/

/-- An exact integer result of a format. -/
def intResult (fmt : Nat) (sat : Bool) (v : Int) : Nat × Flags := roundInt fmt sat v

/-- The left shift of an element by the low bits of a count (16 R449; 11 R321). -/
def shiftLeft (w x n : Nat) : Nat := x * 2 ^ (n % w) % 2 ^ w
/-- The right shift with zeros. -/
def shiftRight (w x n : Nat) : Nat := x / 2 ^ (n % w)
/-- The right shift with the top bit. -/
def shiftRightTop (w x n : Nat) : Nat := wrap w (signed w x / (2 ^ (n % w) : Nat))

/-! ### Conversions (11 R320; 16 R453) -/

/-- An element of format fs converted to format fd. -/
def convert (fd fs mode : Nat) (sat : Bool) (x : Nat) : Nat × Flags :=
  let v := decodeElem fs x
  if isInt fd then (if isInt fs then roundInt fd sat (decodeInt fs x) else floatToInt fd mode v)
  else if fd = 14 then toPs32 v
  else roundFloat (floatFmt fd) mode sat v

/-! ### Block-scaled formats (11 R311 to R313; 16 R455 to R457) -/

/-- The scale byte of a block whose greatest magnitude is m × 2^e (16 R455). -/
def mxScale (fd : Nat) (amax : FVal) : Nat :=
  match amax with
  | .num _ m e => if m = 0 then 0
    else (max 0 (min 254 (leadExp m e - (if fd = 5 then 2 else 8) + 127))).toNat
  | _ => 255

/-- The greater magnitude. -/
def maxMagnitude (a b : FVal) : FVal :=
  let abs : FVal → FVal
    | .num _ m e => .num false m e
    | .inf _ => .inf false
    | .nan s => .nan s
  if fCompare (abs a) (abs b) ≥ 0 then abs a else abs b

/-- PackMX: the codes and the scale byte of a block (16 R455). -/
def packMx (fd mode : Nat) (l : List Nat) : List Nat × Nat × Flags :=
  let x := l.map (decodeElem 8)
  if x.any fun v => match v with
    | .num _ _ _ => false
    | _ => true then (l.map fun _ => 0, 255, flagNV)
  else
    let s := mxScale fd (x.foldl maxMagnitude fZero)
    let out := x.map fun v => roundFloat (floatFmt fd) mode true (fMul v (.num false 1 (127 - (s : Int))))
    (out.map Prod.fst, s, out.foldl (fun g e => g ||| e.2) 0)

/-- The index of the magnitude nearest q, given as num / den; a tie takes the lower index (16 R456). -/
def nearestIndex (num den : Nat) : Nat :=
  (List.range 7).foldl (fun i _ =>
    let a := cb4Table.getD i 0
    let b := cb4Table.getD (i + 1) 0
    if 2 * num > (a + b) * den then i + 1 else i) 0

/-- A number as num × 2^exp with a sign. -/
def magnitude : FVal → Nat × Int
  | .num _ m e => (m, e)
  | _ => (0, 0)

/-- PackCB4: the codes, s8 and the flags of a block under super-scale F (16 R456). -/
def packCb4 (f : Nat) (l : List Nat) : List Nat × Nat × Flags :=
  let scale := decodeElem 8 f
  if !isFiniteNonzero scale || signOf scale then (l.map fun _ => 0, 0, flagNV)
  else
    let x := l.map (decodeElem 8)
    let finite := x.filter fun v => match v with
      | .num _ _ _ => true
      | _ => false
    let (am, ae) := magnitude (finite.foldl maxMagnitude fZero)
    let (fm, fe) := magnitude scale
    let lo := min ae fe
    let a := am * 2 ^ (ae - lo).toNat
    let b := fm * 2 ^ (fe - lo).toNat
    let s8 := if a = 0 then 0 else min 255 (ceilDiv (256 * a) b - 1)
    let out := x.map fun v => match v with
      | .nan _ => (0, flagNV)
      | .inf neg => (bitOf neg * 8 + 7, flagNV)
      | .num neg m e =>
        let lo := min e fe
        let num := 1024 * 256 * (m * 2 ^ (e - lo).toNat)
        let den := fm * 2 ^ (fe - lo).toNat * (s8 + 1)
        let i := nearestIndex num den
        (bitOf neg * 8 + i, (if num > 1024 * den then flagOF else 0)
          ||| (if num = cb4Table.getD i 0 * den then 0 else flagNX))
    (out.map Prod.fst, s8, out.foldl (fun g e => g ||| e.2) 0)

/-! ### Reductions (16 R459) -/

/-- An exact sum in progress: of floating-point values, the exact total of the numbers, the infinities and NaNs met, and
whether every term so far is −0. -/
structure FSum where
  total : FVal
  any   : Bool
  negZero : Bool
  nan   : Bool
  snan  : Bool
  pos   : Bool
  neg   : Bool
  deriving DecidableEq, Repr

/-- The sum of no terms. -/
def FSum.empty : FSum := ⟨fZero, false, true, false, false, false, false⟩

/-- A term joins the sum. -/
def FSum.add (s : FSum) (v : FVal) : FSum :=
  let s := { s with any := true, negZero := s.negZero && isZero v && signOf v }
  match v with
  | .nan q => { s with nan := true, snan := s.snan || q }
  | .inf n => if n then { s with neg := true } else { s with pos := true }
  | .num _ _ _ => { s with total := fAdd false s.total v }

/-- The exact value of the sum, and whether it is invalid (16 R459). allZero tells that every term was a +0 or −0 of one
kind, so that RDN has nothing to cancel. -/
def FSum.value (s : FSum) (mode : Nat) (allPlus : Bool) : FVal × Bool :=
  if s.nan then (.nan s.snan, false)
  else if s.pos && s.neg then (.nan false, true)
  else if s.pos then (.inf false, false)
  else if s.neg then (.inf true, false)
  else if isZero s.total then
    (.num (s.any && (s.negZero || (isDown mode && !allPlus))) 0 0, false)
  else (s.total, false)

/-- VRSUM of the elements, for a floating-point format (16 R459). -/
def floatSum (fmt mode : Nat) (sat : Bool) (l : List Nat) : Nat × Flags :=
  let x := l.map (decodeElem fmt)
  let s := x.foldl FSum.add FSum.empty
  let allPlus := x.all fun v => isZero v && !signOf v
  let (r, invalid) := s.value mode allPlus
  floatResult fmt mode sat invalid x r

/-- VRSUM of the elements. -/
def sumElems (fmt mode : Nat) (sat : Bool) (l : List Nat) : Nat × Flags :=
  if isInt fmt then roundInt fmt sat (l.foldl (fun n x => n + decodeInt fmt x) (0 : Int)) else floatSum fmt mode sat l

/-- The result of VRMAX or VRMIN when no element takes part (16 R459). -/
def emptyExtreme (fmt : Nat) (greater : Bool) : Nat :=
  if isInt fmt then wrap (intBits fmt) (if greater then (intRange fmt).1 else (intRange fmt).2)
  else infBits (floatFmt fmt) greater

/-- VRMAX, and VRMIN without greater, of the elements (16 R459). -/
def extremeElems (fmt : Nat) (greater : Bool) (l : List Nat) : Nat × Flags :=
  let nv := if l.any (elemSNaN fmt) then flagNV else 0
  match l.filter fun x => !elemNaN fmt x with
  | [] => (if l = [] then emptyExtreme fmt greater else defaultNaN (floatFmt fmt), nv)
  | x :: r => (r.foldl (fun m y => (minMax fmt greater m y).1) x, nv)

/-- VARGMAX of the elements with their indices: the lowest index of a greatest one (16 R459). -/
def argMax (fmt : Nat) (l : List (Nat × Nat)) : Nat × Flags :=
  let nv := if l.any fun e => elemSNaN fmt e.2 then flagNV else 0
  match l.filter fun e => !elemNaN fmt e.2 with
  | [] => (0xFFFFFFFF, nv)
  | x :: r => ((r.foldl (fun m y => if elemCompare fmt true y.2 m.2 > 0 then y else m) x).1, nv)

/-- One step of VSCAN: the running sum and its flags (16 R460). -/
def scanStep (fmt mode : Nat) (sat : Bool) (acc x : Nat) : Nat × Flags :=
  if isInt fmt then roundInt fmt sat (decodeInt fmt acc + decodeInt fmt x) else floatAdd fmt mode sat false acc x

end Sys2Proof.Machine
end

