-- ==== Sys2Proof/Machine/Integer.lean ====
section
/-!
DEFINITION. The integer words of the S-stream, its predicates and its constants (14 R377, R380 to R385; division and
shifts 11 R321).
-/
namespace Sys2Proof.Machine

/-! ### Operations (14 R380; 11 R321) -/

/-- An S-word that writes f of the task's registers to X[d]. -/
def scalarWord (d : Fin 64) (f : Ctx → Word) : State → Host.Outcome State Fault Refusal :=
  runCtx .s 4 fun t => .ok (xSet t d (f t))

/-- Signed comparison of words. -/
def sLt (a b : Word) : Bool := a.toInt < b.toInt

/-- The number of leading zero bits, 64 for zero (14 R380). -/
def leadingZeros (a : Word) : Nat := if a = 0 then 64 else 63 - Nat.log2 a.toNat

/-- The number of trailing zero bits among n, n when they are all zero (14 R380). -/
def trailingZeros : (n : Nat) → Nat → Nat
  | 0, _ => 0
  | n + 1, a => if a % 2 = 1 then 0 else 1 + trailingZeros n (a / 2)

/-- The number of set bits among the low n (14 R380). -/
def popCount : (n : Nat) → Nat → Nat
  | 0, _ => 0
  | n + 1, a => a % 2 + popCount n (a / 2)

/-- The signed quotient toward zero; all ones for a divisor of zero (11 R321). -/
def quotS (a b : Word) : Word := if b = 0 then BitVec.allOnes 64 else word (a.toInt.tdiv b.toInt)
/-- The unsigned quotient; all ones for a divisor of zero (11 R321). -/
def quotU (a b : Word) : Word := if b = 0 then BitVec.allOnes 64 else BitVec.ofNat 64 (a.toNat / b.toNat)
/-- The signed remainder with the sign of the dividend; the dividend for a divisor of zero (11 R321). -/
def remS (a b : Word) : Word := if b = 0 then a else word (a.toInt.tmod b.toInt)
/-- The unsigned remainder; the dividend for a divisor of zero (11 R321). -/
def remU (a b : Word) : Word := if b = 0 then a else BitVec.ofNat 64 (a.toNat % b.toNat)

/-- The count of a shift: the low 6 bits (14 R380). -/
def shiftCount (b : Word) : Nat := b.toNat % 64

/-- imm12 sign-extended (14 R381). -/
def imm64 (i : BitVec 12) : Word := i.signExtend 64

/-- Compare of R383: EQ, NE, LT, GE, LTN, GEN. -/
def compareWords (cc : Nat) (a b : Word) : Bool :=
  match cc with
  | 0 => a == b
  | 1 => a != b
  | 2 => sLt a b
  | 3 => !sLt a b
  | 4 => a.toNat < b.toNat
  | _ => !(decide (a.toNat < b.toNat))

/-! ### Register words (14 R380) -/

/-- ADD (14 R380). -/
def execAdd (d a b : Fin 64) := scalarWord d fun t => xGet t a + xGet t b
/-- SUB (14 R380). -/
def execSub (d a b : Fin 64) := scalarWord d fun t => xGet t a - xGet t b
/-- AND (14 R380). -/
def execAnd (d a b : Fin 64) := scalarWord d fun t => xGet t a &&& xGet t b
/-- OR (14 R380). -/
def execOr (d a b : Fin 64) := scalarWord d fun t => xGet t a ||| xGet t b
/-- XOR (14 R380). -/
def execXor (d a b : Fin 64) := scalarWord d fun t => xGet t a ^^^ xGet t b
/-- SLL (14 R380). -/
def execSll (d a b : Fin 64) := scalarWord d fun t => xGet t a <<< shiftCount (xGet t b)
/-- SRL (14 R380). -/
def execSrl (d a b : Fin 64) := scalarWord d fun t => xGet t a >>> shiftCount (xGet t b)
/-- SRA (14 R380). -/
def execSra (d a b : Fin 64) := scalarWord d fun t => (xGet t a).sshiftRight (shiftCount (xGet t b))
/-- MIN, signed (14 R380). -/
def execMin (d a b : Fin 64) := scalarWord d fun t => if sLt (xGet t b) (xGet t a) then xGet t b else xGet t a
/-- MAX, signed (14 R380). -/
def execMax (d a b : Fin 64) := scalarWord d fun t => if sLt (xGet t a) (xGet t b) then xGet t b else xGet t a
/-- MINN, unsigned (14 R380). -/
def execMinn (d a b : Fin 64) := scalarWord d fun t => if xGet t b < xGet t a then xGet t b else xGet t a
/-- MAXN, unsigned (14 R380). -/
def execMaxn (d a b : Fin 64) := scalarWord d fun t => if xGet t a < xGet t b then xGet t b else xGet t a
/-- CLZ (14 R380). -/
def execClz (d a : Fin 64) := scalarWord d fun t => BitVec.ofNat 64 (leadingZeros (xGet t a))
/-- CTZ (14 R380). -/
def execCtz (d a : Fin 64) := scalarWord d fun t => BitVec.ofNat 64 (trailingZeros 64 (xGet t a).toNat)
/-- POPC (14 R380). -/
def execPopc (d a : Fin 64) := scalarWord d fun t => BitVec.ofNat 64 (popCount 64 (xGet t a).toNat)
/-- MUL (14 R380). -/
def execMul (d a b : Fin 64) := scalarWord d fun t => xGet t a * xGet t b
/-- MULH, both signed (14 R380). -/
def execMulh (d a b : Fin 64) :=
  scalarWord d fun t => word (((xGet t a).toInt * (xGet t b).toInt) / (2 ^ 64 : Nat))
/-- MULHN, both unsigned (14 R380). -/
def execMulhn (d a b : Fin 64) :=
  scalarWord d fun t => BitVec.ofNat 64 ((xGet t a).toNat * (xGet t b).toNat / 2 ^ 64)
/-- DIV (14 R380; 11 R321). -/
def execDiv (d a b : Fin 64) := scalarWord d fun t => quotS (xGet t a) (xGet t b)
/-- DIVN (14 R380; 11 R321). -/
def execDivn (d a b : Fin 64) := scalarWord d fun t => quotU (xGet t a) (xGet t b)
/-- REM (14 R380; 11 R321). -/
def execRem (d a b : Fin 64) := scalarWord d fun t => remS (xGet t a) (xGet t b)
/-- REMN (14 R380; 11 R321). -/
def execRemn (d a b : Fin 64) := scalarWord d fun t => remU (xGet t a) (xGet t b)

/-! ### Immediate words (14 R381, R382) -/

/-- ADDI (14 R381). -/
def execAddi (d a : Fin 64) (imm : BitVec 12) := scalarWord d fun t => xGet t a + imm64 imm
/-- ANDI (14 R381). -/
def execAndi (d a : Fin 64) (imm : BitVec 12) := scalarWord d fun t => xGet t a &&& imm64 imm
/-- ORI (14 R381). -/
def execOri (d a : Fin 64) (imm : BitVec 12) := scalarWord d fun t => xGet t a ||| imm64 imm
/-- XORI (14 R381). -/
def execXori (d a : Fin 64) (imm : BitVec 12) := scalarWord d fun t => xGet t a ^^^ imm64 imm
/-- SLLI (14 R381). -/
def execSlli (d a : Fin 64) (sh : BitVec 6) := scalarWord d fun t => xGet t a <<< sh.toNat
/-- SRLI (14 R381). -/
def execSrli (d a : Fin 64) (sh : BitVec 6) := scalarWord d fun t => xGet t a >>> sh.toNat
/-- SRAI (14 R381). -/
def execSrai (d a : Fin 64) (sh : BitVec 6) := scalarWord d fun t => (xGet t a).sshiftRight sh.toNat
/-- LIW (14 R382). -/
def execLiw (d : Fin 64) (imm : BitVec 18) := scalarWord d fun _ => imm.signExtend 64
/-- LIS (14 R382). -/
def execLis (d : Fin 64) (imm : BitVec 18) := scalarWord d fun t => xGet t d <<< 18 ||| imm.setWidth 64

/-! ### Predicates (14 R383 to R385) -/

/-- CMP; conditions 6 and 7 are no words (14 R383; 13 R353). -/
def execCmp (p : Fin 8) (cc : BitVec 3) (a b : Fin 64) :=
  runCtx .s 4 fun t =>
    if cc.toNat > 5 then .fail .illegalWord else .ok (pSet t p (compareWords cc.toNat (xGet t a) (xGet t b)))

/-- CMPI (14 R383). -/
def execCmpi (p : Fin 8) (cc : BitVec 3) (a : Fin 64) (imm : BitVec 12) :=
  runCtx .s 4 fun t =>
    if cc.toNat > 5 then .fail .illegalWord else .ok (pSet t p (compareWords cc.toNat (xGet t a) (imm64 imm)))

/-- PLOG (14 R384). -/
def execPlog (d a b : Fin 8) (table : BitVec 4) :=
  runCtx .s 4 fun t => .ok (pSet t d (table.getLsbD (2 * bitOf (pGet t a) + bitOf (pGet t b))))

/-- SEL (14 R385). -/
def execSel (d a b : Fin 64) (p : Fin 8) := scalarWord d fun t => if pGet t p then xGet t a else xGet t b

end Sys2Proof.Machine
end

