-- ==== Sys2Proof/Machine/VectorArith.lean ====
section
/-!
DEFINITION. The arithmetic, logic, compare, select and mask words of the V-stream (16 R446 to R452).
-/
namespace Sys2Proof.Machine

/-- The rounding mode of a word (11 R317). -/
def rndOf (f : VFields) : Nat := f.rnd.toNat

/-- Element i of the operands of one index. -/
def at0 (l : List Nat) : Nat := l.getD 0 0
/-- The second operand's element. -/
def at1 (l : List Nat) : Nat := l.getD 1 0
/-- The third operand's element. -/
def at2 (l : List Nat) : Nat := l.getD 2 0

/-- A word of two sources. -/
def vBinary (f : VFields) (cls : VClass) (op : Nat → Nat → Nat × Flags) :=
  vElementwise f cls [opA, opB] fun l => op (at0 l) (at1 l)

/-- A word of one source. -/
def vUnary (f : VFields) (cls : VClass) (op : Nat → Nat × Flags) := vElementwise f cls [opA] fun l => op (at0 l)

/-- A word that reads its destination as well, at its segment's issue. -/
def vFused (f : VFields) (op : Nat → Nat → Nat → Nat × Flags) :=
  vElementwise f classMul [opA, opB, opD] fun l => op (at0 l) (at1 l) (at2 l)

/-! ### Floating point (16 R446, R447) -/

/-- VADD (16 R446). -/
def execVadd (f : VFields) := vBinary f classAdd (floatAdd f.fmt.toNat (rndOf f) f.sat false)
/-- VSUB (16 R446). -/
def execVsub (f : VFields) := vBinary f classAdd (floatAdd f.fmt.toNat (rndOf f) f.sat true)
/-- VMUL (16 R446). -/
def execVmul (f : VFields) := vBinary f classMul (floatMul f.fmt.toNat (rndOf f) f.sat)
/-- VFMA (16 R446). -/
def execVfma (f : VFields) := vFused f (floatFma f.fmt.toNat (rndOf f) f.sat false false)
/-- VFMS (16 R446). -/
def execVfms (f : VFields) := vFused f (floatFma f.fmt.toNat (rndOf f) f.sat false true)
/-- VNFMA (16 R446). -/
def execVnfma (f : VFields) := vFused f (floatFma f.fmt.toNat (rndOf f) f.sat true false)
/-- VDIV (16 R446). -/
def execVdiv (f : VFields) := vBinary f classDiv (floatDiv f.fmt.toNat (rndOf f) f.sat)

/-- A function word. -/
def vFunction (g : VFunc) (f : VFields) := vUnary f classDiv (floatFunc g f.fmt.toNat (rndOf f) f.sat)

/-- VSQRT (16 R446). -/
def execVsqrt (f : VFields) := vFunction .sqrt f
/-- VRCP (16 R446). -/
def execVrcp (f : VFields) := vFunction .rcp f
/-- VRSQ (16 R446). -/
def execVrsq (f : VFields) := vFunction .rsq f
/-- VEXP2 (16 R446). -/
def execVexp2 (f : VFields) := vFunction .exp2 f
/-- VLOG2 (16 R446). -/
def execVlog2 (f : VFields) := vFunction .log2 f
/-- VTANH (16 R446). -/
def execVtanh (f : VFields) := vFunction .tanh f

/-- VMIN (16 R447). -/
def execVmin (f : VFields) := vBinary f classAdd (minMax f.fmt.toNat false)
/-- VMAX (16 R447). -/
def execVmax (f : VFields) := vBinary f classAdd (minMax f.fmt.toNat true)

/-- The sign bit of an element of a word's format. -/
def signBit (f : VFields) : Nat := 2 ^ (fmtBits f.fmt.toNat - 1)

/-- VABS (16 R447). -/
def execVabs (f : VFields) := vUnary f classAdd fun x => (x % signBit f, 0)
/-- VNEG (16 R447). -/
def execVneg (f : VFields) := vUnary f classAdd fun x => (x ^^^ signBit f, 0)

/-! ### Integers (16 R448, R449) -/

/-- The integer of an element of the word's format. -/
def intOf (f : VFields) (x : Nat) : Int := decodeInt f.fmt.toNat x

/-- A word that narrows an exact integer. -/
def vInteger (f : VFields) (cls : VClass) (op : Int → Int → Int) :=
  vBinary f cls fun x y => intResult f.fmt.toNat f.sat (op (intOf f x) (intOf f y))

/-- VIADD (16 R448). -/
def execViadd (f : VFields) := vInteger f classAdd fun a b => a + b
/-- VISUB (16 R448). -/
def execVisub (f : VFields) := vInteger f classAdd fun a b => a - b
/-- VIMUL (16 R448). -/
def execVimul (f : VFields) := vInteger f classMul fun a b => a * b
/-- VIMAD (16 R448). -/
def execVimad (f : VFields) :=
  vFused f fun x y z => intResult f.fmt.toNat f.sat (intOf f x * intOf f y + intOf f z)
/-- VAND (16 R448). -/
def execVand (f : VFields) := vBinary f classAdd fun x y => (x &&& y, 0)
/-- VOR (16 R448). -/
def execVor (f : VFields) := vBinary f classAdd fun x y => (x ||| y, 0)
/-- VXOR (16 R448). -/
def execVxor (f : VFields) := vBinary f classAdd fun x y => (x ^^^ y, 0)
/-- VNOT (16 R448). -/
def execVnot (f : VFields) := vUnary f classAdd fun x => (2 ^ fmtBits f.fmt.toNat - 1 - x, 0)

/-- A shift: its count is an element of vb, or the immediate when imm9 [8] is 1 (16 R449). -/
def vShiftWord (f : VFields) (op : Nat → Nat → Nat → Nat) :=
  let w := fmtBits f.fmt.toNat
  if f.imm = 0 then vBinary f classAdd fun x n => (op w x n, 0)
  else vUnary f classAdd fun x => (op w x (f.imm.toNat % 32), 0)

/-- VSHL (16 R449). -/
def execVshl (f : VFields) := vShiftWord f shiftLeft
/-- VSHR (16 R449). -/
def execVshr (f : VFields) := vShiftWord f shiftRight
/-- VSRA (16 R449). -/
def execVsra (f : VFields) := vShiftWord f shiftRightTop

/-! ### Compares, selects and masks (16 R450 to R452) -/

/-- The bits of a mask that elements from index first on write, with their values: a later element overwrites an earlier
one (16 R450). -/
def maskBits (first : Nat) (l : List Bool) : BitVec 256 × BitVec 256 :=
  l.zipIdx.foldl (fun acc e =>
    let i := (first + e.2) % 256
    (setBit acc.1 i true, setBit acc.2 i e.1)) (0, 0)

/-- VCMP (16 R450). -/
def execVcmp (f : VFields) :=
  let fmt := f.fmt.toNat
  let size := elemsPerSeg fmt
  vWord (fun t =>
      let n := sweepCount t.csr f
      { srcs := [opA f fmt n, opB f fmt n], dst := none, masks := maskUse f, push2 := 0, segs := n, cls := classAdd })
    noCheck fun a k =>
      sweep (sweepCount k.ctx.csr f) (fun t k j =>
        let x := (a.arg 0).read fmt a.free k j
        let y := (a.arg 1).read fmt a.free k j
        let out := (x.zip y).zipIdx.map fun (e, i) =>
          if enabledAt f (maskNow f k) (j * size + i) then compareElems fmt f.imm.toNat e.1 e.2 else (false, 0)
        let (which, value) := maskBits (j * size) (out.map Prod.fst)
        { Pending.none (t + 4) a.tag with
          masks := [(f.vd.toNat % 8, which, value)], flags := out.foldl (fun v e => v ||| e.2) 0 }) k

/-- VSEL (16 R451). -/
def execVsel (f : VFields) :=
  vSegments f classAdd [opA, opB] [f.k] fun ins mask first =>
    ((ins.getD 0 []).zip (ins.getD 1 [])).zipIdx.map fun (e, i) =>
      some (if mask.getLsbD ((first + i) % 256) then e.1 else e.2, 0)

/-- A mask that a mask word names in the low bits of an operand field (16 R452). -/
def maskNum (n : BitVec 9) : BitVec 3 := n.setWidth 3
/-- Its value. -/
def maskVal (k : Core) (n : BitVec 9) : BitVec 256 := k.ctx.k.get (Fin.ofNat 8 n.toNat)

/-- A word that reads masks and issues one segment (16 R452). -/
def vMasks (masks : List (BitVec 3)) (push2 : Nat) (op : Core → Pending → Pending) :=
  vWord (fun _ => { srcs := [], dst := none, masks := masks, push2 := push2, segs := 1, cls := classAdd }) noCheck
    fun a k => sweep 1 (fun t k _ => op k (Pending.none (t + 4) a.tag)) k

/-- A word that writes all of a mask. -/
def vMaskWrite (f : VFields) (masks : List (BitVec 3)) (op : Core → BitVec 256) :=
  vMasks masks 0 fun k p => { p with masks := [(f.vd.toNat % 8, BitVec.allOnes 256, op k)] }

/-- KAND (16 R452). -/
def execKand (f : VFields) := vMaskWrite f [maskNum f.va, maskNum f.vb] fun k => maskVal k f.va &&& maskVal k f.vb
/-- KOR (16 R452). -/
def execKor (f : VFields) := vMaskWrite f [maskNum f.va, maskNum f.vb] fun k => maskVal k f.va ||| maskVal k f.vb
/-- KXOR (16 R452). -/
def execKxor (f : VFields) := vMaskWrite f [maskNum f.va, maskNum f.vb] fun k => maskVal k f.va ^^^ maskVal k f.vb
/-- KNOT (16 R452). -/
def execKnot (f : VFields) := vMaskWrite f [maskNum f.va] fun k => ~~~ maskVal k f.va
/-- KPOP (16 R452). -/
def execKpop (f : VFields) :=
  vMasks [maskNum f.va] 1 fun k p => { p with qvs := [BitVec.ofNat 64 (popCount 256 (maskVal k f.va).toNat)] }

end Sys2Proof.Machine
end

