-- ==== Sys2Proof/Machine/VectorMove.lean ====
section
/-!
DEFINITION. The conversions, block-scaled moves, reductions, permutes and transfers of the V-stream (12 R346; 16 R453 to
R465).
-/
namespace Sys2Proof.Machine

/-! ### Conversions (16 R453) -/

/-- The lanes of a conversion between two formats (16 R453). -/
def lanes (fd fs : Nat) : Nat := min (elemsPerSeg fd) (elemsPerSeg fs)

/-- VCVT (16 R453). -/
def execVcvt (f : VFields) :=
  let fd := f.fmt.toNat
  let fs := f.fmt2.toNat
  let size := lanes fd fs
  vWord (fun t =>
      let n := sweepCount t.csr f
      { srcs := [opA f fs n], dst := some (opD f fd n), masks := maskUse f, push2 := 0, segs := n, cls := classCvt })
    noCheck fun a k =>
      sweep (sweepCount k.ctx.csr f) (fun t k j =>
        segResult a (t + 8) (fmtBits fd) j
          ((((a.arg 0).read fs a.free k j).take size).zipIdx.map fun (x, i) =>
            if enabledAt f (maskNow f k) (j * size + i) then some (convert fd fs (rndOf f) f.sat x) else none)) k

/-! ### Block-scaled moves (16 R454 to R458) -/

/-- The count is a whole number of groups of m. -/
def wholeCount (f : VFields) (m : Nat) (t : Ctx) : Res Unit := guardTrap (sweepCount t.csr f % m = 0) .operandRange

/-- Blocks of n elements. -/
def chunksOf (n : Nat) : (count : Nat) → List Nat → List (List Nat)
  | 0, _ => []
  | c + 1, l => l.take n :: chunksOf n c (l.drop n)

/-- Code and scale streams in progress: the code bytes of the code segment at hand, and the flags that they set. -/
structure Packing where
  codes : List Byte
  flags : Flags

/-- A packing word: pack gives the code bytes of a source segment, its scale bytes and flags; per source segments fill
a code segment. Scale bytes go to vb (16 R454). -/
def vPacking (f : VFields) (srcFmt per scales : Nat) (useQb : Bool)
    (pack : Word → List Nat → List Byte × List Byte × Flags) :=
  vWord (fun t =>
      let n := sweepCount t.csr f
      { srcs := [opA f srcFmt n], dst := some (opD f 8 (n / per)), masks := [], push2 := 0, segs := n, cls := classCvt
        more := if scales = 0 then [] else [opB f 8 (ceilDiv (scales * n) 256)], qb := useQb })
    (wholeCount f per) fun a k =>
      let n := sweepCount k.ctx.csr f
      let t0 := k.ctx.vcyc
      gather n (⟨[], 0⟩ : Packing) (fun t k j acc =>
        let (codes, scale, flags) := pack a.qb ((a.arg 0).read srcFmt a.free k j)
        let acc : Packing := ⟨acc.codes ++ codes, acc.flags ||| flags⟩
        let done := (j + 1) % per = 0
        let code := ({ Pending.none (t + 8) a.tag with flags := acc.flags } : Pending).put a.dst 8 (j / per)
          (acc.codes.map fun (b : Byte) => some b.toNat)
        let at_ := scales * j
        let last := min n (256 / max scales 1 * (at_ / 256 + 1)) - 1
        let place := (segAddr k.ctx.csr.vwv f.vb.toNat f.sb (at_ / 256)).toNat + at_ % 256
        let sc := { Pending.none (t0 + last + 8) a.tag with regs := [(place, scale)] }
        let out := (if done then [code] else []) ++ if scales = 0 then [] else [sc]
        (if done then ⟨[], 0⟩ else acc, out)) k

/-- Codes of w bits as bytes. -/
def codeBytes (w : Nat) (l : List Nat) : List Byte := natToBytes (w * l.length / 8) (joinElems w l)

/-- VPACK: quantising to a microscaling format, or raw nibbles (16 R455). -/
def execVpack (f : VFields) :=
  let fd := f.fmt.toNat
  if f.fmt2 = 8 then
    vPacking f 8 (if fd = 5 then 8 else 4) 2 false fun _ l =>
      let blocks := (chunksOf 32 2 l).map (packMx fd (rndOf f))
      (blocks.flatMap (fun b => codeBytes (fmtBits fd) b.1), blocks.map (fun b => BitVec.ofNat 8 b.2.1),
        blocks.foldl (fun g b => g ||| b.2.2) 0)
  else vPacking f 11 2 0 false fun _ l => (codeBytes 4 (l.map fun x => x % 16), [], 0)

/-- VQCB (16 R456). -/
def execVqcb (f : VFields) :=
  vPacking f 8 8 1 true fun qb l =>
    let (codes, s8, flags) := packCb4 (qb.toNat % 2 ^ 32) l
    (codeBytes 4 codes, [BitVec.ofNat 8 s8], flags)

/-- VDQ (16 R457). -/
def execVdq (f : VFields) :=
  let fs := f.fmt2.toNat
  let per := if fs = 7 then 4 else 8
  let w := if fs = 7 then 8 else 4
  let scales := if fs = 6 then 1 else 2
  vWord (fun t =>
      let n := sweepCount t.csr f
      { srcs := [opA f 8 (n / per), opB f 8 (ceilDiv (scales * n) 256)], dst := some (opD f 8 n), masks := [], push2 := 0
        segs := n, cls := classCvt, qb := fs == 6 })
    (wholeCount f per) fun a k =>
      sweep (sweepCount k.ctx.csr f) (fun t k j =>
        let code := (a.arg 0).readCodes w 8 a.free k (j / per)
        let scale := (a.arg 1).readCodes 8 8 a.free k (scales * j / 256)
        segResult a (t + 8) 32 j ((List.range 64).map fun i =>
          let c := code.getD (64 * (j % per) + i) 0
          let s := scale.getD ((scales * j + (if fs = 6 then 0 else i / 32)) % 256) 0
          let v := if fs = 6 then cb4Value (decodeElem 8 (a.qb.toNat % 2 ^ 32)) s c else mxValue fs s c
          some (roundFloat fmtFP32 (rndOf f) false v))) k

/-- VUNPACK (16 R458). -/
def execVunpack (f : VFields) :=
  vWord (fun t =>
      let n := sweepCount t.csr f
      { srcs := [opA f 8 (n / 2)], dst := some (opD f 11 n), masks := [], push2 := 0, segs := n, cls := classCvt })
    (wholeCount f 2) fun a k =>
      sweep (sweepCount k.ctx.csr f) (fun t k j =>
        let code := (a.arg 0).readCodes 4 8 a.free k (j / 2)
        segResult a (t + 8) 8 j ((List.range 256).map fun i => some (code.getD (256 * (j % 2) + i) 0, 0))) k

/-! ### Reductions and scans (16 R459, R460) -/

/-- A reduction: red makes one element of dstFmt from the enabled elements with their indices (16 R459). -/
def vReduction (f : VFields) (dstFmt : Nat) (red : List (Nat × Nat) → Nat × Flags) :=
  let fmt := f.fmt.toNat
  let size := elemsPerSeg fmt
  vWord (fun t =>
      let n := sweepCount t.csr f
      { srcs := [opA f fmt n], dst := some (opD f dstFmt 1), masks := maskUse f, push2 := 0, segs := n, cls := classAdd })
    noCheck fun a k =>
      let n := sweepCount k.ctx.csr f
      gather n ([] : List (Nat × Nat)) (fun t k j acc =>
        let mask := maskNow f k
        let acc := acc ++ ((((a.arg 0).read fmt a.free k j).zipIdx.map fun (x, i) => (j * size + i, x)).filter fun e =>
          enabledAt f mask e.1)
        (acc, if j + 1 = n then [segResult a (t + 4) (fmtBits dstFmt) 0 [some (red acc)]] else [])) k

/-- VRSUM (16 R459). -/
def execVrsum (f : VFields) :=
  vReduction f f.fmt.toNat fun l => sumElems f.fmt.toNat (rndOf f) f.sat (l.map Prod.snd)
/-- VRMAX (16 R459). -/
def execVrmax (f : VFields) := vReduction f f.fmt.toNat fun l => extremeElems f.fmt.toNat true (l.map Prod.snd)
/-- VRMIN (16 R459). -/
def execVrmin (f : VFields) := vReduction f f.fmt.toNat fun l => extremeElems f.fmt.toNat false (l.map Prod.snd)
/-- VARGMAX (16 R459). -/
def execVargmax (f : VFields) := vReduction f 9 (argMax f.fmt.toNat)

/-- The prefix sums of the elements of one segment, none where an element is disabled, and the sum after them. -/
def scanSegment (fmt mode : Nat) (sat : Bool) (on : Nat → Bool) :
    (acc i : Nat) → List Nat → List (Option (Nat × Flags)) × Nat
  | acc, _, [] => ([], acc)
  | acc, i, x :: r =>
    if on i then
      let (v, g) := scanStep fmt mode sat acc x
      let (l, last) := scanSegment fmt mode sat on v (i + 1) r
      (some (v, g) :: l, last)
    else
      let (l, last) := scanSegment fmt mode sat on acc (i + 1) r
      (none :: l, last)

/-- VSCAN (16 R460): all of its results land 4 cycles after the last segment. -/
def execVscan (f : VFields) :=
  let fmt := f.fmt.toNat
  let size := elemsPerSeg fmt
  vWord (fun t =>
      let n := sweepCount t.csr f
      { srcs := [opA f fmt n], dst := some (opD f fmt n), masks := maskUse f, push2 := 0, segs := n, cls := classAdd })
    noCheck fun a k =>
      let n := sweepCount k.ctx.csr f
      let due := k.ctx.vcyc + n - 1 + 4
      gather n ((0, []) : Nat × List Pending) (fun _ k j acc =>
        let (l, last) := scanSegment fmt (rndOf f) f.sat (fun i => enabledAt f (maskNow f k) (j * size + i)) acc.1 0
          ((a.arg 0).read fmt a.free k j)
        let out := acc.2 ++ [segResult a due (fmtBits fmt) j l]
        ((last, out), if j + 1 = n then out else [])) k

/-! ### Moves and permutes (16 R461 to R463) -/

/-- VMOV (16 R461). -/
def execVmov (f : VFields) := vUnary f classAdd fun x => (x, 0)

/-- A word that moves the elements within each segment: pick gives element i of the destination from those of the
sources. -/
def vPermute (f : VFields) (srcs : List (VFields → Nat → Nat → VOp)) (pick : List (List Nat) → Nat → Nat) :=
  vSegments f classAdd srcs (maskUse f) fun ins mask first =>
    (List.range (elemsPerSeg f.fmt.toNat)).map fun i =>
      if enabledAt f mask (first + i) then some (pick ins i, 0) else none

/-- VBCAST (16 R461). -/
def execVbcast (f : VFields) := vPermute f [opA] fun ins _ => (ins.getD 0 []).getD f.imm.toNat 0

/-- VIOTA (16 R461). -/
def execViota (f : VFields) :=
  vSegments f classAdd [] (maskUse f) fun _ mask first =>
    (List.range (elemsPerSeg f.fmt.toNat)).map fun i =>
      if enabledAt f mask (first + i) then some (intResult f.fmt.toNat f.sat (f.imm.toInt + (first + i : Nat)))
        else none

/-- VPERM (16 R462). -/
def execVperm (f : VFields) :=
  let fmt := f.fmt.toNat
  let size := elemsPerSeg fmt
  vPermute f [opA, opB] fun ins i =>
    let index := joinElems (fmtBits fmt) (ins.getD 1 []) / 2 ^ (8 * i) % 256
    (ins.getD 0 []).getD (index % size) 0

/-- Where VSHUF of a kind takes element i of the destination: the source and the element (16 R462). -/
def shuffleFrom (kind rot size i : Nat) : Nat × Nat :=
  let h := size / 2
  match kind with
  | 0 => (i % 2, i / 2)
  | 1 => (i % 2, h + i / 2)
  | 2 => (i / h, 2 * (i % h))
  | 3 => (i / h, 2 * (i % h) + 1)
  | 4 => (0, size - 1 - i)
  | _ => (0, (i + rot) % size)

/-- VSHUF (16 R462). -/
def execVshuf (f : VFields) :=
  let kind := f.imm.toNat % 8
  vPermute f (if kind < 4 then [opA, opB] else [opA]) fun ins i =>
    let (x, n) := shuffleFrom kind (f.imm.toNat / 8) (elemsPerSeg f.fmt.toNat) i
    (ins.getD x []).getD n 0

/-- VTRANS (16 R463). -/
def execVtrans (f : VFields) :=
  let fmt := f.fmt.toNat
  let size := elemsPerSeg fmt
  vWord (fun t =>
      let n := sweepCount t.csr f
      { srcs := [{ opA f fmt n with tile := true }], dst := some { opD f fmt n with tile := true }, masks := [], push2 := 0
        segs := n, cls := classAdd })
    (fun t => guardTrap (sweepCount t.csr f = size) .operandRange) fun a k =>
      let n := sweepCount k.ctx.csr f
      gather n ([] : List (List Nat)) (fun t k j acc =>
        let acc := acc ++ [(a.arg 0).read fmt a.free k j]
        (acc, if j + 1 = n then (List.range n).map fun i =>
          segResult a (t + 4) (fmtBits fmt) i (acc.map fun row => some (row.getD i 0, 0)) else [])) k

/-! ### Transfers to the S-stream (16 R464, R465) -/

/-- An element as a queue entry: INT elements are sign-extended (16 R464). -/
def scalarOf (fmt x : Nat) : Word :=
  if fmt = 4 || fmt = 9 || fmt = 10 then word (decodeInt fmt x) else BitVec.ofNat 64 x

/-- VSQ (16 R464). -/
def execVsq (f : VFields) :=
  let fmt := f.fmt.toNat
  vWord (fun t =>
      let n := sweepCount t.csr f
      { srcs := [opA f fmt n], dst := none, masks := [], push2 := n, segs := n, cls := classAdd })
    noCheck fun a k =>
      sweep (sweepCount k.ctx.csr f) (fun t k j =>
        { Pending.none (t + 4) a.tag with
          qvs := [scalarOf fmt (((a.arg 0).read fmt a.free k j).getD f.imm.toNat 0)] }) k

/-- VSETVLC: later V-words read the new VLC at once (16 R445, R465). -/
def execVsetvlc (f : VFields) :=
  let pushes := f.imm = 1
  vWord (fun _ =>
      { srcs := [], dst := none, masks := [], push2 := if pushes then 1 else 0, segs := 1, cls := classAdd
        qb := f.count = 0 })
    noCheck fun a k =>
      let v := if f.count = 0 then clamp 1 4095 a.qb.toNat else f.count.toNat
      let k := sweep 1 (fun t _ _ =>
        { Pending.none (t + 4) a.tag with qvs := if pushes then [BitVec.ofNat 64 v] else [] }) k
      { k with ctx := { k.ctx with csr := { k.ctx.csr with vlc := BitVec.ofNat 12 v } } }

/-! ### VACCEPT (12 R346) -/

/-- The iterations that VACCEPT accepts: L, before any stop value (12 R346). -/
def matchRun (c d : List Nat) : (n l : Nat) → Nat
  | 0, l => l
  | n + 1, l => if d.getD l 0 = c.getD (l + 1) 0 then matchRun c d n (l + 1) else l

/-- The two entries that VACCEPT pushes (12 R346). -/
def acceptPushes (r : Round) (c d : List Nat) : List Word :=
  let run := matchRun c d r.n 0
  let hit (j : Nat) : Option Nat := (r.stops.find? fun e => e.2.toNat == d.getD j 0).map Prod.fst
  match (List.range (run + 1)).find? fun j => (hit j).isSome with
  | some j => [BitVec.ofNat 64 (j + 16 + 32 * (hit j).getD 0), BitVec.ofNat 64 (d.getD j 0)]
  | none => [BitVec.ofNat 64 run, BitVec.ofNat 64 (d.getD run 0)]

/-- VACCEPT (12 R346). -/
def execVaccept (f : VFields) :=
  let fmt := f.fmt.toNat
  vWord (fun t =>
      let n := sweepCount t.csr f
      { srcs := [opA f fmt n], dst := none, masks := [], push2 := 2, segs := n, cls := classAdd })
    (fun t => match roundOf t .v with
      | none => .fail .specIllegal
      | some r => guardTrap (sweepCount t.csr f = r.n + 1) .operandRange) fun a k =>
      match roundOf k.ctx .v with
      | none => k
      | some r =>
        let n := r.n + 1
        let c := placeCodes 32 (4 * n) r.cv a.free k n
        gather n ([] : List Nat) (fun t k j acc =>
          let acc := acc ++ [((a.arg 0).read fmt a.free k j).getD 0 0]
          (acc, if j + 1 = n then [{ Pending.none (t + 4) a.tag with qvs := acceptPushes r c acc }] else [])) k

end Sys2Proof.Machine
end

