-- ==== Sys2Proof/Machine/Lookahead.lean ====
section
/-!
DEFINITION. What the V-words before an M-word in text order still have to write to register space (06 R177, R187; 17
R487).
-/
namespace Sys2Proof.Machine

/-- The register destinations of a V-word that sweeps n segments, as operands. -/
def vTargets (i : Instr) (n : Nat) : List VOp :=
  let same (f : VFields) : List VOp := [opD f f.fmt.toNat n]
  match i with
  | .vadd f => same f | .vsub f => same f | .vmul f => same f | .vfma f => same f | .vfms f => same f
  | .vnfma f => same f | .vmin f => same f | .vmax f => same f | .vabs f => same f | .vneg f => same f
  | .vdiv f => same f | .vsqrt f => same f | .vrcp f => same f | .vrsq f => same f | .vexp2 f => same f
  | .vlog2 f => same f | .vtanh f => same f | .viadd f => same f | .visub f => same f | .vimul f => same f
  | .vimad f => same f | .vand f => same f | .vor f => same f | .vxor f => same f | .vnot f => same f
  | .vshl f => same f | .vshr f => same f | .vsra f => same f | .vsel f => same f | .vcvt f => same f
  | .vdq f => same f | .vunpack f => same f | .vscan f => same f | .vperm f => same f | .vshuf f => same f
  | .vbcast f => same f | .viota f => same f | .vmov f => same f
  | .vtrans f => [{ opD f f.fmt.toNat n with tile := true }]
  | .vrsum f => [opD f f.fmt.toNat 1] | .vrmax f => [opD f f.fmt.toNat 1] | .vrmin f => [opD f f.fmt.toNat 1]
  | .vargmax f => [opD f 9 1]
  | .vqcb f => [opD f 8 (n / 8), opB f 8 (ceilDiv n 256)]
  | .vpack f =>
    if f.fmt2 = 8 then [opD f 8 (n / (if f.fmt = 5 then 8 else 4)), opB f 8 (ceilDiv (2 * n) 256)]
      else [opD f 8 (n / 2)]
  | _ => []

/-- The count field of a V-word (16 R440). -/
def vCountField (w : Nat) : Nat := bits w 15 4

/-- A range of register space, as offset and length, meets another. -/
def rangesMeet (a b : List (Nat × Nat)) : Bool := a.any fun x => b.any fun y => x.1 < y.1 + y.2 && y.1 < x.1 + x.2

/-- The bytes of register space that an operand covers. -/
def vRanges (c : Csrs) (o : VOp) : List (Nat × Nat) :=
  if isVReg o.num then (List.range o.count).map fun j =>
    ((segAddr (viewOf c o) o.num.toNat o.step j).toNat, segBytes o.fmt)
  else []

/-- What the V-word w does for the scan: whether it writes one of the ranges, and the VLC after it, none where that is
not known. -/
def vScanWord (c : Csrs) (ranges : List (Nat × Nat)) (vlc : Option Nat) (w : Nat) : Bool × Option Nat :=
  match decodeTableWord 96 w with
  | some (.vsetvlc f) => (false, if f.count = 0 then none else some f.count.toNat)
  | some i =>
    match (if vCountField w = 0 then vlc else some (vCountField w)) with
    | some n => ((vTargets i n).any fun o => rangesMeet (vRanges c o) ranges, vlc)
    | none => (!(vTargets i 1).isEmpty, vlc)
  | none => (false, vlc)

/-- The parcels of text that a scan reads, without a trace in any cache. -/
def peekWord (s : State) (c : CoreId) (n pc : Nat) : Nat :=
  match (fetchWord s c (getCore s c).ctx.asid n pc).1 with
  | .ok w => w
  | .error _ => 0

/-- The kind of the shared control word p and its offset (13 R355). -/
def steerOf (p : Parcel) : Steer × BitVec 16 :=
  let off : BitVec 16 := p.setWidth 16
  match bits p.toNat 27 24 with
  | 1 => (.br, off) | 2 => (.loop, off) | 3 => (.call, off) | 4 => (.calli, off) | 5 => (.ret, off)
  | 6 => (.yield, off) | 7 => (.endw, off) | _ => (.nopx, off)

/-- Parcels of a word by its tag (06 R158). -/
def parcelsOf (p : Parcel) : Nat :=
  match bits p.toNat 31 28 with
  | 12 => 3
  | 13 => 6
  | 14 => 6
  | _ => 1

/-- The V-stream's words from pc on, up to the M-stream's word at stop: one of them writes a range. popped counts the
held entries that the V-stream will have popped, ret is its return stack. fuel bounds the words; beyond it the answer is
that one does. -/
def vScan (s : State) (c : CoreId) (ranges : List (Nat × Nat)) (stop : Word) (last : Nat) :
    (fuel : Nat) → (pc : Word) → (popped : Nat) → (ret : List Word) → (vlc : Option Nat) → Bool
  | 0, _, _, _, _ => true
  | fuel + 1, pc, popped, ret, vlc =>
    if popped > last || (popped = last && pc.toNat ≥ stop.toNat) then false
    else
      let p : Parcel := BitVec.ofNat 32 (peekWord s c 1 pc.toNat)
      match bits p.toNat 31 28 with
      | 15 => match (getCore s c).ctx.steer[popped]? with
        | none => false
        | some e =>
          let (k, off) := steerOf p
          let (pc, ret) := followTarget k off e pc ret
          vScan s c ranges stop last fuel pc (popped + 1) ret vlc
      | 12 =>
        let (hit, vlc) := vScanWord (getCore s c).ctx.csr ranges vlc (peekWord s c 3 pc.toNat)
        if hit then true else vScan s c ranges stop last fuel (pc + 12) popped ret vlc
      | _ => vScan s c ranges stop last fuel (pc + BitVec.ofNat 64 (4 * parcelsOf p)) popped ret vlc

/-- Words that the scan looks at. -/
def scanFuel : Nat := 1048576

/-- A V-word before the M-stream's word in text order has still to write one of these ranges (17 R487). -/
def vWillWrite (s : State) (c : CoreId) (ranges : List (Nat × Nat)) : Bool :=
  let t := (getCore s c).ctx
  let v := getStream t .v
  let m := getStream t .m
  (t.vpend.any fun p => p.regs.any fun w => rangesMeet [(w.1, w.2.length)] ranges)
    || (live t .v && vScan s c ranges m.pc m.popped scanFuel v.pc v.popped v.ret (some t.csr.vlc.toNat))

end Sys2Proof.Machine
end

