-- ==== Sys2Proof/Machine/Matrix.lean ====
section
/-!
DEFINITION. The words of the M-stream (17 R467 to R488; 10 R301 to R304).
-/
namespace Sys2Proof.Machine

/-! ### The frame of an M-word -/

/-- Every earlier M-word has completed, a test by MTEST and its signal among them (17 R467, R485). -/
def mIdle (t : Ctx) : Bool := t.m.cmd.isNone && t.m.mtest.isNone

/-- An M-word that begins once every earlier one has completed: its fetch overlaps none (17 R467; entry 37). -/
def matrixWord (f : State → Res State) : State → Host.Outcome State Fault Refusal :=
  runWord .m 24 fun s => if mIdle (curCtx s) then f s else .wait

/-- The token that a word signals. -/
def tokenField (f : MFields) : Option (Fin 16) := if f.sig then some (Fin.ofNat 16 f.tok.toNat) else none

/-- An M-word that runs on and writes nothing yet. -/
def newCmd (s : State) (token : Option (Fin 16)) : TileCmd :=
  { tile := false, work := .none, raced := [], round := (roundOf (curCtx s) .m).map (·.id)
    regs := [], stage := [], token := token, reads := [], unpin := []
    pc := (getStream (curCtx s) .m).pc, cidx := (getStream (curCtx s) .m).cidx, step := 0xFFFFFFFF,
    rerun := false, array := 0
    since := (curCtx s).csr.cycle, landed := false }

/-- The M-word x runs; its writes stand when it ends. -/
def startCmd (s : State) (x : TileCmd) : State := modCurM s fun m => { m with cmd := some x }

/-- The ranges of register space that a C tile covers. -/
def cRanges (f : MFields) (ci : Nat) : List (Nat × Nat) := (List.range (mtOf f)).map fun i => (cRowAt f ci i, cRowLen f)

/-- The word waits for the writes of earlier V-words to what it reads (17 R487; entry 118). -/
def afterV (s : State) (l : List (Nat × Nat)) : Res Unit := guardWait (!vWillWrite s s.cur l)

/-- The slices that a word names are the ASID's, claimed if they have no owner (07 R198). -/
def claimSlices (s : State) (detail : Nat) : List Nat → Res State
  | [] => .ok s
  | i :: r => match claimSlice s (curCtx s).asid i with
    | .ok s => claimSlices s detail r
    | .trap c _ a => .trap c detail a
    | .wait => .wait
    | .waitAs s => .waitAs s
    | .again s => .again s

/-! ### Format words and the nest table (17 R468, R469, R476; 14 R394) -/

/-- The level of the nest table that two nest entries set. -/
def nestLevel (a b : Word) : NestLevel :=
  ⟨BitVec.ofNat 16 a.toNat, BitVec.ofNat 32 (bits a.toNat 63 32), BitVec.ofNat 32 (bits b.toNat 31 0),
    BitVec.ofNat 32 (bits b.toNat 63 32)⟩

/-- The nest entries at the head of the format queue are applied to the shadow table. -/
def applyNests (t : Ctx) : List (QEntry FmtEntry) → Ctx
  | [] => modQ t fun q => { q with fmt := [] }
  | e :: r => match e.val with
    | .nest l a b => applyNests { t with m := { t.m with shadow := vset t.m.shadow l (nestLevel a b) } } r
    | .format _ => modQ t fun q => { q with fmt := e :: r }

/-- The nest entries at the head of the queue are applied; an S-stream that waits for room looks again (14 R394; 17
R468). -/
def takeNests (t : Ctx) : Ctx :=
  match t.q.fmt with
  | ⟨.nest _ _ _, _⟩ :: _ => modStream (applyNests t t.q.fmt) .s fun x => { x with waiting := false }
  | _ => t

/-- The S-stream has skipped the M-stream's word in its walk (17 R468). -/
def sSkipped (t : Ctx) : Bool :=
  let m := getStream t .m
  t.steer.length > m.popped || (t.steer.length == m.popped && (getStream t .s).pc.toNat > m.pc.toNat)

/-- The format word at the head of the queue, once the nest entries before it are applied; its limits, and with layout
those of a tile command (17 R468, R469). -/
def headFormat (t : Ctx) (f : MFields) (layout : Bool) : Res Word :=
  match t.q.fmt with
  | e :: _ => match e.val with
    | .format w => if formatOk w && (!layout || layoutOk w f) then .ok w else .fail .illegalWord
    | .nest _ _ _ => .wait
  | [] => if sSkipped t then .fail .formatUnderflow else .wait

/-- The format word is removed. -/
def popFormat (t : Ctx) : Ctx := modQ t fun q => { q with fmt := q.fmt.tail }

/-- A word that pops a format word: pre is what it checks before, and the nest entries that it has applied stay applied
whatever follows (17 R468). -/
def formatWord (pre : Ctx → Res Unit) (f : State → Res State) (s : State) : Host.Outcome State Fault Refusal :=
  let ready := match pre (curCtx s) with
    | .ok _ => mIdle (curCtx s)
    | _ => false
  let s := if ready then modCur s takeNests else s
  matrixWord (fun s => (pre (curCtx s)).andThen fun _ => f s) s

/-! ### Tile commands (17 R474, R477) -/

/-- The offsets and index of a step. -/
structure StepAt where
  ao  : Int
  bo  : Int
  ci  : Int
  acc : Bool
  deriving DecidableEq, Repr

/-- The checks of a tile command over the offsets that it reaches: W, then the places of operands, scales and results,
then NOARRAY (10 R304; 17 R471 to R474, R477). -/
def tileChecks (s : State) (w : Word) (f : MFields) (l : List StepAt) : Res Unit :=
  let ok (x : StepAt) : Bool :=
    (linesA w f x.ao).ok && (linesB w f x.bo).ok && (linesA w f x.ao).scalesOk (scaleBase w false)
      && (linesB w f x.bo).scalesOk (scaleBase w true) && cTileOk f x.ci
  if tileWork w f > 1152 || !l.all ok then .fail .operandRange
  else if (curCore s).fence = 15 then .trap .arraySuspect 2 0
  else .ok ()

/-- The slices that a tile command fetches from. -/
def tileSlices (w : Word) (f : MFields) : List Nat :=
  [f.aSlice.toNat, f.bSlice.toNat] ++ ((scaleBase w false).map Prod.fst).toList
    ++ ((scaleBase w true).map Prod.fst).toList

/-- A tile command waits for a self-test that is due or runs (10 R301). -/
def testDone (t : Ctx) : Res Unit := guardWait (t.m.tested && !t.m.testDue && !t.m.testing)

/-- What a step fetches. -/
def stepReads (w : Word) (f : MFields) (x : StepAt) : List Pin :=
  (linesA w f x.ao).fetched (scaleBase w false) ++ (linesB w f x.bo).fetched (scaleBase w true)

/-- TileStep begins: its results are formed from what it fetches now, and they stand when it ends. last tells that the
word's signal and its pin releases come with it; touched are the regions that earlier steps fetched from. -/
def tileStep (s : State) (w : Word) (f : MFields) (x : StepAt) (step : BitVec 32) (last : Bool) (touched : List Pin) :
    State :=
  let k := curCore s
  let reads := stepReads w f x
  let hit := pinsHit k.ctx.m.pins reads ++ touched
  let cmd := formWrites s k { newCmd s (if last then tokenField f else none) with
    tile := true
    work := .tile w f x.ao.toNat x.bo.toNat x.ci.toNat x.acc k.ctx.csr.nbv
    reads := reads
    unpin := if last && f.unpin then hit.eraseDups else []
    step := step
    rerun := !x.acc
    array := tileWork w f * arrayFactor k.fence }
  let s := charge s s.cur (max (macCost (fwA w)) (macCost (fwB w))) ((openRows f k.ctx.m.rm).length * ntOf f * ktOf f)
  let s := charge s s.cur costStaging
    ((linesA w f x.ao).granules (scaleBase w false) + (linesB w f x.bo).granules (scaleBase w true))
  startCmd s cmd

/-- What a step needs before it begins: the self-test, the V-stream's writes to the C tile that it accumulates, and its
slices. -/
def stepReady (s : State) (w : Word) (f : MFields) (x : StepAt) : Res State :=
  (claimSlices s 0 (tileSlices w f)).andThen fun s' =>
    (testDone (curCtx s)).andThen fun _ =>
      (if x.acc then afterV s (cRanges f x.ci.toNat) else .ok ()).mapTo fun _ => s'

/-- MSTEP's one step. -/
def mstepAt (f : MFields) : StepAt := ⟨f.aOff.toNat, f.bOff.toNat, f.cIdx.toNat, f.acc⟩

/-- MSTEP (17 R474). -/
def execMstep (f : MFields) (s : State) : Host.Outcome State Fault Refusal :=
  match raiseSuspect s with
  | some s' => if runs s then .next s' else .fault .noTask
  | none => formatWord (fun _ => .ok ()) (fun s =>
      (headFormat (curCtx s) f true).andThen fun w =>
        (tileChecks s w f [mstepAt f]).andThen fun _ =>
          (stepReady s w f (mstepAt f)).mapTo fun s =>
            tileStep (modCur s popFormat) w f (mstepAt f) 0xFFFFFFFF true []) (dropSuspect s)

/-! ### MNEST (17 R476 to R478) -/

/-- The count of a level: an unused level runs once. -/
def levelCount (l : NestLevel) : Nat := max l.count.toNat 1

/-- The sum of counters times the strides that pick chooses. -/
def nestMove (n : Vector NestLevel 6) (i : List Nat) (pick : NestLevel → BitVec 32) : Int :=
  (n.toList.zip i).foldl (fun v e => v + (e.2 : Int) * (pick e.1).toInt) 0

/-- The step of an MNEST at counters i. -/
def nestStep (f : MFields) (n : Vector NestLevel 6) (i : List Nat) : StepAt :=
  { ao := f.aOff.toNat + nestMove n i (fun l => l.sa)
    bo := f.bOff.toNat + nestMove n i (fun l => l.sb)
    ci := f.cIdx.toNat + nestMove n i (fun l => l.sc)
    acc := f.acc || (n.toList.zip i).any fun e => e.1.sc = 0 && e.2 > 0 }

/-- The least, or with high the greatest, sum that any step reaches. -/
def nestExtreme (n : Vector NestLevel 6) (high : Bool) (pick : NestLevel → BitVec 32) : Int :=
  n.toList.foldl (fun v l =>
    let d : Int := ((levelCount l - 1 : Nat) : Int) * (pick l).toInt
    if high == decide (d > 0) then v + d else v) 0

/-- The least and the greatest offsets and indices that any step reaches (17 R477). -/
def nestBounds (f : MFields) (n : Vector NestLevel 6) : List StepAt :=
  [false, true].map fun h =>
    { ao := f.aOff.toNat + nestExtreme n h (fun l => l.sa)
      bo := f.bOff.toNat + nestExtreme n h (fun l => l.sb)
      ci := f.cIdx.toNat + nestExtreme n h (fun l => l.sc)
      acc := f.acc }

/-- The counters of the next step, level 0 fastest; none after the last. -/
def nextCounters : List NestLevel → List Nat → Option (List Nat)
  | l :: ls, i :: is => if i + 1 < levelCount l then some ((i + 1) :: is) else (nextCounters ls is).map fun r => 0 :: r
  | _, _ => none

/-- Counters as the state keeps them. -/
def packCounters (l : List Nat) : Vector (BitVec 16) 6 := Vector.ofFn fun i => BitVec.ofNat 16 (l.getD i.val 0)

/-- The step at counters i with linear index n begins; the MNEST is over once its last step has begun. -/
def runNestStep (s : State) (w : Word) (f : MFields) (i : List Nat) (n : Nat) (touched : List Pin) : Res State :=
  let t := curCtx s
  let x := nestStep f t.m.active i
  let last := (nextCounters t.m.active.toList i).isNone
  (stepReady s w f x).mapTo fun s =>
    let seen := touched ++ pinsHit t.m.pins (stepReads w f x)
    let s := tileStep s w f x (BitVec.ofNat 32 n) last touched
    modCurM s fun m => { m with nest := if last then none else some ⟨w, packCounters i, n, seen.eraseDups⟩ }

/-- An MNEST begins (17 R477). -/
def beginNest (f : MFields) (s : State) : Res State :=
  let t := curCtx s
  (headFormat t f true).andThen fun w =>
    (tileChecks s w f (nestBounds f t.m.shadow)).andThen fun _ =>
      runNestStep (modCur s fun t => popFormat { t with m := { t.m with active := t.m.shadow } }) w f
        (List.replicate 6 0) 0 []

/-- An MNEST goes on with the step after the one that it ran last (17 R478; 10 R304). -/
def goOnNest (f : MFields) (r : NestRun) (s : State) : Res State :=
  if (curCore s).fence = 15 then .trap .arraySuspect 2 0
  else match nextCounters (curCtx s).m.active.toList (r.counters.toList.map fun i => i.toNat) with
  | some i => runNestStep s r.format f i (r.linear + 1) r.touched
  | none => .ok (modCurM s fun m => { m with nest := none })

/-- A step of MNEST has begun: the word retires with its last, and its stream stays at it before that. -/
def nestDone (s : State) : State :=
  if (curCtx s).m.nest.isNone then retire s .m 24
  else activeCycle (modCur s fun t => modStream t .m fun x => { x with waiting := false }) s.cur

/-- MNEST (17 R477, R478). -/
def execMnest (f : MFields) (s : State) : Host.Outcome State Fault Refusal :=
  if !runs s then .fault .noTask
  else match raiseSuspect s with
    | some s => .next s
    | none =>
      let s := dropSuspect s
      if !mIdle (curCtx s) then .next (waitWord s .m 24)
      else match (curCtx s).m.nest with
        | some r => .next (settleWord s .m 24 (goOnNest f r s) nestDone)
        | none =>
          let s := modCur s takeNests
          .next (settleWord s .m 24 (beginNest f s) nestDone)

/-! ### Accumulator words (17 R479, R480) -/

/-- The C tile of a word is in range. -/
def cCheck (f : MFields) : Res Unit := guardTrap (cTileOk f f.cIdx.toNat) .operandRange

/-- MZERO (17 R479). -/
def execMzero (f : MFields) :=
  matrixWord fun s =>
    (cCheck f).mapTo fun _ =>
      startCmd s { newCmd s (tokenField f) with
        regs := (openRows f (curCtx s).m.rm).map fun i => cRowPut f f.cIdx.toNat i (List.replicate (ntOf f) 0) }

/-- The n bytes from VWV register r on, within the view and the general region (17 R479). -/
def viewBytes (c : Csrs) (r : BitVec 16) (n : Nat) : Res Nat :=
  let a := viewBase c.vwv + viewStride c.vwv * r.toNat
  if a + n > viewEnd c.vwv || a < 0x400000 || a + n > 0x440000 then .fail .operandRange else .ok a

/-- MSCALE (17 R479). -/
def execMscale (f : MFields) :=
  matrixWord fun s =>
    let k := curCore s
    let c := k.ctx.csr
    (cCheck f).andThen fun _ => (viewBytes c f.aOff (4 * mtOf f)).andThen fun ra =>
      (viewBytes c f.bOff (4 * ntOf f)).andThen fun ca =>
        (afterV s ((ra, 4 * mtOf f) :: (ca, 4 * ntOf f) :: cRanges f f.cIdx.toNat)).mapTo fun _ =>
          startCmd s (formWrites s k { newCmd s (tokenField f) with work := .scale f ra ca })

/-- The bytes of a drain's lines in their destination: the last byte that it reaches (17 R480). -/
def drainExtent (f : MFields) (n : Nat) : Nat :=
  if f.bLay then 32 * f.bLd.toNat * (mtOf f - 1) + n * ntOf f
  else if f.aCol then 32 * f.aLd.toNat * (ntOf f - 1) + n * mtOf f
  else 32 * f.aLd.toNat * (mtOf f - 1) + n * ntOf f

/-- The pitch of a drain holds a line of it (17 R480). -/
def drainPitchOk (f : MFields) (n : Nat) : Bool :=
  if f.bLay then n * ntOf f ≤ 32 * f.bLd.toNat
  else if f.aCol then n * mtOf f ≤ 32 * f.aLd.toNat
  else n * ntOf f ≤ 32 * f.aLd.toNat

/-- A drain to register space through VWT. -/
def drainRegs (f : MFields) (out : Nat) (s : State) : Res State :=
  let k := curCore s
  let v := k.ctx.csr.vwt
  let base := viewBase v + viewStride v * f.bOff.toNat
  let hi := base + drainExtent f (drainSize out)
  if f.bOff.toNat ≥ 512 || base < 0x400000 || hi > viewEnd v || hi > 0x440000 then .fail .operandRange
  else .ok (startCmd (modCur s popFormat) (formWrites s k { newCmd s (tokenField f) with
    work := .drain f out base false }))

/-- A drain to a staging slice. -/
def drainStage (f : MFields) (out : Nat) (s : State) : Res State :=
  let k := curCore s
  let lo := 32 * f.aOff.toNat
  let n := drainExtent f (drainSize out)
  let lines := drainLines k f out
  let hits := lines.any fun e => k.ctx.m.pins.any fun p =>
    p.slice == f.aSlice.toNat && lo + e.1 < p.off + p.len && p.off < lo + e.1 + e.2.length
  if lo + n > 0x200000 then .fail .operandRange
  else if hits then .trap .access 1 0
  else (claimSlices s 1 [f.aSlice.toNat]).mapTo fun s =>
    let base := stagingBase + f.aSlice.toNat * 0x200000
    let s := charge s s.cur costStaging (granules (lines.map fun e => ⟨f.aSlice.toNat, lo + e.1, e.2.length⟩))
    startCmd (modCur s popFormat) (formWrites s k { newCmd s (tokenField f) with
      work := .drain f out (base + lo) true })

/-- MDRAIN (17 R480; 12 R348). -/
def execMdrain (f : MFields) :=
  formatWord (fun t => guardTrap (f.bLay || !inSpec t .m) .specIllegal) fun s =>
    (headFormat (curCtx s) f false).andThen fun w =>
      let out := fwOut w
      (cCheck f).andThen fun _ => (guardTrap (drainPitchOk f (drainSize out)) .operandRange).andThen fun _ =>
        (if f.bLay then drainRegs f out s else drainStage f out s).andThen fun s' =>
          (afterV s (cRanges f f.cIdx.toNat)).mapTo fun _ => s'

/-! ### The row mask and pins (17 R482 to R484) -/

/-- MROWMASK: the mask stands when the word ends (17 R482, R487). -/
def execMrowmask (f : MFields) :=
  matrixWord fun s =>
    let k := curCore s
    (viewBytes k.ctx.csr f.aOff 24).andThen fun a => (afterV s [(a, 24)]).mapTo fun _ =>
      startCmd s { newCmd s (tokenField f) with work := .rowMask a }

/-- The region that an MPIN names. -/
def pinOf (f : MFields) : Pin := ⟨f.aSlice.toNat, 32 * f.aOff.toNat, 32 * f.aLd.toNat⟩

/-- MPIN (17 R483). -/
def execMpin (f : MFields) :=
  matrixWord fun s =>
    let p := pinOf f
    if p.off + p.len > 0x200000 then .fail .operandRange
    else if (curCtx s).m.pins.length ≥ 8 then .fail .queue
    else (claimSlices s 0 [p.slice]).mapTo fun s => modCurM s fun m => { m with pins := m.pins ++ [p] }

/-- MPIN.UNPIN (17 R483). -/
def execMpinUnpin (f : MFields) := matrixWord fun s => .ok (modCurM s fun m =>
  { m with pins := m.pins.erase (pinOf f) })

/-! ### Tokens, fences, tests and status (17 R485, R486) -/

/-- MSIG (17 R485). -/
def execMsig (f : MFields) :=
  matrixWord fun s => (signalToken (curCtx s) (Fin.ofNat 16 f.tok.toNat)).mapTo fun t => modCur s fun _ => t

/-- MWAIT (17 R485). -/
def execMwait (f : MFields) :=
  matrixWord fun s => (waitToken (curCtx s) (Fin.ofNat 16 f.tok.toNat)).mapTo fun t => modCur s fun _ => t

/-- MFENCE; with SIG it signals its token once every earlier M-word has completed (17 R485). -/
def execMfence (f : MFields) := matrixWord fun s => .ok (if f.sig then startCmd s (newCmd s (tokenField f)) else s)

/-- MTEST (17 R485; 10 R304). -/
def execMtest (f : MFields) :=
  matrixWord fun s =>
    if (curCore s).fence = 15 then .trap .arraySuspect 2 0
    else if (curCtx s).m.testing then .wait
    else .ok (modCurM s fun m => { m with
        testing := true, testAt := (curCtx s).csr.cycle, testDue := false
        mtest := some { newCmd s (tokenField f) with landed := true } })

/-- The 32 bytes of MSTAT (17 R486). -/
def statBytes (k : Core) (cidx : Word) : List Byte :=
  let m := k.ctx.m
  natToBytes 8 cidx.toNat ++ natToBytes 4 m.sinceTest ++ natToBytes 4 0 ++ natToBytes 1 (arrayMode k.fence)
    ++ natToBytes 1 k.fence.toNat ++ natToBytes 1 m.pins.length ++ natToBytes 1 (bitOf (k.fence == 15))
      ++ natToBytes 4 0
    ++ natToBytes 8 m.ran

/-- MSTAT (17 R486). -/
def execMstat (f : MFields) :=
  matrixWord fun s =>
    let k := curCore s
    (viewBytes k.ctx.csr f.aOff 32).andThen fun a => (afterV s [(a, 32)]).mapTo fun _ =>
      startCmd s { newCmd s (tokenField f) with regs := [(a, statBytes k (getStream k.ctx .m).cidx)] }

end Sys2Proof.Machine
end

