-- ==== Sys2Proof/Machine/CoreEvents.lean ====
section
/-!
DEFINITION. The events of a core and of its task: placement and end, stops and pre-emption, the ends of operations that
its streams have issued, answers to trap records, and the release of what tasks hold (05 R144 to R149; 06 R185, R189; 07
R199, R203; 08 R229, R234, R236; 09 R259, R268; 10 R275 to R304; 01 R22 to R24).
-/
namespace Sys2Proof.Machine

/-! ### Placement and the end of tasks -/

/-- DRAW (05 R149). -/
def execDraw (c : Fin 64) (s : State) : Host.Outcome State Fault Refusal := .next (drawStep s (tile c))

/-- RESUME: a saved task is put on a free core, or the restore sequence of one ends (10 R296, R299). -/
def execResume (c : Fin 64) (s : State) : Host.Outcome State Fault Refusal :=
  .next (if (getCore s (tile c)).busy then endYieldRestore s (tile c) else resumeStep s (tile c))

/-- TASK_END (06 R163). -/
def execTaskEnd (c : Fin 64) (s : State) : Host.Outcome State Fault Refusal := .next (taskEndStep s (tile c))

/-- TRIGGER_REPORT (14 R398; 05 R145). -/
def execTriggerReport (c : Fin 64) (s : State) : Host.Outcome State Fault Refusal := .next (triggerReport s (tile c))

/-! ### Stops (05 R144; 06 R189; 10 R272 to R276) -/

/-- CAPTURE: the stop of a core drains and is captured (10 R275). -/
def execCapture (c : CoreId) (s : State) : Host.Outcome State Fault Refusal := .next (capture s c)

/-- WATCHDOG: the task has been resident for its MAXDUR (05 R144). -/
def execWatchdog (c : Fin 64) (s : State) : Host.Outcome State Fault Refusal :=
  .next (takeTrap s (tile c) (taskCause .watchdog 0 true))

/-- ECC_FATAL: an uncorrectable error in what the core's task uses (01 R17; 10 R272). -/
def execEccFatal (c : CoreId) (s : State) : Host.Outcome State Fault Refusal :=
  .next (takeTrap s c (taskCause .eccFatal 0 true))

/-- The word at a stream's pc, read without a trace in any cache: its tag, and the instruction. -/
def wordAt (s : State) (c : CoreId) (st : Stream) : Nat × Option Instr :=
  let pc := (getStream (getCore s c).ctx st).pc.toNat
  let p := peekWord s c 1 pc
  let n := parcelsOf (BitVec.ofNat 32 p)
  (tagOf p, decodeTableWord (32 * n) (peekWord s c n pc))

/-- The word at which a stream waits can wait for what only another stream of its task could do: a queue, a token, a
steering entry, or room for one (06 R164, R167, R171, R174, R189). The A-stream's SRPOP waits so only for room in qas,
an LQG only once its own writes are performed, and a word of the matrix array only for its format word. -/
def waitsOnStream (t : Ctx) (st : Stream) (i : Instr) : Bool :=
  match i with
  | .qpop _ _ | .qpush _ _ | .fmtpush _ | .nestw _ _ _ | .twait _ | .tsig _ => true
  | .amovq _ _ _ | .lq _ _ _ _ | .lqs _ _ _ _ _ | .sq _ _ _ _ | .sqs _ _ _ _ _ _ | .append _ _ _ => true
  | .lqg _ _ _ _ => t.aq.stores.isEmpty && t.aq.inflight.isEmpty
  | .srpop _ _ => !t.q.reply.isEmpty
  | .mwait _ | .msig _ => true
  | .mstep _ | .mnest _ | .mdrain _ => t.m.nest.isNone && t.q.fmt.isEmpty
  | .pload _ | .pstore _ | .psig _ | .pwait _ => true
  | _ => st == .v

/-- A stream waits for what only another stream of its task could do: at a shared control word the S-stream for room
under WIN, another stream for the entry (06 R164, R167). A stream that holds at a word of another stream, or that has
its entry and waits for what the word itself does, waits for neither. -/
def waitsInside (s : State) (c : CoreId) (st : Stream) : Bool :=
  let t := (getCore s c).ctx
  (getStream t st).waiting && match wordAt s c st with
    | (15, _) => if st == .s then !maySteer t else (t.steer[(getStream t st).popped]?).isNone
    | (n, some i) => tagStream n == some st && waitsOnStream t st i
    | (_, none) => false

/-- The streams of the task on core c wait on one another, with no command that would signal and no load, atomic, job or
draw outstanding (06 R189). -/
def deadlocked (s : State) (c : CoreId) : Bool :=
  let k := getCore s c
  let t := k.ctx
  let on := allStreams.filter (live t)
  k.busy && k.stop.isNone && !t.atEntry && !t.csr.inHandler && !on.isEmpty && on.all (waitsInside s c)
    && t.m.cmd.isNone && t.m.mtest.isNone && t.vpend.isEmpty && t.ppend.isEmpty
    && readsDone s c && t.aq.replay.isNone && t.aq.ask.isEmpty
    && (jobsOf s t.task).isEmpty && (samplesOf s t.task).isEmpty && s.slices.toList.all fun x => !x.scrub

/-- DEADLOCK: that state has held for 1,024 cycles (06 R189). -/
def execDeadlock (c : Fin 64) (s : State) : Host.Outcome State Fault Refusal :=
  .next (if deadlocked s (tile c) then takeTrap s (tile c) { taskCause .queue 1 true with source := 0 } else s)

/-! ### Pre-emption (10 R292 to R298) -/

/-- The placement after the task on core c is a draw without the task's hardware queue (10 R292). -/
def excludeQueue (s : State) (c : CoreId) : State :=
  let k := getCore s c
  match k.busy, kernelOf s k.ctx.task with
  | true, some o => modCore s c fun k => { k with exclude := some o.hwq }
  | _, _ => s

/-- PREEMPT_AT_BOUNDARY (10 R292). -/
def execPreemptAtBoundary (c : Fin 64) (s : State) : Host.Outcome State Fault Refusal := .next (excludeQueue s (tile c))

/-- A pre-emption of the task on core c is under way. -/
def preempting (k : Core) : Bool :=
  k.preempt || (match k.stop with
    | some x => x.info.cause == .preempt
    | none => false) || match k.ctx.yieldPhase with
    | .asked | .taken _ _ _ | .saving _ _ | .restoring _ true => true
    | _ => false

/-- A pre-emption is marked pending; a restore sequence runs to its end first (10 R296; DESIGN CHOICE 128). -/
def askYield (t : Ctx) : Ctx :=
  { t with yieldPhase := match t.yieldPhase with
      | .restoring resume _ => .restoring resume true
      | _ => .asked }

/-- The task on core c is pre-empted mid-task in the mode of its context's save entry (10 R292, R296, R298). -/
def preemptNow (s : State) (c : CoreId) : State :=
  let k := getCore s c
  let x := getContext s k.ctx.context.val
  if !k.busy then s
  else if x.noMid || k.emBusy then excludeQueue s c
  else if preempting k then s
  else if x.saveMode then modCtx s c askYield
  else takeTrap s c (taskCause .preempt 0 false)

/-- PREEMPT_MID_TASK (10 R292). -/
def execPreemptMidTask (c : Fin 64) (s : State) : Host.Outcome State Fault Refusal := .next (preemptNow s (tile c))

/-- YIELD_TIMEOUT: no YIELD was taken within 100 µs (10 R297). -/
def execYieldTimeout (c : Fin 64) (s : State) : Host.Outcome State Fault Refusal :=
  let k := getCore s (tile c)
  .next (match k.busy, k.ctx.yieldPhase with
    | true, .asked =>
      takeTrap (modCtx s (tile c) fun t => { t with yieldPhase := .none }) (tile c) (taskCause .preempt 2 false)
    | true, .restoring _ true => takeTrap s (tile c) (taskCause .preempt 2 false)
    | _, _ => s)

/-- YIELD_SAVE_COMPLETE (10 R296). -/
def execYieldSaveComplete (c : Fin 64) (s : State) : Host.Outcome State Fault Refusal := .next (endYieldSave s (tile c))

/-! ### Self-tests (10 R301 to R304) -/

/-- SELF_TEST (10 R301). -/
def execSelfTest (c : Fin 64) (s : State) : Host.Outcome State Fault Refusal := .next (modCore s (tile c) startTest)

/-- SELF_TEST_END: failed names the sub-arrays that failed (10 R303). -/
def execSelfTestEnd (c : Fin 64) (failed : BitVec 4) (s : State) : Host.Outcome State Fault Refusal :=
  .next (endTest s (tile c) failed)

/-! ### Memory (07 R203; 08 R229, R234, R236; 09 R259) -/

/-- PAGE_WALK of the task on core c; a walk that faults leaves the tables as they were (07 R203; 04 R114). Data walks
are those of the tile cores, whose A-streams access memory. -/
def execPageWalk (c : CoreId) (va : VAddr) (kind : WalkKind) (s : State) : Host.Outcome State Fault Refusal :=
  .next (if (getCore s c).busy && (c.val < 64 || kind == .fetch) then
    match walkFor s (agentOf c) (getCore s c).ctx.asid va kind with
    | .ok (_, s) => chargeFills s c
    | .error _ => chargeFills (touchFault s (getCore s c).ctx.asid va kind) c
  else s)

/-- LOAD_RETURN of core c: the k-th piece of its outstanding loads is performed, and with the last piece its load
returns (08 R224, R234; DESIGN CHOICE 108 for the number). -/
def execLoadReturn (c : CoreId) (k : Nat) (s : State) : Host.Outcome State Fault Refusal := .next (performLoad s c k)

/-- STORE_PERFORMED of core c: the k-th piece of its writes in flight is performed, or, after those, one of the write at
the head of the store queue leaves it (08 R224, R229; DESIGN CHOICE 108 for the number). -/
def execStorePerformed (c : CoreId) (k : Nat) (s : State) : Host.Outcome State Fault Refusal :=
  .next (performStore s c k)

/-- ATOMIC_PERFORMED of the atomic at the head of the store queue of core c (08 R236). -/
def execAtomicPerformed (c : CoreId) (s : State) : Host.Outcome State Fault Refusal := .next (performAtomic fadd32 s c)

/-- The waiter of core c at a monitor is woken alone (09 R259). -/
def spuriousWake (s : State) (c : CoreId) : State :=
  match (getCore s c).ctx.aq.waita with
  | .registered _ d =>
    let s := modCtx s c fun t => clearWaits { t with aq := { t.aq with waita := .woken d } }
    { s with monitors := (s.monitors.map fun m => { m with waiters := m.waiters.filter (· != c) }).filter watched }
  | _ => s

/-- MONITOR_SPURIOUS_WAKE (09 R259). -/
def execMonitorSpuriousWake (c : CoreId) (s : State) : Host.Outcome State Fault Refusal := .next (spuriousWake s c)

/-! ### Results of V-, M- and P-words -/

/-- V_RESULT_LAND (06 R185). -/
def execVResultLand (c : Fin 64) (s : State) : Host.Outcome State Fault Refusal := .next (modCore s (tile c) landNextV)

/-- TILE_COMMAND_END (17 R467, R474). -/
def execTileCommandEnd (c : Fin 64) (s : State) : Host.Outcome State Fault Refusal := .next (finishTile s (tile c))

/-- P_WORD_LAND (18 R492). -/
def execPWordLand (c : Fin 64) (s : State) : Host.Outcome State Fault Refusal := .next (modCore s (tile c) landNextP)

/-! ### The trap queue (10 R287 to R291) -/

/-- TQACK_POP (10 R288). -/
def execTqackPop (s : State) : Host.Outcome State Fault Refusal := .next { s with trapq := s.trapq.drop 1 }

/-- An answer to the record of this number. -/
def answerReplay (seq : BitVec 32) (retry : Bool) (r : Replay) : Replay :=
  if r.record == some seq && r.answer.isNone then { r with answer := some retry } else r

/-- TQREPLY: the answer reaches the core or the engine that holds the record (10 R291). -/
def answerTrap (s : State) (agent : BitVec 7) (seq : BitVec 32) (retry : Bool) : State :=
  let a := agent.toNat
  let f (r : Option Replay) := r.map (answerReplay seq retry)
  if a < 64 then modCtx s (coreOf a) fun t => clearWaits { t with aq := { t.aq with replay := f t.aq.replay } }
  else
    { s with
      jobs := s.jobs.map fun j => if j.engine == a then { j with replay := f j.replay } else j
      samples := s.samples.map fun r => match r.engine with
        | some e => if 86 + e.val == a then { r with replay := f r.replay } else r
        | none => r }

/-- TQREPLY_RETRY (10 R291). -/
def execTqreplyRetry (agent : BitVec 7) (seq : BitVec 32) (s : State) : Host.Outcome State Fault Refusal :=
  .next (answerTrap s agent seq true)

/-- TQREPLY_FAIL (10 R291). -/
def execTqreplyFail (agent : BitVec 7) (seq : BitVec 32) (s : State) : Host.Outcome State Fault Refusal :=
  .next (answerTrap s agent seq false)

/-- LATCHMAP_CLEAR of core c (10 R288, R290). -/
def execLatchmapClear (c : Fin 64) (s : State) : Host.Outcome State Fault Refusal :=
  .next (modCore s (tile c) fun k => { k with latched := none, blocked := false })

/-! ### Staging slices and split counters (07 R199; 09 R268) -/

/-- The pin table without the regions of a slice. -/
def dropPins (i : Nat) (t : Ctx) : Ctx := { t with m := { t.m with pins := t.m.pins.filter fun p => p.slice != i } }

/-- A slice is released: it has no owner, its zero-fill starts, and every region of it leaves the pin tables of tasks,
resident or saved (07 R199). -/
def releaseSlice (s : State) (i : Fin 64) : State :=
  if (s.slices.get i).scrub then s
  else
    let saved (v : SavedTask) : SavedTask := { v with ctx := dropPins i.val v.ctx }
    { s with
      slices := s.slices.set i.val ⟨none, true⟩ i.isLt
      cores := s.cores.map fun k => { k with ctx := clearWaits (dropPins i.val k.ctx) }
      yields := s.yields.map saved
      disp := { s.disp with saved := s.disp.saved.map saved } }

/-- SLICE_RELEASE (07 R199). -/
def execSliceRelease (slice : Fin 64) (s : State) : Host.Outcome State Fault Refusal := .next (releaseSlice s slice)

/-- A piece of an access lies in slice i. -/
def inSlice (s : State) (i : Nat) (p : Part) : Bool := placeOf s p.pa == .staging i

/-- No access that was issued before the release of slice i is still to be performed there. -/
def sliceQuiet (s : State) (i : Nat) : Bool :=
  s.cores.toList.all fun k =>
    let q := k.ctx.aq
    q.loads.all (fun l => !l.parts.any (inSlice s i)) && q.inflight.all (fun r => !inSlice s i r.part)
      && q.stores.all (fun e => match e with
        | .write r => !inSlice s i r.part
        | .atomic a => !inSlice s i a.part
        | _ => true)
      && match k.ctx.m.cmd with
        | some t => t.landed || (t.reads.all (fun p => p.slice != i) && t.stage.all fun w =>
          placeOf s w.1 != .staging i)
        | none => true

/-- The zero-fill of a slice ends (07 R199). -/
def scrubSlice (s : State) (i : Fin 64) : State :=
  if !(s.slices.get i).scrub || !sliceQuiet s i.val then s
  else
    let base := stagingBase + i.val * 0x200000
    wakeAll { s with
      slices := s.slices.set i.val ⟨none, false⟩ i.isLt
      mem := memClear s.mem base (base + 0x200000) }

/-- SLICE_SCRUB_DONE (07 R199). -/
def execSliceScrubDone (slice : Fin 64) (s : State) : Host.Outcome State Fault Refusal := .next (scrubSlice s slice)

/-- A split counter becomes unbound: allowances are discarded and its waiters end with ABANDONED (09 R268). -/
def unbindCounter (s : State) (obj : Nat) : State :=
  match tfind s.counters obj with
  | none => s
  | some o =>
    let s := o.fifo.foldl (fun s w => endScWait s w.1 obj 2) s
    { s with
      counters := tdel s.counters obj
      cores := s.cores.map fun k => { k with scCache := k.scCache.filter (· != obj) } }

/-- SCUNBIND (09 R268). -/
def execScunbind (obj : Fin 4096) (s : State) : Host.Outcome State Fault Refusal := .next (unbindCounter s obj.val)

/-! ### Droop (01 R22 to R24) -/

/-- DROOP of island i: STRETCH of each task that runs there advances by the eighths of every stretched cycle. The cycles
themselves are those that the cores' words and stalls count (01 R23, R24). -/
def execDroop (i : IslandId) (eighths : List (Fin 4)) (s : State) : Host.Outcome State Fault Refusal :=
  let n := eighths.foldl (fun n e => n + e.val + 1) 0
  .next ((coresOf i).foldl (fun s c => if (getCore s c).busy then
    modCtx s c fun t => { t with csr := { t.csr with stretch := t.csr.stretch + BitVec.ofNat 64 n } } else s) s)

end Sys2Proof.Machine
end

