-- ==== Sys2Proof/Machine/System.lean ====
section
/-!
DEFINITION. The words of system mode: LAUNCH, INVR, RECLASS and HALTC, and the completion of an invalidation (14 R399 to
R402; 07 R209 to R211).
-/
namespace Sys2Proof.Machine

/-- A word that only system mode may run (14 R378). -/
def systemWord (f : State → Res State) : State → Host.Outcome State Fault Refusal :=
  runWord .s 4 fun s => if (curCtx s).system then f s else .fail .priv

/-- The core of the running word is the primary dispatch core (03 R93). -/
def isPrimary (s : State) : Bool := s.cur.val == 64 + bitOf s.disp.primary

/-! ### LAUNCH (14 R399) -/

/-- The relocation values of a launch block of 384 bytes (14 R399). -/
def blockRelocs (b : List Byte) : Vector VAddr 8 := Vector.ofFn fun j => ofBytes 72 ((b.drop (256 + 16 * j.val)).take 9)

/-- LAUNCH (14 R399). A number that was not handed over is a kernel of slot 0 that no packet waits for. -/
def execLaunch (d a b : Fin 64) (q : BitVec 6) :=
  systemWord fun s =>
    let t := curCtx s
    let pa := (xGet t a).toNat
    let n : BitVec 32 := (xGet t b).setWidth 32
    if !isPrimary s then .fail .access
    else if pa % 256 != 0 then .fail .misalign
    else if placeOf s pa != .local || placeOf s (pa + 383) != .local then .trap .access 0 (BitVec.ofNat 72 pa)
    else
      let block := physRead s pa 384
      let s := (blocksOf 64 pa 384).foldl (fun s l => (homeLine s l false).2) s
      let unknown : Handed :=
        { kernel := n, record := 0, rl := Vector.replicate 8 0, slot := 0, context := 0
          origin := .packet 0 ⟨0, 0, 0, 0, false⟩ 0, op := none, relocOk := true }
      let known := handedOf s n
      let (status, s) := enterKernel s n (ofBytes 2048 (block.take 256)) (blockRelocs block) q.toNat (known.getD unknown)
      let s := if known.isNone && status < 2 then addRef s 0 else s
      .ok (modCur s fun t => xSet t d (BitVec.ofNat 64 status))

/-! ### Invalidation (07 R209 to R211) -/

/-- What an invalidation names: an ASID, or all of them; a range of the virtual addresses; data, instructions or both.
-/
structure InvScope where
  asid : Option (BitVec 16)
  lo   : Nat
  hi   : Nat
  data : Bool
  text : Bool
  deriving DecidableEq, Repr

/-- The invalidation removes this translation (07 R209). -/
def InvScope.hitsTlb (v : InvScope) (e : TlbEntry) : Bool :=
  (if e.fetch then v.text else v.data) && e.va < v.hi && v.lo < e.va + 2 ^ e.bits
    && (match v.asid with
      | some a => e.asid == a || bit e.leaf.toNat 10
      | none => true)

/-- The invalidation removes this instruction line (07 R209). -/
def InvScope.hitsLine (v : InvScope) (l : ILine) : Bool :=
  v.text && l.tag * 64 < v.hi && v.lo < l.tag * 64 + 64 && (v.asid.isNone || v.asid == some l.asid)

/-- Every data translation that the invalidation removes, as physical address and bits of its page. -/
def removedPages (s : State) (v : InvScope) : List (Nat × Nat) :=
  let pick (l : List TlbEntry) := (l.filter fun e => v.hitsTlb e && !e.fetch).map fun e => (e.pa, e.bits)
  (s.cores.toList.flatMap (fun k => pick k.tlb) ++ s.islands.toList.flatMap (fun i => pick i.tlb)
    ++ s.engTlb.toList.flatMap pick).eraseDups

/-- Every holder removes what the invalidation names (07 R209). -/
def removeTranslations (s : State) (v : InvScope) : State :=
  let keep (l : List TlbEntry) := l.filter fun e => !v.hitsTlb e
  let lines (l : List ILine) := l.filter fun e => !v.hitsLine e
  { s with
    cores := s.cores.map fun k => { k with tlb := keep k.tlb, itlb := keep k.itlb, icache := lines k.icache }
    islands := s.islands.map fun i => { i with tlb := keep i.tlb, ibuf := lines i.ibuf }
    engTlb := s.engTlb.map keep }

/-- An access to one of these pages. -/
def usesPage (pages : List (Nat × Nat)) (p : Part) : Bool :=
  pages.any fun g => p.pa < g.1 + 2 ^ g.2 && g.1 < p.pa + p.len

/-- A line lies in one of these pages. -/
def lineOf (pages : List (Nat × Nat)) (l : Nat) : Bool := usesPage pages ⟨l * 64, 64, 0, 0, false⟩

/-- No access issued before the invalidation to a page of it is still on its way (07 R210). A running job or sampler
draw has no access in flight between two of its steps but the lines it asked of the peer and its writes to the peer, all
of which the invalidation waits for. -/
def invDone (s : State) (v : Inval) : Bool :=
  let old (id : Nat) (l : List Part) := id < v.stamp && l.any (usesPage v.pages)
  let quiet (io : EngIo) : Bool := io.ask.all (fun e => !lineOf v.pages e.2) && (io.out.all fun e => e.1 ≥ v.stamp)
    && io.atoms.all fun e => e.1 ≥ v.stamp
  (s.cores.toList.all fun k =>
    quiet k.jio && k.ctx.aq.ask.all (fun e => e.data.isSome || !lineOf v.pages e.line)
      && k.ctx.aq.loads.all (fun l => !old l.id l.parts) && k.ctx.aq.inflight.all (fun r => !old r.id [r.part])
      && k.ctx.aq.stores.all fun e => match e with
        | .write r => !old r.id [r.part]
        | .atomic a => !old a.id [a.part]
        | _ => true)
    && s.jobs.all (fun j => quiet j.io) && s.samples.all (fun r => quiet r.io) && s.jwrites.all fun j => quiet j.io

/-- Answers of the peer for lines of the pages that words, jobs and requests have not used yet are not used any more: the
access walks again (07 R211). -/
def dropAnswers (s : State) (pages : List (Nat × Nat)) : State :=
  let io (x : EngIo) : EngIo := { x with got := x.got.filter fun e => !lineOf pages e.1 }
  { s with
    cores := s.cores.map fun k => { k with
      jio := io k.jio
      ctx := { k.ctx with aq := { k.ctx.aq with ask := k.ctx.aq.ask.filter fun e => !lineOf pages e.line } } }
    jobs := s.jobs.map fun j => { j with io := io j.io }
    samples := s.samples.map fun r => { r with io := io r.io }
    jwrites := s.jwrites.map fun j => { j with io := io j.io } }

/-- The lines of the pages leave every L1, written back where they are dirty, and every island cache (07 R210); no task
is charged for it (04 R114). -/
def dropPageLines (s : State) (pages : List (Nat × Nat)) : State :=
  let hits (l : Line) := pages.any fun g => lineInPage g.1 g.2 l
  let s := (List.range 66).foldl (fun s c => flushLines s (coreOf c) hits) s
  { s with walkFills := 0, islands := s.islands.map fun i => { i with cache := i.cache.filter fun l => !hits l } }

/-- INVALIDATION_COMPLETE: the invalidation that a core waits for completes (07 R210). -/
def completeInvalidation (s : State) (c : CoreId) : State :=
  match s.invPend.find? fun v => v.core == c && !v.done with
  | none => s
  | some v =>
    if !invDone s v then s
    else
      let s := dropAnswers (dropPageLines s v.pages) v.pages
      modCtx { s with invPend := s.invPend.map fun o => if o.core == c then { o with done := true } else o } c clearWaits

/-- An invalidation by the core whose word runs begins (07 R209). -/
def issueInvalidation (s : State) (v : InvScope) (leaf : Option (Nat × Word)) : State :=
  let p : Inval := ⟨s.cur, s.stamp, removedPages s v, leaf, false⟩
  let s := removeTranslations s v
  { s with invPend := s.invPend.filter (fun o => o.core != s.cur) ++ [p] }

/-- The invalidation that the word at hand waits for. -/
def myInval (s : State) : Option Inval := s.invPend.find? fun v => v.core == s.cur
/-- It is taken off. -/
def endInval (s : State) : State := { s with invPend := s.invPend.filter fun v => v.core != s.cur }

/-- The word at hand goes on as k says once the invalidation that it has just issued completes; with no access of its
pages on its way that is at once, else the word waits (07 R210; DESIGN CHOICE 114). -/
def awaitInval (s : State) (k : State → Res State) : Res State :=
  let u := completeInvalidation s s.cur
  match myInval u with
  | some v => if v.done then k (endInval u) else .waitAs s
  | none => .waitAs s

/-- INVR (14 R400). -/
def execInvr (a b : Fin 64) (allAsids : Bool) (kind : BitVec 2) :=
  runWord .s 4 fun s =>
    let t := curCtx s
    let x := (xGet t b).toNat
    let lo := (xGet t a).toNat / 4096 * 4096
    let len := bits x 63 24 * 4096
    let r := bits x 23 16
    if kind = 0 then .fail .illegalWord
    else if !t.system then .fail .priv
    else match myInval s with
      | some v => if v.done then .ok (endInval s) else .wait
      | none =>
        if len = 0 then .ok s
        else if r ≥ 0xF0 then .fail .access
        else if lo + len > 2 ^ 64 then .trap .region 0 (vaddr r lo)
        else awaitInval (issueInvalidation s
          { asid := if allAsids then none else some (BitVec.ofNat 16 x), lo := r * 2 ^ 64 + lo
            hi := r * 2 ^ 64 + lo + len, data := kind.getLsbD 0, text := kind.getLsbD 1 } none) .ok

/-! ### RECLASS (14 R401) -/

/-- The data walk of RECLASS, which takes no fault: a valid leaf whatever its permissions and its class, none where it
reaches no valid leaf (DEDUCED 46). -/
def reclassWalk (s : State) (asid : BitVec 16) (va : VAddr) : Option (Nat × Nat × Nat) :=
  match walkRoot s asid va false fun pte level addr => leafSize s pte level addr false with
  | .leaf addr pte size => some (addr, pte, size)
  | .fault _ => none

/-- The leaf at addr becomes PRIVATE with OWNER 127 where it still stands as the walk found it; else the word starts
again from its walk. -/
def finishReclass (d : Fin 64) (addr pte : Nat) (s : State) : Res State :=
  if physNat s addr 8 = pte then
    .ok (chargeFills (modCur (rewriteLeaf s addr pte 127 0) fun t => xSet t d 0) s.cur)
  else .waitAs s

/-- RECLASS from its walk on: a status for X[d], or the invalidation of the page. -/
def startReclass (s : State) (d : Fin 64) (asid : BitVec 16) (va : VAddr) : Res State :=
  let answer (n : Nat) : Res State := .ok (modCur s fun t => xSet t d (BitVec.ofNat 64 n))
  match reclassWalk s asid va with
  | none => answer 2
  | some (addr, pte, size) =>
    if placeOf s (ptePa pte) != .local then answer 3
    else if leafClass pte != 1 then answer 1
    else
      let lo := va.toNat / 2 ^ size * 2 ^ size
      awaitInval (issueInvalidation s
        { asid := if bit pte 10 then none else some asid, lo := lo, hi := lo + 2 ^ size, data := true, text := false }
        (some (addr, BitVec.ofNat 64 pte))) (finishReclass d addr pte)

/-- RECLASS (14 R401). -/
def execReclass (d a b : Fin 64) :=
  runWord .s 4 fun s =>
    let t := curCtx s
    let x := (xGet t b).toNat
    let asid := BitVec.ofNat 16 x
    let va := vaddr (bits x 23 16) (xGet t a).toNat
    if !t.system then .fail .priv
    else match myInval s with
      | none => startReclass s d asid va
      | some v =>
        if !v.done then .wait
        else match v.leaf with
          | some (addr, old) => finishReclass d addr old.toNat (endInval s)
          | none => startReclass (endInval s) d asid va

/-! ### HALTC (14 R402) -/

/-- HALTC (14 R402). -/
def execHaltc (d a : Fin 64) (off : Bool) :=
  systemWord fun s =>
    let x := (xGet (curCtx s) a).toNat
    if !isPrimary s then .fail .access
    else if x ≥ 64 then .fail .access
    else
      let c := coreOf x
      let s := modCore s c fun k => { k with offline := off }
      .ok (modCur s fun t => xSet t d (BitVec.ofNat 64 (bitOf (getCore s c).busy)))

/-- INVALIDATION_COMPLETE (07 R210). -/
def execInvalidationComplete (c : CoreId) (s : State) : Host.Outcome State Fault Refusal :=
  .next (completeInvalidation s c)

end Sys2Proof.Machine
end

