-- ==== Sys2Proof/Machine/JobEvents.lean ====
section
/-!
DEFINITION. The events of jobs and of sample requests: start, launch jobs, completion, draws, and what the peer's
collective engine sends (02 R65 to R68; 05 R139; 08 R237; 12 R329; 15 R430 to R434).
-/
namespace Sys2Proof.Machine

/-! ### Launch jobs (05 R139; 15 R432) -/

/-- The walk of the dispatcher's read of a launch block: it sets A, and a page of another owner is classified. -/
def blockWalk (s : State) (asid : BitVec 16) (va : VAddr) : Option Nat × State :=
  let u := touchWalk s asid va .read
  match walkTables s asid va .read with
  | .fault _ => (none, u)
  | .leaf addr pte size =>
    let page := ptePa pte / 2 ^ size * 2 ^ size
    let s := markEntry u addr pte false
    let s := if leafClass pte == 0 && leafOwner pte != 127 then classify s (leafOwner pte) page size addr else s
    (some (page + va.toNat % 2 ^ size), s)

/-- n bytes of the launch block from va, which lie in one page, none where they cannot be read from card memory. -/
def blockPiece (s : State) (asid : BitVec 16) (va : VAddr) (n : Nat) : Option (List Byte) × State :=
  match blockWalk s asid va with
  | (some pa, s) =>
    if placeOf s pa != .local then (none, s)
    else (some (memReadN s.mem pa n), (blocksOf 64 pa n).foldl (fun s l => fillHome s l false) s)
  | (none, s) => (none, s)

/-- The 384 bytes of a launch block, and the state after, in which the transactions of the read are still to be
charged. -/
def readBlock (s : State) (asid : BitVec 16) (va : VAddr) : Option (List Byte) × State :=
  let first := min 384 (4096 - offset va % 4096)
  let s := { s with walkFills := 0 }
  if offset va + 384 > 2 ^ 64 then (none, s)
  else match blockPiece s asid va first with
    | (none, s) => (none, s)
    | (some a, s) =>
      if first = 384 then (some a, s)
      else match blockPiece s asid (vaddr (region va) (offset va + first)) (384 - first) with
        | (none, s) => (none, s)
        | (some b, s) => (some (a ++ b), s)

/-- A launch job is handled as a LAUNCH packet is, with the submitting task's ASID (05 R139). -/
def startLaunch (s : State) (j : Job) : State :=
  let n := cardField j.card 25 1
  let slot := getSlot s n
  if !jobFenceDone s j then s
  else
    let (block, s) := readBlock s j.asid (vaddr (cardField j.card 3 1) (cardField j.card 8 8))
    let (io, s) := countFills j.io s
    let j := { j with io := io }
    match block with
    | none => setJob s (finishJob j stFaulted)
    | some b =>
      if !slot.resident || slot.owner != (getContext s j.context.val).func then setJob s (finishJob j stNotResident)
      else
        let rl := blockRelocs b
        let (num, s) := handOver (addRef s n)
          { kernel := 0, record := recSet (ofBytes 2048 (b.take 256)) 6 2 j.asid.toNat, rl := rl, slot := Fin.ofNat 64 n
            context := j.context, origin := .job j.num, op := none, relocOk := rl.toList.all fun v => region v ≤ 0xEF }
        setJob s { j with phase := .entered num }

/-! ### Start and completion -/

/-- ENGINE_JOB_START: a job whose orderings are met is taken by an engine, and one that an engine holds goes on. -/
def jobStep (s : State) (n : Nat) : State :=
  match findJob s n with
  | none => s
  | some j => match j.phase with
    | .waiting =>
      if !jobMayStart s j then s
      else if cardField j.card 0 1 = 4 then startLaunch s j
      else takeJob s j
    | .running => runJob s j
    | .stalled => resumeJob s j
    | _ => s

/-- ENGINE_JOB_START (08 R237; 15 R430 to R434). -/
def execEngineJobStart (n : Nat) (s : State) : Host.Outcome State Fault Refusal := .next (jobStep s n)

/-- JOB_COMPLETION (15 R434). -/
def execJobCompletion (n : Nat) (s : State) : Host.Outcome State Fault Refusal :=
  .next ((findJob s n).elim s (completeJob s))

/-- SAMPLER_DRAW (12 R329). -/
def execSamplerDraw (n : Nat) (s : State) : Host.Outcome State Fault Refusal := .next (sampleStep s n)

/-! ### The peer's collective engine (02 R65 to R68) -/

/-- The collective job of a tag that an engine of this card holds. -/
def heldColl (s : State) (tag : BitVec 16) : Option Job :=
  s.jobs.find? fun j => cardField j.card 0 1 == 3 && collTag j == tag && (j.phase == .running || j.phase == .stalled)

/-- A held collective job goes on, unless it waits for the answer to a page fault. -/
def nudgeColl (s : State) (tag : BitVec 16) : State :=
  match heldColl s tag with
  | some j => if j.phase == .running then runJob s j else s
  | none => s

/-- COLLECTIVE_MATCH: the peer holds a job with this tag (02 R65). -/
def execCollectiveMatch (ctag : BitVec 16) (op fmt count : Nat) (s : State) : Host.Outcome State Fault Refusal :=
  let known := s.links.peerColl.any fun p => p.ctag == ctag
  .next (if !(s.links.paired && s.links.up) || known then s
    else nudgeColl { s with links := { s.links with peerColl := s.links.peerColl ++ [⟨ctag, op, fmt, count⟩] } } ctag)

/-- COLLECTIVE_CHUNK: a chunk of the peer's source arrives (02 R68). -/
def execCollectiveChunk (ctag : BitVec 16) (chunk : Nat) (data : List Byte) (s : State) :
    Host.Outcome State Fault Refusal :=
  .next (match s.links.paired && s.links.up, heldColl s ctag with
    | true, some _ => nudgeColl { s with links := { s.links with chunks := s.links.chunks ++ [(ctag, chunk, data)] } } ctag
    | _, _ => s)

/-- COLLECTIVE_PEER_CANCELLED (02 R66). -/
def execCollectivePeerCancelled (ctag : BitVec 16) (s : State) : Host.Outcome State Fault Refusal :=
  .next (match heldColl s ctag with
    | some j => setJob (forgetColl s ctag) (finishJob { j with replay := none } 7)
    | none => forgetColl s ctag)

end Sys2Proof.Machine
end

