-- ==== Sys2Proof/Machine/LinkEvents.lean ====
section
/-!
DEFINITION. The events of the host link and of the bridge: the host's accesses to card memory, a request to the host that
times out, the training of the bridge, the accesses of the two cards to each other's memory, and doorbell packets
(02 R39 to R64; 03 R71).
-/
namespace Sys2Proof.Machine

/-! ### The host's accesses to card memory (02 R42, R49) -/

/-- n bytes from pa on all lie in this card's memory. -/
def allLocal (s : State) (pa n : Nat) : Bool := placeOf s pa == .local && placeOf s (pa + n - 1) == .local

/-- The lines of n bytes from pa are read or written at their home slices. -/
def touchLines (s : State) (pa n : Nat) (write : Bool) : State :=
  (blocksOf 64 pa n).foldl (fun s l => (homeLine s l write).2) s

/-- n bytes from an offset of BAR 2 lie within its size (02 R42). -/
def inBar2 (s : State) (off n : Nat) : Bool := off + n ≤ 2 ^ s.links.bar2

/-- HOST_MEMORY_WRITE through BAR 2 (02 R42, R49); one past the end is dropped whole (DESIGN CHOICE 95). The event is
the performance of the write: one with the Relaxed Ordering attribute may come after the packet that followed it (02
R48). -/
def execHostMemoryWrite (off : Nat) (data : List Byte) (_relaxed : Bool) (s : State) : Host.Outcome State Fault Refusal :=
  let pa := cardBase s + off
  .next (if data = [] || !inBar2 s off data.length then s
    else physWrite (touchLines s pa data.length true) pa data)

/-- HOST_MEMORY_READ through BAR 2 (02 R42, R49); one past the end fails (DESIGN CHOICE 95). -/
def execHostMemoryRead (off n : Nat) (s : State) : Host.Outcome State Fault Refusal :=
  let pa := cardBase s + off
  .next (if !inBar2 s off n then { s with sent := .readFailed :: s.sent }
    else
      let (b, s) := looseBytes (touchLines s pa n false) pa (physRead s pa n)
      { s with sent := .readData b :: s.sent })

/-- What a PCI Express AtomicOp leaves at a location of n bytes (02 R39). -/
def hostAtomicResult (op : HostAtomicOp) (n old operand compare : Nat) : Nat :=
  match op with
  | .fetchAdd => (old + operand) % 2 ^ (8 * n)
  | .swap => operand
  | .cas => if old = compare then operand else old

/-- HOST_ATOMIC to card memory (02 R39); a misaligned one, and one past the end, fails (DESIGN CHOICE 95). -/
def execHostAtomic (op : HostAtomicOp) (off : Nat) (wide : Bool) (operand compare : Word) (s : State) :
    Host.Outcome State Fault Refusal :=
  let n := if wide then 8 else 4
  let pa := cardBase s + off
  .next (if off % n != 0 || !inBar2 s off n then { s with sent := .readFailed :: s.sent }
    else
      let (old, s) := looseNat (touchLines s pa n true) pa n
      let new := hostAtomicResult op n old (operand.toNat % 2 ^ (8 * n)) (compare.toNat % 2 ^ (8 * n))
      let s := physWrite s pa (natToBytes n new)
      { s with sent := .atomicOld (BitVec.ofNat 64 old) :: s.sent })

/-! ### Accesses that fail after they have issued (02 R51, R61) -/

/-- The loads of a task for which gone holds are withdrawn, with the queue entries and registers that they reserved. -/
def withdrawLoads (gone : LoadRec → Bool) (t : Ctx) : Ctx :=
  (t.aq.loads.filter gone).foldl (fun t l =>
    let t := { t with aq := { t.aq with loads := t.aq.loads.filter fun o => o.id != l.id } }
    match l.dest with
    | .ql q => modQ t fun x => { x with ql := vmod x.ql q.val fun e => dropSlot e l.id }
    | .qap => modQ t fun x => { x with qap := dropSlot x.qap l.id }
    | .qas => modQ t fun x => { x with qas := dropSlot x.qas l.id }
    | .areg d => { t with aBusy := t.aBusy.erase d }
    | .drop => t) t

/-- The entry of the store queue is an atomic for which gone holds. -/
def goneAtomic (gone : AtomicRec → Bool) (e : SqEntry) : Bool := match e with
  | .atomic a => gone a
  | _ => false

/-- The atomics of a task for which gone holds are withdrawn. -/
def withdrawAtomics (gone : AtomicRec → Bool) (t : Ctx) : Ctx :=
  let out := t.aq.stores.filter (goneAtomic gone)
  { t with
    aq := { t.aq with stores := t.aq.stores.filter fun e => !goneAtomic gone e }
    aBusy := out.foldl (fun l e => match e with
      | .atomic a => match a.dest with
        | some d => l.erase d
        | none => l
      | _ => l) t.aBusy }

/-- The first piece of a list that lies at a place. -/
def pieceAt (s : State) (place : Place) (l : List Part) : Option Nat :=
  (l.find? fun p => placeOf s p.pa == place).map fun p => p.pa

/-- A release at SYSTEM scope of core c waits, or may wait: a REL in its store queue, a word of the A-stream that waits,
a pending trigger, or the task's end (02 R51; 08 R231). -/
def systemRelease (t : Ctx) : Bool :=
  t.aq.stores.any (fun e => match e with
    | .rel _ sc => sc == 4
    | _ => false) || (getStream t .a).waiting || t.trigger.isSome || allStreams.all fun st => !live t st

/-- The zero-length read after the writes of core c to host memory fails: the writes are performed, and the release that
waited for it faults (02 R51). -/
def failRelease (s : State) (c : CoreId) : State :=
  let t := (getCore s c).ctx
  match t.aq.inflight.find? fun r => placeOf s r.part.pa == .host with
  | none => s
  | some r =>
    if !systemRelease t then s
    else
      let out := t.aq.inflight.filter fun o => placeOf s o.part.pa == .host
      let s := out.foldl (fun s o => landPart s c o) s
      takeTrap (drainStores (modCtx s c fun t => { t with
        trigger := none
        aq := { t.aq with
          inflight := t.aq.inflight.filter fun o => !out.contains o
          stores := t.aq.stores.filter fun e => match e with
            | .rel _ sc => sc != 4
            | _ => true } }) c) c (lateAccess r.part.pa 0)

/-- HOST_COMPLETION_TIMEOUT of a request to the host (01 R38; 02 R51). A draw whose read of the host fails has failed
for good (12 R329). -/
def hostTimeout (s : State) (r : Requester) : State :=
  match r with
  | .mailbox => { s with pkg := { s.pkg with umop := s.pkg.umop.map fun o => { o with write := none, result := 5 } } }
  | .load c k =>
    match (getCore s c).ctx.aq.loads[k]? with
    | some l => match pieceAt s .host l.parts with
      | some pa => takeTrap (modCtx s c (withdrawLoads fun o => o.id == l.id)) c (lateAccess pa 0)
      | none => s
    | none => s
  | .atomic c =>
    match (getCore s c).ctx.aq.stores with
    | .atomic a :: _ => match pieceAt s .host [a.part] with
      | some pa => takeTrap (modCtx s c (withdrawAtomics fun o => o.id == a.id)) c (lateAccess pa 2)
      | none => s
    | _ => s
  | .job n =>
    match findJob s n with
    | some j =>
      if j.phase == .running && jobHost s j then setJob s (finishJob j 2) else s
    | none => s
  | .release c => failRelease s c
  | .sample n =>
    match s.samples.find? fun r => r.num == n with
    | some r => if r.engine.isSome then setSample s { r with bad := true } else s
    | none => s

/-- HOST_COMPLETION_TIMEOUT (02 R51). -/
def execHostCompletionTimeout (r : Requester) (s : State) : Host.Outcome State Fault Refusal := .next (hostTimeout s r)

/-! ### Training (02 R53, R57, R61, R62) -/

/-- A physical address after 512 GiB of memory have moved from one base to another. -/
def moveAddr (from_ to_ pa : Nat) : Nat := if from_ ≤ pa && pa < from_ + 0x008000000000 then pa - from_ + to_ else pa

/-- The accesses of a task that are on their way, at the addresses to which memory has moved. -/
def moveAccesses (move : Nat → Nat) (t : Ctx) : Ctx :=
  let part (p : Part) : Part := { p with pa := move p.pa }
  let rec_ (r : StoreRec) : StoreRec := { r with part := part r.part }
  { t with aq := { t.aq with
    loads := t.aq.loads.map fun l => { l with parts := l.parts.map part }
    inflight := t.aq.inflight.map rec_
    stores := t.aq.stores.map fun e => match e with
      | .write r => .write (rec_ r)
      | .atomic a => .atomic { a with part := part a.part }
      | e => e
    waita := match t.aq.waita with
      | .registered l d => .registered (move (64 * l) / 64) d
      | w => w } }

/-- The card's memory moves to the range of its new card number, with what waits for its locations. Every L1 is written
back first, and what caches, translations and directories hold of the old addresses goes. -/
def renumber (s : State) (card : Bool) : State :=
  if card == (cardOf s == 1) then s
  else
    let s := (List.range 66).foldl (fun s c => flushLines s (coreOf c) fun _ => true) s
    let from_ := cardBase s
    let to_ := bitOf card * 0x008000000000
    let moved := memSlice s.mem from_ (from_ + 0x008000000000)
    let move := moveAddr from_ to_
    { s with
      mem := memPlace (memClear s.mem from_ (from_ + 0x008000000000)) to_ moved
      walkFills := 0
      cores := s.cores.map fun k => { k with tlb := [], itlb := [], ctx := moveAccesses move k.ctx }
      monitors := s.monitors.map fun m => { m with line := move (64 * m.line) / 64 }
      loose := s.loose.map fun e => { e with pa := move e.pa }
      islands := s.islands.map fun i => { i with cache := [], tlb := [] }
      engTlb := s.engTlb.map fun _ => []
      owned := []
      home := s.home.map fun _ => [] }

/-- BRIDGE_TRAINED: the first training pairs the cards, the lower serial number being card 0 (02 R53, R62). -/
def execBridgeTrained (wide : Bool) (peerSerial : Nat) (s : State) : Host.Outcome State Fault Refusal :=
  let card := decide (peerSerial < s.pkg.serial.toNat)
  let s := if s.links.up then s else renumber s card
  .next { s with links := { s.links with
    up := true, trained := true, paired := true, wide := wide, card := if s.links.up then s.links.card else card } }

/-- BRIDGE_RETRAIN: UP falls while the bridge trains again (02 R61, R62). -/
def execBridgeRetrain (s : State) : Host.Outcome State Fault Refusal :=
  .next { s with links := { s.links with trained := false } }

/-- FLIT_REPLAY (02 R57, R62). -/
def execFlitReplay (s : State) : Host.Outcome State Fault Refusal :=
  .next { s with links := { s.links with
    replays := if s.links.replays = 0xFFFF then s.links.replays else s.links.replays + 1 } }

/-- The writes among store-queue entries. -/
def queuedWrites (l : List SqEntry) : List StoreRec := l.filterMap fun e => match e with
  | .write r => some r
  | _ => none

/-- A piece of a write lies in the peer's memory. -/
def awayWrite (s : State) (r : StoreRec) : Bool := placeOf s r.part.pa == .peer

/-- The task on core c loses what waits for the peer: loads and atomics go, and unacknowledged writes are lost
(02 R61). -/
def loseAway (s : State) (t : Ctx) : Ctx :=
  let away (p : Part) := placeOf s p.pa == .peer
  let lost := (t.aq.inflight ++ queuedWrites t.aq.stores).filter (awayWrite s)
  let t := withdrawAtomics (fun a => away a.part) (withdrawLoads (fun l => l.parts.any away) t)
  clearWaits { t with aq := { t.aq with
    inflight := t.aq.inflight.filter fun r => !awayWrite s r
    stores := t.aq.stores.filter fun e => match e with
      | .write r => !awayWrite s r
      | _ => true
    lost := t.aq.lost ++ lost
    waita := match t.aq.waita with
      | .asked .. => .none
      | w => w
    ask := []
    now := [] } }

/-- The first address of the peer's memory that a pending load, atomic or WAITA of the task names, with its kind. -/
def pendingAway (s : State) (t : Ctx) : Option (Nat × Nat) :=
  match t.aq.loads.findSome? fun l => pieceAt s .peer l.parts with
  | some pa => some (pa, 0)
  | none => match t.aq.stores.findSome? fun e => match e with
      | .atomic a => pieceAt s .peer [a.part]
      | _ => none with
    | some pa => some (pa, 2)
    | none => match t.aq.waita with
      | .asked _ pa _ => some (pa, 0)
      | _ => t.aq.ask.head?.map fun e => (e.line * 64, 0)

/-- A release that the store queue of core c holds, or a pending trigger, waits for a lost write. -/
def releaseLost (s : State) (c : CoreId) : Option Nat :=
  let t := (getCore s c).ctx
  let held := t.aq.stores.findSome? fun e => match e with
    | .rel _ sc => lostWrite s c sc
    | _ => none
  (held.or (lostAtTrigger s c)).map fun r => r.part.pa

/-- What a core loses when the bridge goes down; a pending access, or a release that waits for a lost write, faults its
task with ACCESS (02 R61, R64). -/
def coreLoses (s : State) (c : CoreId) : State :=
  let k := getCore s c
  let s' := modCore s c fun k =>
    { k with
      ctx := { loseAway s k.ctx with csr := { k.ctx.csr with dbLost := k.ctx.csr.dbLost || !k.dbOut.isEmpty } }
      dbOut := [], dbSent := [] }
  if !k.busy then s'
  else match pendingAway s k.ctx with
    | some (pa, d) => takeTrap (drainStores s' c) c (lateAccess pa d)
    | none => match releaseLost s' c with
      | some pa =>
        takeTrap (drainStores (modCtx s' c fun t => { t with
          trigger := none
          aq := { t.aq with stores := t.aq.stores.filter fun e => match e with
            | .rel _ sc => (lostWrite s' c sc).isNone
            | _ => true } }) c) c (lateAccess pa 1)
      | none => drainStores s' c

/-- A job when the bridge goes down: a pending collective one completes, and no engine waits for the peer any more
(02 R61); what another job has asked of the peer it asks again, and that access fails (DESIGN CHOICE 122). -/
def jobLoses (j : Job) : Job :=
  let j := { j with io := { j.io with ask := [], out := [] } }
  let pending := j.phase == .waiting || j.phase == .running || j.phase == .stalled
  if cardField j.card 0 1 == 3 && pending then finishJob { j with replay := none } 8 else j

/-- Accesses of an engine or of a core's journal when the bridge goes down: nothing waits for the peer any more. -/
def ioLoses (io : EngIo) : EngIo := { io with ask := [], out := [], atoms := [], old := none }

/-- BRIDGE_DOWN (02 R61). -/
def bridgeDown (s : State) : State :=
  if !(s.links.paired && s.links.up) then s
  else
    let s := (List.range 66).foldl (fun s c => coreLoses s (coreOf c)) s
    advanceWrites { s with
      cores := s.cores.map fun k => { k with jio := EngIo.none }
      links := { s.links with up := false, trained := false, peerColl := [], chunks := [] }
      monitors := (s.monitors.map fun m => { m with peers := [] }).filter watched
      jobs := s.jobs.map jobLoses
      samples := s.samples.map fun r => { r with io := ioLoses r.io }
      jwrites := s.jwrites.map fun j => { j with io := ioLoses j.io } }

/-- BRIDGE_DOWN (02 R61). -/
def execBridgeDown (s : State) : Host.Outcome State Fault Refusal := .next (bridgeDown s)

/-! ### Accesses of the peer to this card (02 R54, R56, R59, R60) -/

/-- A message of the peer for n bytes at pa is answered, charged to no task of this card (04 R114). One that is not for
this card's memory is answered with an error (DESIGN CHOICE 96). -/
def servePeer (s : State) (pa n : Nat) (f : State → State) : State :=
  if n = 0 || !s.links.paired || !allLocal s pa n then { s with sent := .bridgeError :: s.sent }
  else f { freePage s pa with walkFills := 0 }

/-- The compare and the registration of a WAITA of the peer, one step at the home slice; the peer is told unless its
core now waits (09 R257, R258). -/
def serveWaita (s : State) (m : BridgeAtomic) (n : Nat) : State :=
  let (v, s) := looseNat s m.pa n
  let tell (status : Nat) (s : State) : State := { s with sent := .bridgeStatus m.core status :: s.sent }
  if v ≠ m.compare.toNat % 2 ^ (8 * n) then tell 0 s
  else match addWaiter s (m.pa / 64) fun e => { e with peers := (e.peers.filter (· != m.core)) ++ [m.core] } with
    | none => tell 2 s
    | some s => s

/-- BRIDGE_LOAD_REQUEST (02 R54, R56). -/
def execBridgeLoadRequest (pa n : Nat) (s : State) : Host.Outcome State Fault Refusal :=
  .next (servePeer s pa n fun s =>
    let s := touchLines s pa n false
    let (b, s) := looseBytes s pa (physRead s pa n)
    { s with sent := .bridgeReply b :: s.sent })

/-- BRIDGE_STORE: performed in the order of arrival, and acknowledged (02 R59, R60). -/
def execBridgeStore (_core : Fin 64) (pa : Nat) (data : List Byte) (signal : Bool) (s : State) :
    Host.Outcome State Fault Refusal :=
  .next (servePeer s pa data.length fun s =>
    let s := physWrite (touchLines s pa data.length true) pa data
    let s := if signal then (blocksOf 64 pa data.length).foldl wakeLine s else s
    { s with sent := .bridgeAck :: s.sent })

/-- A core of the peer waits no more in the monitor entry of a line of this card, which goes once it is empty (09 R259).
-/
def withdrawPeer (s : State) (m : BridgeAtomic) : State :=
  { s with monitors := (s.monitors.map fun e =>
    if e.line == m.pa / 64 then { e with peers := e.peers.filter (· != m.core) } else e).filter watched }

/-- BRIDGE_ATOMIC_REQUEST (02 R54, R59; 15 R421), or a WAITA of the peer or its withdrawal (09 R257 to R259; DESIGN
CHOICE 105 for the messages). -/
def execBridgeAtomicRequest (m : BridgeAtomic) (s : State) : Host.Outcome State Fault Refusal :=
  let n := if m.wide then 8 else 4
  .next (if m.watch && m.withdraw then withdrawPeer s m else servePeer s m.pa n fun s =>
    if m.watch then serveWaita (touchLines s m.pa n false) m n
    else
      let (old, s) := looseNat (touchLines s m.pa n true) m.pa n
      let s := physWrite s m.pa (natToBytes n (atomicResult fadd32 m.cas m.op n old m.operand m.compare))
      let s := if m.signal then wakeLine s (m.pa / 64) else s
      { s with sent := .bridgeOld (BitVec.ofNat 64 old) :: s.sent })

/-! ### Answers of the peer (02 R58 to R60) -/

/-- The line that request k asked for is answered. -/
def takeReply (k : Nat) (data : BitVec 512) (ask : List PeerAsk) : List PeerAsk :=
  ask.map fun e => if e.num == k && e.data.isNone then { e with data := some data } else e

/-- The answer to request k reaches the load or the word of the A-stream that asked; that to a WAITA holds its status in
byte 0 (09 R257; DESIGN CHOICE 105). -/
def replyTask (k : Nat) (data : List Byte) (t : Ctx) : Ctx :=
  let line : BitVec 512 := ofBytes 512 data
  clearWaits { t with aq := { t.aq with
    ask := takeReply k line t.aq.ask
    waita := match t.aq.waita with
      | .asked n pa d => if n == k then .answered d (data.headD 0).toNat else .asked n pa d
      | w => w
    loads := t.aq.loads.map fun l => { l with ask := takeReply k line l.ask } } }

/-- BRIDGE_LOAD_REPLY to request k; the requests of engines name the core of their task (02 R58, R59). -/
def execBridgeLoadReply (c : CoreId) (k : Nat) (data : List Byte) (s : State) : Host.Outcome State Fault Refusal :=
  let s := modCtx s c (replyTask k data)
  let s := modCore s c fun u => { u with jio := answerIo u.jio k data }
  .next (advanceWrites { s with
    jobs := s.jobs.map fun j => { j with io := answerIo j.io k data }
    samples := s.samples.map fun r => { r with io := answerIo r.io k data }
    jwrites := s.jwrites.map fun j => { j with io := answerIo j.io k data } })

/-- A job's unacknowledged write n is performed, and its bytes leave PEND (09 R254). -/
def ackJob (n : Nat) (s : State) (j : Job) : State :=
  let mine := j.io.out.filter fun e => e.1 == n
  if mine = [] then s
  else
    let (spill, s) := landBytes s j.bar (outBytes mine)
    setJob s { j with
      io := { j.io with out := j.io.out.filter fun e => e.1 != n }
      status := if spill && j.status = 0 then 3 else j.status }

/-- BRIDGE_STORE_ACK of write n: the piece that left the store queue with that number is performed (02 R60). -/
def storeAck (s : State) (c : CoreId) (n : Nat) : State :=
  let s' := modCtx s c fun t => clearWaits { t with aq := { t.aq with
    inflight := t.aq.inflight.filter fun r => !(r.left == n && awayWrite s r) } }
  let s' := s'.jobs.foldl (ackJob n) s'
  drainStores (advanceWrites { s' with
    samples := s'.samples.map fun r => { r with io := ackIo r.io n }
    jwrites := s'.jwrites.map fun j => { j with io := ackIo j.io n } }) c

/-- BRIDGE_STORE_ACK (02 R60). -/
def execBridgeStoreAck (c : CoreId) (n : Nat) (s : State) : Host.Outcome State Fault Refusal := .next (storeAck s c n)

/-- The oldest atomic that a journal has sent for core c and the peer has not answered (12 R337). -/
def oldestAtom (s : State) (c : CoreId) : Option Nat :=
  ((getCore s c).jio.atoms ++ (s.samples.filter fun r => r.core == c).flatMap (fun r => r.io.atoms)
    ++ (s.jwrites.filter fun j => j.core == c).flatMap fun j => j.io.atoms).foldl
    (fun m e => some (min e.1 (m.getD e.1))) none

/-- The peer answers the oldest atomic that a journal has sent for core c. -/
def answerJournal (s : State) (c : CoreId) (old : Nat) : State :=
  match oldestAtom s c with
  | none => s
  | some n =>
    let s := modCore s c fun k => { k with jio := answerAtom k.jio n old, ctx := clearWaits k.ctx }
    advanceWrites { s with
      samples := s.samples.map fun r => { r with io := answerAtom r.io n old }
      jwrites := s.jwrites.map fun j => { j with io := answerAtom j.io n old } }

/-- BRIDGE_ATOMIC_REPLY to the atomic at the head of the store queue; copies of its line that the issuing core and its
island have taken since it was sent go (02 R59; 08 R236). While the store queue has sent none it answers the oldest
atomic of a journal (12 R337; DESIGN CHOICE 129). -/
def execBridgeAtomicReply (c : CoreId) (old : Word) (s : State) : Host.Outcome State Fault Refusal :=
  .next (match (getCore s c).ctx.aq.stores with
    | .atomic a :: _ =>
      if a.sent then
        let s := dropShared s c (a.part.pa / 64)
        let s := modIsland s (islandOf c) fun i => { i with fills := i.fills + 1 }
        finishAtomic s c a old.toNat
      else answerJournal s c old.toNat
    | _ => answerJournal s c old.toNat)

/-! ### Doorbell packets (02 R63, R64; 03 R71) -/

/-- A write of the core to the peer's memory has not been acknowledged. -/
def awayWrites (s : State) (c : CoreId) : Bool :=
  let q := (getCore s c).ctx.aq
  (q.inflight ++ queuedWrites q.stores).any (awayWrite s)

/-- DOORBELL_FORWARD of the oldest packet that core c has latched (02 R64). -/
def forwardDoorbell (s : State) (c : CoreId) : State :=
  match (getCore s c).dbOut with
  | [] => s
  | p :: r =>
    if !(s.links.paired && s.links.trained) || awayWrites s c then s
    else
      let s := modCore s c fun k => { k with dbOut := r, dbSent := k.dbSent ++ [p] }
      { s with sent := .packet c p :: s.sent }

/-- DOORBELL_FORWARD (02 R64). -/
def execDoorbellForward (core : Fin 64) (s : State) : Host.Outcome State Fault Refusal :=
  .next (forwardDoorbell s (tile core))

/-- FORWARDED_PACKET_ACKNOWLEDGED (02 R61, R64). -/
def execForwardedPacketAcknowledged (core : Fin 64) (s : State) : Host.Outcome State Fault Refusal :=
  .next (modCore s (tile core) fun k => { k with dbSent := k.dbSent.drop 1 })

/-- FORWARDED_COMMAND_PACKET (02 R63; 03 R71). -/
def execForwardedCommandPacket (packet : BitVec 512) (s : State) : Host.Outcome State Fault Refusal :=
  let x : ContextId := Fin.ofNat 1024 (pkt packet 105 96)
  .next (if contextLive (getContext s x.val) then latchPacket s x packet else misroute s 0)

end Sys2Proof.Machine
end

