-- ==== Sys2Proof/Machine/PackageEvents.lean ====
section
/-!
DEFINITION. The events of the package: reset, boot, thermal trip, the update mailbox, attestation, and the halt and the
take-over of the dispatch cores (01 R17 to R38; 03 R77, R91 to R93; 05 R156).
-/
namespace Sys2Proof.Machine

/-! ### Reset (01 R19, R36, R38) -/

/-- The connector capability in watts. -/
def capability (c : Connector) : Nat :=
  match c with
  | .absent => 0
  | .w150 => 150
  | .w300 => 300
  | .w450 => 450
  | .w600 => 600

/-- A full reset with a connector capability: all but the always-on domain and the outside world starts again. What the
card's memory then holds is left open (DESIGN CHOICE 2: as after power-on), and the BMC alert line falls (DESIGN CHOICE
94). -/
def fullReset (s : State) (watts : Nat) : State :=
  { State.reset with
    pkg := { Package.reset with
      connector := watts, bmcLimit := s.pkg.bmcLimit, cause := if watts = 0 then 5 else 0, flash := s.pkg.flash
      umaddr := s.pkg.umaddr, umresult := s.pkg.umresult, umdone := s.pkg.umdone, umop := s.pkg.umop }
    islands := State.reset.islands.map fun i => { i with powered := watts != 0 }
    hostMem := s.hostMem, sent := s.sent, inputs := s.inputs, schedule := s.schedule, rotor := s.rotor
    freeCtr := s.freeCtr }

/-- RESET (01 R19). -/
def execReset (conn : Connector) (s : State) : Host.Outcome State Fault Refusal := .next (fullReset s (capability conn))

/-- The full reset of a REBOOT, which leaves the host port as it is: BAR settings, HOSTBASE and the functions' error
registers (01 R38). -/
def rebootReset (s : State) : State :=
  let t := fullReset s s.pkg.connector
  { t with links := { t.links with
    hostBase := s.links.hostBase, bar2 := s.links.bar2, misroute := s.links.misroute, misroutes := s.links.misroutes } }

/-! ### The thermal contract and the part record (01 R25 to R30) -/

/-- n bytes of a flash record from byte i, as a number. -/
def flashField (r : List Byte) (i n : Nat) : Nat := bytesToNat ((r.drop i).take n)

/-- The contract that a record gives, none when it breaks a rule (01 R25, R26). Bytes beyond the final signature are
accepted (DESIGN CHOICE 93). -/
def readContract (r : List Byte) : Option Contract :=
  let f := flashField r
  let cert := f 14 2
  let ok := r.length ≤ 20480 && 32 + cert + 7856 ≤ r.length && f 0 4 == 0x54434B51 && f 4 2 == 1 && f 6 2 == 0
    && 180 ≤ f 8 2 && f 8 2 ≤ 420 && f 8 2 ≤ f 10 2 && 4 * f 10 2 ≤ 5 * f 8 2 && 60 ≤ f 12 2 && f 12 2 ≤ 95
    && 7888 ≤ cert && cert ≤ 12592 && Config.verifies 4 r
  if ok then some ⟨f 8 2, f 10 2, f 12 2⟩ else none

/-- The record of a number that is in force. -/
def flashRecord (s : State) (n : Nat) : List Byte := (vget s.pkg.flash n).current

/-! ### Boot (01 R31 to R36) -/

/-- Boot stops with a cause; nothing of a task runs yet. -/
def stopBoot (s : State) (cause : BitVec 4) : State :=
  haltDevice { s with pkg := { s.pkg with cdi := [], keys := [], measures := [] } } cause

/-- A trim of the part record, which is limited to 15 mV either way (01 R29). -/
def limitTrim (v : Int) : Int := max (-15) (min 15 v)

/-- Layer 0 takes the part record's fences, serial number, voltage trims and training seeds, and the thermal contract
(01 R26, R29). -/
def takeRecords (s : State) : State :=
  let part := flashRecord s 5
  let (serial, fences) := Config.partFields part
  let masks : Vector (BitVec 4) 64 := Vector.ofFn fun c => BitVec.ofNat 4 (fences c.val)
  let contract := readContract (flashRecord s 4)
  { s with
    cores := Vector.ofFn fun c =>
      if c.val < 64 then { s.cores.get c with fence := vget masks c.val } else s.cores.get c
    pkg := { s.pkg with
      partFence := masks, serial := BitVec.ofNat 64 serial, seeds := Config.partSeeds part
      trims := Vector.ofFn fun i => Vector.ofFn fun op => limitTrim (Config.partTrim part i.val op.val)
      contract := contract.getD ⟨180, 180, 95⟩
      contractDefault := contract.isNone } }

/-- What layer 0 does before it starts layer 1: identity, part record, contract. -/
def layerZero (s : State) : State :=
  match Config.deviceSecret (flashRecord s 6) with
  | none => stopBoot s 2
  | some secret =>
    let m := Config.measure Config.bootRom
    let cdi := Config.hmac secret m
    let s := { s with pkg := { s.pkg with cdi := cdi, keys := [Config.layerKey 0 cdi], measures := [m] } }
    if flashRecord s 5 = [] || !Config.verifies 5 (flashRecord s 5) then stopBoot s 3 else takeRecords s

/-- The output of an island's regulator at an operating point, in mV (01 R29; 04 R96). -/
def regulator (s : State) (i : IslandId) (op : BitVec 4) : Int := voltage op + vget (vget s.pkg.trims i.val) op.toNat

/-- The cores on which layer n runs begin it, at address 0: Brass layer 1, Brass and Bronze layer 2, which takes Brass over
from layer 1, and the firmware contexts of the tile cores layer 3 (01 R31; 03 R94; DESIGN CHOICE 16 for the address). -/
def beginLayer (s : State) (n : Nat) : State :=
  { s with cores := Vector.ofFn fun c =>
      let k := s.cores.get c
      if (n = 1 ∧ c.val = 64) ∨ (n = 2 ∧ 64 ≤ c.val) then
        { k with busy := true, stop := none, ctx := Ctx.systemMode }
      else if n = 3 ∧ c.val < 64 then { k with fw := { k.fw with running := true, ctx := Ctx.systemMode } }
      else k }

/-- A REBOOT ends when layer 0 starts (01 R38). -/
def endReboot (s : State) : State :=
  match s.pkg.umop with
  | some o => if o.reboot then
      { s with pkg := { s.pkg with umop := none, umresult := o.result, umdone := s.pkg.umdone + 1 } } else s
  | none => s

/-- The layer below measures, verifies and starts layer n (01 R31, R32). A layer image that is missing stops boot with
SIGNATURE (DESIGN CHOICE 92). -/
def startLayer (s : State) (n : Nat) : State :=
  let image := flashRecord s n
  if image = [] || !Config.verifies n image then stopBoot s 1
  else
    let m := Config.measure image
    let cdi := Config.hmac s.pkg.cdi m
    let s := { s with pkg := { s.pkg with
      layer := BitVec.ofNat 3 n, cdi := cdi, keys := s.pkg.keys ++ [Config.layerKey n cdi]
      measures := s.pkg.measures ++ [m], bootDone := n == 3 } }
    let s := beginLayer s n
    if n = 3 then { s with disp := { s.disp with standbyOk := true } } else s

/-- BOOT_LAYER_START of the next layer (01 R31). -/
def bootStep (s : State) : State :=
  if s.pkg.cause != 0 || s.pkg.bootDone then s
  else
    let s := if s.pkg.layer = 0 then layerZero (endReboot s) else s
    if s.pkg.cause != 0 then s else startLayer s (s.pkg.layer.toNat + 1)

/-- BOOT_LAYER_START (01 R31). -/
def execBootLayerStart (s : State) : Host.Outcome State Fault Refusal := .next (bootStep s)

/-- ATTESTATION_REQUEST: layer 2 answers (01 R33; 03 R77). -/
def execAttestationRequest (nonce : List Byte) (s : State) : Host.Outcome State Fault Refusal :=
  .next (if s.pkg.layer.toNat < 2 || s.pkg.cause != 0 then s
    else
      let slots := s.slots.toList.map fun x => (x.wbase.toNat, x.wsize.toNat)
      { s with sent := .evidence (Config.evidence s.pkg.keys s.pkg.measures slots nonce) :: s.sent })

/-! ### Heat and power (01 R20, R28) -/

/-- THERMAL_TRIP (01 R28, R36). -/
def execThermalTrip (_i : IslandId) (s : State) : Host.Outcome State Fault Refusal :=
  let s := haltDevice s 6
  .next { s with
    islands := s.islands.map fun i => { i with powered := false }
    pkg := { s.pkg with bmcAlert := true }
    sent := .bmcAlert :: s.sent }

/-- BMC_POWER_LIMIT: the limit counts from the next boundary on (01 R20). -/
def execBmcPowerLimit (watts : Nat) (s : State) : Host.Outcome State Fault Refusal :=
  .next { s with pkg := { s.pkg with bmcLimit := some (max 180 (min 420 watts)) } }

/-! ### The update mailbox (01 R37, R38) -/

/-- The longest record of a number that WRITE takes. -/
def recordMax (record : Nat) : Nat := if record = 4 then 20480 else if record = 5 then 65536 else 16777216

/-- The record passes the checks that the boot ROM will make of it. -/
def recordValid (record : Nat) (data : List Byte) : Bool :=
  if record = 4 then (readContract data).isSome else Config.verifies record data

/-- The operation that a WRITE starts. -/
def writeOp (s : State) (record length : Nat) : MailOp :=
  if s.pkg.umaddr.toNat % 64 != 0 || record = 0 || record > 5 || length = 0 then ⟨none, 1, false⟩
  else if length > recordMax record then ⟨none, 3, false⟩
  else
    let data := memReadN s.hostMem s.pkg.umaddr.toNat length
    if recordValid record data then ⟨some (record, data), 0, false⟩ else ⟨none, 2, false⟩

/-- An operation starts unless one runs. -/
def startOp (s : State) (o : MailOp) : State :=
  if s.pkg.umop.isSome then s else { s with pkg := { s.pkg with umop := some o } }

/-- A request of the always-on domain to host memory, with the physical function's requester ID (01 R38; 02 R41). -/
def mailRequest (s : State) (write : Bool) (n : Nat) : State :=
  { s with sent := .hostRequest 0 write s.pkg.umaddr.toNat n :: s.sent }

/-- MAILBOX_WRITE (01 R38). -/
def execMailboxWrite (record : BitVec 4) (length : BitVec 32) (s : State) : Host.Outcome State Fault Refusal :=
  let o := writeOp s record.toNat length.toNat
  .next (startOp (if s.pkg.umop.isNone && (o.write.isSome || o.result = 2) then mailRequest s false length.toNat
    else s) o)

/-- MAILBOX_READ: the length of the record in force, and the record when it fits, go to the host buffer (01 R38). -/
def mailboxRead (s : State) (record length : Nat) : State :=
  if s.pkg.umop.isSome then s
  else if s.pkg.umaddr.toNat % 64 != 0 || record = 0 || record > 6 || length < 8 then startOp s ⟨none, 1, false⟩
  else
    let r := flashRecord s record
    let fits := r.length ≤ length - 8
    let out := natToBytes 8 r.length ++ if fits then r else []
    let s := mailRequest s true out.length
    startOp { s with hostMem := memWriteN s.hostMem s.pkg.umaddr.toNat out } ⟨none, if fits then 0 else 3, false⟩

/-- MAILBOX_READ (01 R38). -/
def execMailboxRead (record : BitVec 4) (length : BitVec 32) (s : State) : Host.Outcome State Fault Refusal :=
  .next (mailboxRead s record.toNat length.toNat)

/-- MAILBOX_REBOOT; hot tells that a junction sensor reads 100 °C or more (01 R37, R38). Where the connector shows 0 W
and layer 0 does not start, the operation ends with the reset (DESIGN CHOICE 101). -/
def execMailboxReboot (hot : Bool) (s : State) : Host.Outcome State Fault Refusal :=
  .next (if s.pkg.umop.isSome then s
    else if hot || s.pkg.umaddr.toNat % 64 != 0 then startOp s ⟨none, 1, false⟩
    else
      let s := rebootReset (startOp s ⟨none, 0, true⟩)
      if s.pkg.cause = 0 then s else endReboot s)

/-- MAILBOX_OPERATION_END; flashOk tells that the flash took a WRITE and read it back (01 R38). -/
def execMailboxOperationEnd (flashOk : Bool) (s : State) : Host.Outcome State Fault Refusal :=
  .next (match s.pkg.umop with
    | none => s
    | some o =>
      if o.reboot then s else
      let done (result : BitVec 4) (flash : Vector FlashRecord 16) : State :=
        { s with pkg := { s.pkg with umop := none, umresult := result, umdone := s.pkg.umdone + 1, flash := flash } }
      match o.write, flashOk with
      | some (n, data), true => done o.result (vmod s.pkg.flash n fun r => ⟨data, r.current⟩)
      | some _, false => done 4 s.pkg.flash
      | none, _ => done o.result s.pkg.flash)

/-! ### The dispatch cores (03 R93; 05 R156) -/

/-- No command of a context is pending. -/
def nothingPending (s : State) : Bool := s.contexts.all fun e => e.2.pendingCmds == [] && e.2.fences == []

/-- DISPATCH_HALT: the primary has trapped with no standby. Every context is reset, and once its commands have completed
the device halts; flash tells that the fault lay in a flash read (03 R93). -/
def execDispatchHalt (flash : Bool) (s : State) : Host.Outcome State Fault Refusal :=
  .next (if !primaryDown s || s.disp.standbyOk || s.disp.takeover || s.pkg.cause != 0 then s
    else
      let s := resetContexts s fun _ => true
      if nothingPending s then haltDevice s (if flash then 4 else 7) else s)

/-- The new primary reports ready: it has loaded the last checkpoint and replayed the journal after it, completed unmaps
and taken the records handed to it again (05 R156). -/
def endTakeover (s : State) : State :=
  let s := replayJournal s
  let d := s.disp
  let s := { s with disp := { d with
    primary := !d.primary, takeover := false, standbyOk := false
    takeovers := if d.takeovers = 0xFFFF then d.takeovers else d.takeovers + 1 } }
  firmwareWork (writeHeldDone (firmwareStep s))

/-- TAKEOVER: it begins when the primary has trapped and the standby is ready, and ends when the standby has become the
primary (05 R156). -/
def execTakeover (s : State) : Host.Outcome State Fault Refusal :=
  .next (if s.disp.takeover then endTakeover s
    else if primaryDown s && s.disp.standbyOk && s.pkg.cause = 0 then
      { s with disp := { s.disp with takeover := true } }
    else s)

end Sys2Proof.Machine
end

