-- ==== Sys2Proof/Machine/Registers.lean ====
section
/-!
DEFINITION. Writes of the registers of BAR 0 by the host and by the dispatch cores (00 R8, R9; 02 R42, R43; 07 R524 and
the map of each register). UMCTL and the command windows are written by events of their own.
-/
namespace Sys2Proof.Machine

/-- A write of a 64-bit register: the bits that it covers, and their values. -/
structure RegWrite where
  mask  : Nat
  value : Nat

/-- The register's value once the covered bits are replaced. -/
def RegWrite.merge (w : RegWrite) (old : Nat) : Nat := old - (old &&& w.mask) + w.value

/-- The write covers a bit. -/
def RegWrite.covers (w : RegWrite) (i : Nat) : Bool := bit w.mask i

/-- The write of size bytes at byte i of a register, with the low bytes of v. -/
def regWriteAt (i size : Nat) (v : Word) : RegWrite :=
  ⟨(2 ^ (8 * size) - 1) * 2 ^ (8 * i), v.toNat % 2 ^ (8 * size) * 2 ^ (8 * i)⟩

/-- v held within lo and hi. -/
def clampTo (lo hi v : Nat) : Nat := max lo (min hi v)

/-! ### The governor's registers (04 R104 to R107) -/

/-- GCTL: the values wait for the next boundary. -/
def writeGctl (s : State) (w : RegWrite) : State :=
  let g := s.gov
  let (gint, plimit, hubres, memres) := g.newCtl.getD (g.gint, g.plimit, g.hubres, g.memres)
  let v := w.merge (gint + plimit * 2 ^ 10 + hubres.toNat * 2 ^ 19 + memres.toNat * 2 ^ 27)
  { s with gov := { g with newCtl := some (clampTo 50 1000 (bits v 9 0), clampTo 180 420 (bits v 18 10),
      BitVec.ofNat 8 (bits v 26 19), BitVec.ofNat 8 (bits v 34 27)) } }

/-- The first word of an island's block: the values wait for the next boundary. -/
def writeIsland (s : State) (i : IslandId) (w : RegWrite) : State :=
  modIsland s i fun il =>
    let (weight, gfix, opmin, opmax) := il.newCfg.getD (il.weight, il.gfix, il.opmin, il.opmax)
    let v := w.merge (weight.toNat + gfix.toNat * 2 ^ 8 + opmin.toNat * 2 ^ 16 + opmax.toNat * 2 ^ 20)
    let lo := bits v 19 16
    { il with newCfg := some (BitVec.ofNat 8 (bits v 7 0), BitVec.ofNat 8 (bits v 15 8), BitVec.ofNat 4 lo,
        BitVec.ofNat 4 (max lo (bits v 23 20))) }

/-- CAL of an island. -/
def writeCal (s : State) (i : IslandId) (w : RegWrite) : State :=
  modIsland s i fun il => { il with cal := BitVec.ofNat 32 (clampTo 0x8000 0x20000 (bits (w.merge il.cal.toNat) 31 0)) }

/-! ### The dispatcher's registers (05 R147 to R152) -/

/-- The journal entries, type and operand, of a change of a hardware queue's entry: MAP, UNMAP-END, UNMAP-BEGIN, FREEZE,
UNFREEZE and TICKETS, whose operand is the new count (05 R152, R153; DESIGN CHOICE 99). -/
def hwqEntries (h n : HwQueue) : List (Nat × Nat) :=
  let one (b : Bool) (type arg : Nat) : List (Nat × Nat) := if b then [(type, arg)] else []
  one (n.mapped && (!h.mapped || n.swq != h.swq)) 2 0 ++ one (!h.unmapping && n.unmapping) 3 0
    ++ one (h.mapped && !n.mapped) 4 0 ++ one (!h.frozen && n.frozen) 5 0 ++ one (h.frozen && !n.frozen) 6 0
    ++ one (h.tickets != n.tickets) 7 n.tickets.toNat

/-- The entry of a hardware queue: the firmware journals each change before it makes it (05 R147, R153). -/
def writeHwq (s : State) (q : Nat) (w : RegWrite) : State :=
  let h := vget s.disp.hwqs q
  let v := w.merge (h.swq.toNat + bitOf h.mapped * 2 ^ 12 + bitOf h.frozen * 2 ^ 13 + bitOf h.unmapping * 2 ^ 14
    + h.tickets.toNat * 2 ^ 16)
  let n : HwQueue :=
    { swq := BitVec.ofNat 12 (bits v 11 0), mapped := bit v 12, frozen := bit v 13, unmapping := bit v 14
      tickets := BitVec.ofNat 16 (bits v 31 16) }
  let s := (hwqEntries h n).foldl (fun s e => journalArg s e.1 q n.swq.toNat 0 e.2) s
  modHwq s q fun _ => n

/-- DSEED: a write of SEED sets the generator; one of 0 stores 1. -/
def writeDseed (s : State) (w : RegWrite) : State :=
  if bits w.mask 31 0 = 0 then s
  else
    let v : BitVec 32 := BitVec.ofNat 32 (max 1 (bits (w.merge s.disp.seed.toNat) 31 0))
    { s with disp := { s.disp with seed := v, xstate := v } }

/-- JBASE. -/
def writeJbase (s : State) (w : RegWrite) : State :=
  let v := w.merge (s.disp.log2n.toNat + s.disp.jbase.toNat * 4096)
  let n := clampTo 10 20 (bits v 4 0)
  { s with disp := { s.disp with
    log2n := BitVec.ofNat 5 n, jbase := BitVec.ofNat 36 (bits v 47 12), jwrite := s.disp.jwrite % 2 ^ n } }

/-- Pending-kick bits from software queue first on: ones clear. -/
def clearKicks (s : State) (first : Nat) (w : RegWrite) : State :=
  { s with disp := { s.disp with
    kicks := s.disp.kicks.filter fun k => !(first ≤ k && k < first + 64 && bit w.value (k - first)) } }

/-! ### Cores and slices -/

/-- EMBASE of a core. The dispatch complex copies the area's part into the task's slot and then clears BUSY (10 R298).
-/
def writeEmbase (s : State) (c : CoreId) (w : RegWrite) : State :=
  let s := if bit w.value 0 then clearEmergency s (Fin.ofNat 64 c.val) else s
  modCore s c fun k =>
    let v := w.merge (bitOf k.emValid * 2 + k.emBase.toNat * 2 ^ 23)
    { k with emValid := bit v 1, emBase := BitVec.ofNat 25 (bits v 47 23) }

/-- LATCHMAP: ones free the latched records (10 R288, R290). -/
def clearLatches (s : State) (w : RegWrite) : State :=
  (List.range 64).foldl (fun s c => if bit w.value c then
    modCore s (coreOf c) fun k => { k with latched := none, blocked := false } else s) s

/-- TQREPLY (10 R288, R291). -/
def writeTqreply (s : State) (w : RegWrite) : State :=
  answerTrap s (BitVec.ofNat 7 (bits w.value 6 0)) (BitVec.ofNat 32 (bits w.value 63 32)) (!bit w.value 7)

/-- PREQ (10 R288, R292). -/
def writePreq (s : State) (w : RegWrite) : State :=
  let c := coreOf (bits w.value 5 0)
  if bit w.value 8 then preemptNow s c else excludeQueue s c

/-! ### Contexts, slots and save entries (03 R73 to R77; 10 R293) -/

/-- The first word of a context's entry. -/
def writeContext0 (s : State) (x : ContextId) (w : RegWrite) : State :=
  let c := getContext s x.val
  let v : Word := BitVec.ofNat 64 (w.merge (bitOf c.enable + c.func.toNat * 4 + c.asid.toNat * 2 ^ 16))
  if bit v.toNat 0 && w.covers 0 then contextEnable s x v
  else if w.covers 0 then contextDisable s x v
  else if c.enable then s
  else modContext s x.val fun c =>
    { c with func := BitVec.ofNat 4 (bits v.toNat 5 2), asid := BitVec.ofNat 16 (bits v.toNat 31 16) }

/-- The second word: the completion ring, which an enabled context keeps. -/
def writeContext1 (s : State) (x : ContextId) (w : RegWrite) : State :=
  modContext s x.val fun c =>
    if c.enable then c
    else
      let v := w.merge (c.log2size.toNat + c.cbase.toNat * 4096)
      { c with log2size := BitVec.ofNat 4 (bits v 3 0), cbase := BitVec.ofNat 36 (bits v 47 12) }

/-- The third word: CCONS and VECTOR. -/
def writeContext2 (s : State) (x : ContextId) (w : RegWrite) : State :=
  let c := getContext s x.val
  let v := w.merge (c.ccons.toNat * 2 ^ 16 + c.vector.toNat * 2 ^ 32)
  let s := modContext s x.val fun c => { c with vector := BitVec.ofNat 11 (bits v 42 32) }
  if bits w.mask 31 16 = 0 then s else writeCcons s x (BitVec.ofNat 16 (bits v 31 16))

/-- Word n of a slot's entry. -/
def writeSlot (s : State) (i : Fin 64) (n : Nat) (w : RegWrite) : State :=
  let x := s.slots.get i
  if n = 0 then
    let v := w.merge (bitOf x.resident + x.owner.toNat * 2 + x.wsize.toNat * 2 ^ 32)
    if !bit v 0 then slotClear s i (BitVec.ofNat 64 v)
    else if x.resident then s
    else modSlot s i.val fun x =>
      { x with resident := true, owner := BitVec.ofNat 4 (bits v 4 1), wsize := BitVec.ofNat 20 (bits v 51 32) }
  else if x.resident then s
  else modSlot s i.val fun x =>
    if n = 1 then { x with template := BitVec.ofNat 40 (bits (w.merge (x.template.toNat * 2 ^ 8)) 47 8) }
    else if n = 2 then { x with textBase := BitVec.ofNat 43 (bits (w.merge (x.textBase.toNat * 2 ^ 21)) 63 21) }
    else { x with wbase := BitVec.ofNat 27 (bits (w.merge (x.wbase.toNat * 2 ^ 21)) 47 21) }

/-- A task of the context is saved. -/
def hasSaved (s : State) (x : Nat) : Bool := s.disp.saved.any fun v => v.ctx.context.val == x

/-- Word n of a save entry, which stays as it is while a task of the context is saved. -/
def writeSave (s : State) (x n : Nat) (w : RegWrite) : State :=
  if hasSaved s x then s
  else modContext s x fun c =>
    if n = 0 then
      let v := w.merge (bitOf c.saveMode + bitOf c.noMid * 2)
      { c with saveMode := bit v 0, noMid := bit v 1 }
    else if n = 1 then { c with saveOff := BitVec.ofNat 52 (bits (w.merge (c.saveOff.toNat * 4096)) 63 12) }
    else if n = 2 then
      let v := w.merge (c.saveRegion.toNat + c.saveSlots.toNat * 2 ^ 16)
      { c with saveRegion := BitVec.ofNat 8 (bits v 7 0), saveSlots := BitVec.ofNat 32 (bits v 47 16) }
    else c

/-! ### The map of the physical function's BAR 0 -/

/-- Who writes a register. -/
inductive Port
  | host | dispatch
  deriving DecidableEq, Repr

/-- Registers that the host alone writes, at the byte offset r of their 64 bits. -/
def writeHostReg (s : State) (r : Nat) (w : RegWrite) : State :=
  if r = 0x148 then { s with pkg := { s.pkg with umaddr := BitVec.ofNat 64 (w.merge s.pkg.umaddr.toNat) } }
  else if r = 0x200 then
    { s with links := { s.links with
      replays := BitVec.ofNat 16 (bits (w.merge (s.links.replays.toNat * 2 ^ 16)) 31 16) } }
  else if r = 0x210 then
    { s with links := { s.links with
      hostBase := BitVec.ofNat 52 (bits (w.merge (s.links.hostBase.toNat * 4096)) 63 12) } }
  else if r = 0x220 then (if bit w.value 0 then clearMisroute s 0 else s)
  else if r = 0x300 then { s with fclassOp := BitVec.ofNat 12 (bits (w.merge (s.fclassOp.toNat * 16)) 15 4) }
  else if r = 0x400 then writeGctl s w
  else if r = 0x408 then
    { s with gov := { s.gov with newEcost := some (BitVec.ofNat 64 (w.merge (s.gov.newEcost.getD s.gov.ecost).toNat)) } }
  else if r = 0x510 then writeJbase s w
  else if 0x800 ≤ r && r < 0xA00 && r % 32 = 0 then writeIsland s (Fin.ofNat 16 ((r - 0x800) / 32)) w
  else if 0x100000 ≤ r && r < 0x108000 then
    let x : ContextId := Fin.ofNat 1024 ((r - 0x100000) / 32)
    match r % 32 / 8 with
    | 0 => writeContext0 s x w
    | 1 => writeContext1 s x w
    | 2 => writeContext2 s x w
    | _ => s
  else if 0x110000 ≤ r && r < 0x110800 then writeSlot s (Fin.ofNat 64 ((r - 0x110000) / 32)) (r % 32 / 8) w
  else if 0x120000 ≤ r && r < 0x128000 then writeSave s ((r - 0x120000) / 32) (r % 32 / 8) w
  else s

/-- Registers that the dispatch cores alone write. -/
def writeDispatchReg (s : State) (r : Nat) (w : RegWrite) : State :=
  if r = 0x500 then
    (if w.covers 0 then { s with disp := { s.disp with drawMode := bit w.value 0 } } else s)
  else if r = 0x508 then writeDseed s w
  else if 0x600 ≤ r && r < 0x800 then writeHwq s ((r - 0x600) / 8) w
  else if r = 0xB08 then (if bit w.value 0 then { s with trapq := s.trapq.drop 1 } else s)
  else if r = 0xB10 then writeTqreply s w
  else if r = 0xB18 then clearLatches s w
  else if r = 0xB20 then writePreq s w
  else if 0xE00 ≤ r && r < 0x1000 then writeEmbase s (coreOf ((r - 0xE00) / 8)) w
  else if 0x1000 ≤ r && r < 0x1200 then clearKicks s (8 * (r - 0x1000)) w
  else s

/-- Registers that both write. -/
def writeSharedReg (s : State) (r : Nat) (w : RegWrite) : State :=
  if r = 0xA00 then { s with astBase := BitVec.ofNat 27 (bits (w.merge (s.astBase.toNat * 2 ^ 21)) 47 21) }
  else if r = 0xA10 then unbindCounter s (bits w.value 11 0)
  else if 0x800 ≤ r && r < 0xA00 && r % 32 = 0x10 then writeCal s (Fin.ofNat 16 ((r - 0x800) / 32)) w
  else if 0x2000 ≤ r && r < 0x2200 then (if bit w.value 18 then releaseSlice s (Fin.ofNat 64 ((r - 0x2000) / 8)) else s)
  else s

/-- A write to the register of BAR 0 of the physical function whose 64 bits stand at offset r. A device that has halted
answers the mailbox alone (01 R36). -/
def writeRegister (s : State) (port : Port) (r : Nat) (w : RegWrite) : State :=
  if s.pkg.cause != 0 && r != 0x148 then s
  else
    let s := writeSharedReg s r w
    match port with
    | .host => writeHostReg s r w
    | .dispatch => writeDispatchReg s r w

/-- REGISTER_WRITE: size bytes at an offset of BAR 0, aligned to their size (00 R8; 02 R42, R43; 07 R524). -/
def execRegisterWrite (w : Writer) (off size : Nat) (v : Word) (s : State) : Host.Outcome State Fault Refusal :=
  let r := off / 8 * 8
  let b := regWriteAt (off % 8) size v
  .next (if !(size == 1 || size == 2 || size == 4 || size == 8) || off % size != 0 then s
    else match w with
      | .dispatch => writeRegister s .dispatch r b
      | .host f =>
        if f.val = 0 then writeRegister s .host r b
        else if r = 0 && bit b.value 0 && s.pkg.cause = 0 then clearMisroute s f
        else s)

end Sys2Proof.Machine
end

