-- ==== Sys2Proof/Machine/SumProduct.lean ====
section
/-!
DEFINITION. The words of the P-stream (18): the trees of sum-product nodes, flat sums, normalising and converting, the
moves between the banks and the queues, and tokens and fences.
-/
namespace Sys2Proof.Machine

/-! ### Banks and values (18 R489, R490, R495) -/

/-- The byte of entry ref of a plane (18 R489). -/
def entryOff (plane : Nat) (ref : BitVec 13) : Nat :=
  32768 * plane + 2048 * bits ref.toNat 12 9 + 4 * bits ref.toNat 8 0

/-- The reference of the entry i after ref in its bank. -/
def entryPlus (ref : BitVec 13) (i : Nat) : BitVec 13 :=
  BitVec.ofNat 13 (bits ref.toNat 12 9 * 512 + (bits ref.toNat 8 0 + i) % 512)

/-- The bits of an entry. -/
def entryBits (k : Core) (plane : Nat) (ref : BitVec 13) : Nat := bytesToNat (bankRead k (entryOff plane ref) 4)

/-- The value of an entry in a value format: PS32, FP32 or BF16 (18 R490). -/
def pValue (fmt w : Nat) : FVal :=
  if fmt = 14 then decodePs32 w else decodeFloat (floatFmt fmt) (w % 2 ^ fmtBits fmt)

/-- RoundP: flags come from PS32 results only (18 R495). -/
def roundP (fmt : Nat) (v : FVal) : Nat × Flags :=
  if fmt = 14 then ps32Result v else ((roundFloat (floatFmt fmt) 0 false v).1, 0)

/-- A result with the flags set so far. -/
structure PVal where
  val   : FVal
  raw   : Nat
  flags : Flags

/-- An exact value rounded to a format, with flags set before. -/
def PVal.of (fmt : Nat) (flags : Flags) (v : FVal) : PVal :=
  let (r, f) := roundP fmt v
  ⟨pValue fmt r, r, flags ||| f⟩

/-- Max of two exact products: −0 counts below +0, a NaN wins (18 R495). -/
def pMax (a b : FVal) : FVal :=
  if isNaN a || isNaN b then .nan false
  else match fCompare a b with
    | 0 => if signOf a then b else a
    | c => if c > 0 then a else b

/-- The exact sum of values (18 R496). -/
def pSum : List FVal → FVal
  | [] => fZero
  | a :: r => r.foldl (fAdd false) a

/-! ### The shape of a tree (13 R363; 18 R494, R495) -/

/-- A tree of nodes: leaf j, or internal node i with its left and right child, both numbered in preorder. -/
inductive PTree
  | leaf (j : Nat)
  | node (i : Nat) (left right : PTree)

/-- What a walk has read: the tree, the bits left, and the internal nodes and leaves so far. -/
structure PWalk where
  tree : PTree
  left : Nat
  i    : Nat
  l    : Nat

/-- The tree whose preorder walk begins at the bit below left, with i internal nodes and l leaves before it; fuel bounds
its depth. -/
def walkTree (shape : BitVec 15) : (fuel left i l : Nat) → PWalk
  | 0, left, i, l => ⟨.leaf l, left, i, l⟩
  | fuel + 1, left, i, l =>
    if shape.getLsbD (left - 1) then
      let a := walkTree shape fuel (left - 1) (i + 1) l
      let b := walkTree shape fuel a.left a.i a.l
      ⟨.node i a.tree b.tree, b.left, b.i, b.l⟩
    else ⟨.leaf l, left - 1, i, l + 1⟩

/-- The tree of a word with its internal nodes and leaves. -/
def treeOf (f : PFields) : PWalk := walkTree f.shape 15 15 0 0

/-- Internal node i is a product. -/
def isProduct (f : PFields) (i : Nat) : Bool := f.ops.getLsbD i

/-- The first of the two weights of internal node i, as its place after the weight base (18 R495). -/
def weightPlace (f : PFields) (i : Nat) : Nat := 2 * weightedNodes f.ops i

/-- The weights of internal node i. -/
def nodeWeights (k : Core) (f : PFields) (i : Nat) : FVal × FVal :=
  let w (j : Nat) := pValue k.ctx.pmode.toNat (entryBits k 0 (entryPlus f.wb (weightPlace f i + j)))
  (w 0, w 1)

/-- NodeValue of 18 R495; max tells PMAXP. -/
def nodeValue (k : Core) (f : PFields) (max : Bool) : PTree → PVal
  | .leaf j =>
    let raw := entryBits k 0 (f.leaf j)
    ⟨pValue k.ctx.pmode.toNat raw, raw, 0⟩
  | .node i l r =>
    let a := nodeValue k f max l
    let b := nodeValue k f max r
    let (w0, w1) := nodeWeights k f i
    PVal.of k.ctx.pmode.toNat (a.flags ||| b.flags)
      (if isProduct f i then fMul a.val b.val
       else if max then pMax (fMul w0 a.val) (fMul w1 b.val) else fAdd false (fMul w0 a.val) (fMul w1 b.val))

/-- What each leaf receives on the downward pass, by leaf: g of its parents and the flags of the roundings (18 R497). -/
def leafShares (k : Core) (f : PFields) : PTree → PVal → List (Nat × PVal)
  | .leaf j, g => [(j, g)]
  | .node i l r, g =>
    let fmt := k.ctx.pmode.toNat
    let share (x : FVal) := PVal.of fmt g.flags (fMul g.val x)
    let (x, y) := if isProduct f i then ((nodeValue k f false r).val, (nodeValue k f false l).val)
      else nodeWeights k f i
    leafShares k f l (share x) ++ leafShares k f r (share y)

/-! ### What a P-word reads and does (18 R491 to R493) -/

/-- A P-word's entries read and written, as plane and reference, the sum-product nodes that it counts, and its results.
-/
structure PEffect where
  reads  : List (Nat × BitVec 13)
  nodes  : Nat
  writes : List (Nat × BitVec 13 × Nat)
  flags  : Flags

/-- An entry is one that an issued P-word has still to write. -/
def entryPending (t : Ctx) (e : Nat × BitVec 13) : Bool :=
  let a := entryOff e.1 e.2
  t.ppend.any fun p => p.banks.any fun w => w.1 < a + 4 && a < w.1 + w.2.length

/-- A result of a P-word that has written nothing yet. -/
def pPending (t : Ctx) : Pending := Pending.none 0 (issueTag t .p 0)

/-- An issued P-word joins those that have not landed. -/
def issueP (t : Ctx) (p : Pending) : Ctx := { t with ppend := t.ppend ++ [p] }

/-- The word waits for the entries it reads (18 R491). -/
def waitEntries (t : Ctx) (l : List (Nat × BitVec 13)) : Res Unit := guardWait (l.all fun e => !entryPending t e)

/-- A P-word over entries: its checks, its waits, its nodes and its results. -/
def pWord (check : Bool) (f : Core → PEffect) : State → Host.Outcome State Fault Refusal :=
  runWord .p 24 fun s =>
    let k := curCore s
    let e := f k
    (guardTrap check .operandRange).andThen fun _ => (waitEntries k.ctx e.reads).mapTo fun _ =>
      charge (modCur s fun t => issueP t { pPending t with
        banks := e.writes.map fun w => (entryOff w.1 w.2.1, natToBytes 4 w.2.2),
        flags := e.flags }) s.cur costNode e.nodes

/-- The leaf fields of the first n leaves. -/
def leafRefs (f : PFields) (n : Nat) : List (BitVec 13) := (List.range n).map f.leaf

/-- The weight entries of a word that has n of them. -/
def weightRefs (f : PFields) (n : Nat) : List (BitVec 13) := (List.range n).map (entryPlus f.wb)

/-- The last of n entries from ref on lies in its bank. -/
def entriesFit (ref : BitVec 13) (n : Nat) : Bool := n = 0 || bits ref.toNat 8 0 + n ≤ 512

/-- The weights of a tree word (18 R494). -/
def treeWeights (f : PFields) : Nat := 2 * weightedNodes f.ops (treeOf f).i

/-- The value-plane entries that a tree word reads. -/
def treeReads (f : PFields) : List (Nat × BitVec 13) :=
  (leafRefs f (treeOf f).l ++ weightRefs f (treeWeights f)).map fun r => (0, r)

/-- PSUB and PMAXP (18 R496). -/
def treeWord (f : PFields) (max : Bool) : State → Host.Outcome State Fault Refusal :=
  pWord (entriesFit f.wb (treeWeights f)) fun k =>
    let w := treeOf f
    let root := nodeValue k f max w.tree
    let r := PVal.of k.ctx.pmode.toNat root.flags root.val
    { reads := treeReads f, nodes := w.i, writes := [(0, f.dst, r.raw)], flags := r.flags }

/-- PSUB (18 R496). -/
def execPsub (f : PFields) := treeWord f false

/-- PMAXP (18 R496). -/
def execPmaxp (f : PFields) := treeWord f true

/-- The additions to leaf derivatives in leaf order: the entries with their new bits, the last for an entry standing,
and the flags (18 R497). -/
def addShares (k : Core) (f : PFields) (l : List (Nat × PVal)) : List (BitVec 13 × Nat) × Flags :=
  l.foldl (fun acc (j, g) =>
    let old := ((acc.1.find? fun e => e.1 == f.leaf j).map fun e => e.2).getD (entryBits k 1 (f.leaf j))
    let sum := PVal.of k.ctx.pmode.toNat (acc.2 ||| g.flags) (fAdd false (pValue k.ctx.pmode.toNat old) g.val)
    ((f.leaf j, sum.raw) :: acc.1.filter fun e => e.1 != f.leaf j, sum.flags)) ([], 0)

/-- PSUBD (18 R497). -/
def execPsubd (f : PFields) :=
  pWord (entriesFit f.wb (treeWeights f)) fun k =>
    let w := treeOf f
    let d := entryBits k 1 f.dst
    let (sums, flags) := addShares k f (leafShares k f w.tree ⟨pValue k.ctx.pmode.toNat d, d, 0⟩)
    { reads := treeReads f ++ (1, f.dst) :: (leafRefs f w.l).map fun r => (1, r)
      nodes := w.i, writes := sums.map fun e => (1, e.1, e.2), flags := flags }

/-- PSUM (18 R496). -/
def execPsum (f : PFields) :=
  let n := f.count
  let weighted := f.mode == 1
  pWord (!weighted || entriesFit f.wb n) fun k =>
    let v (r : BitVec 13) := pValue k.ctx.pmode.toNat (entryBits k 0 r)
    let terms := (List.range n).map fun i =>
      if weighted then fMul (v (entryPlus f.wb i)) (v (f.leaf i)) else v (f.leaf i)
    let r := PVal.of k.ctx.pmode.toNat 0 (pSum terms)
    { reads := (leafRefs f n ++ if weighted then weightRefs f n else []).map fun x => (0, x)
      nodes := n - 1, writes := [(0, f.dst, r.raw)], flags := r.flags }

/-- A leaf over the sum of PNORM; a zero over a zero is invalid in PS32 (18 R499). -/
def normShare (fmt : Nat) (v sum : FVal) : Nat × Flags :=
  let (r, fl) := roundP fmt (fDiv v sum)
  (r, if fmt = 14 && isZero v && isZero sum then fl ||| flagNV else fl)

/-- PNORM (18 R499). -/
def execPnorm (f : PFields) :=
  let n := f.count
  pWord true fun k =>
    let fmt := k.ctx.pmode.toNat
    let v (r : BitVec 13) := pValue fmt (entryBits k 0 r)
    let s := PVal.of fmt 0 (pSum ((leafRefs f n).map v))
    let shares := (leafRefs f n).map fun r => (r, normShare fmt (v r) s.val)
    { reads := (leafRefs f n).map fun r => (0, r), nodes := n - 1
      writes := (0, f.dst, s.raw) :: shares.map fun x => (0, x.1, x.2.1)
      flags := shares.foldl (fun a x => a ||| x.2.2) s.flags }

/-- An entry converted from one value format to another (18 R500; 11 R316, R320). -/
def pConvert (fd fs w : Nat) : Nat × Flags :=
  let v := pValue fs w
  if fd = fs then roundP fd v else if fd = 14 then toPs32 v else roundP fd v

/-- PCVT (18 R500). -/
def execPcvt (f : PFields) :=
  let n := f.count
  pWord (entriesFit f.dst n) fun k =>
    let out := (leafRefs f n).map fun r => pConvert f.mode.toNat k.ctx.pmode.toNat (entryBits k 0 r)
    { reads := (leafRefs f n).map fun r => (0, r), nodes := 0
      writes := out.zipIdx.map fun (x, i) => (0, entryPlus f.dst i, x.1)
      flags := out.foldl (fun a x => a ||| x.2) 0 }

/-! ### Moves (18 R498) -/

/-- The checks of PLOAD and PSTORE. -/
def moveCheck (t : Ctx) (f : PFields) : Res Unit :=
  (guardTrap (bits f.dst.toNat 8 0 ≤ 448) .operandRange).andThen fun _ => partner t .a

/-- PLOAD (18 R498). It pops at once, and so after every earlier P-word has landed (18 R491). -/
def execPload (f : PFields) :=
  runCtx .p 24 fun t => (moveCheck t f).andThen fun _ => (guardWait t.ppend.isEmpty).andThen fun _ =>
    match headSlot t.q.qap with
    | none => .wait
    | some e => .ok (issueP (modQ t fun q => { q with qap := q.qap.tail })
        { pPending t with banks := [(entryOff f.mode.toNat f.dst, bytesOf e 0 256)] })

/-- PSTORE (18 R498). -/
def execPstore (f : PFields) :=
  runWord .p 24 fun s =>
    let k := curCore s
    let t := k.ctx
    let coming := t.ppend.foldl (fun n p => n + p.qpa.length) 0
    (moveCheck t f).andThen fun _ =>
      (waitEntries t ((List.range 64).map fun i => (f.mode.toNat, entryPlus f.dst i))).andThen fun _ =>
        (guardWait (t.q.qpa.length + coming < depth16)).mapTo fun _ => modCur s fun t => issueP t
          { pPending t with qpa := [ofBytes 2048 (bankRead k (entryOff f.mode.toNat f.dst) 256)] }

/-! ### PMODE, tokens and fences (18 R501) -/

/-- PMODE. -/
def execPmode (f : PFields) := runCtx .p 24 fun t => .ok { t with pmode := f.mode }

/-- The token of a word. -/
def pToken (f : PFields) : Fin 16 := Fin.ofNat 16 (f.shape.toNat / 2048)

/-- PSIG waits until every earlier P-word has landed, and for room in the token (18 R501). -/
def execPsig (f : PFields) :=
  runCtx .p 24 fun t => (guardWait t.ppend.isEmpty).andThen fun _ => signalToken t (pToken f)

/-- PWAIT takes its token after every earlier P-word has landed (18 R491). -/
def execPwait (f : PFields) :=
  runCtx .p 24 fun t => (guardWait t.ppend.isEmpty).andThen fun _ => waitToken t (pToken f)

/-- PFENCE waits until every earlier P-word has landed. -/
def execPfence (_ : PFields) := runCtx .p 24 fun t => (guardWait t.ppend.isEmpty).mapTo fun _ => t

end Sys2Proof.Machine
end

