-- ==== Sys2Proof/Machine/Dispatch.lean ====
section
/-!
DEFINITION. One arm for each constructor of Instr: a call of its meaning.
-/
namespace Sys2Proof.Machine

/-- The step that an instruction or an event makes. -/
def exec (i : Instr) (s : State) : Host.Outcome State Fault Refusal :=
  match i with
  | .doorbellForward core => Sys2Proof.Machine.execDoorbellForward core s
  | .collectiveChunk ctag chunk data => Sys2Proof.Machine.execCollectiveChunk ctag chunk data s
  | .collectiveMatch ctag op fmt count => Sys2Proof.Machine.execCollectiveMatch ctag op fmt count s
  | .launchPacket x => Sys2Proof.Machine.execLaunchPacket x s
  | .armPacket x => Sys2Proof.Machine.execArmPacket x s
  | .disarmPacket x => Sys2Proof.Machine.execDisarmPacket x s
  | .firePacket x => Sys2Proof.Machine.execFirePacket x s
  | .fencePacket x => Sys2Proof.Machine.execFencePacket x s
  | .frequencyClassHoldEnd k => Sys2Proof.Machine.execFrequencyClassHoldEnd k s
  | .cconsWrite x v => Sys2Proof.Machine.execCconsWrite x v s
  | .kernelCompletion kernel => Sys2Proof.Machine.execKernelCompletion kernel s
  | .operatingPointSwitch n => Sys2Proof.Machine.execOperatingPointSwitch n s
  | .meterUnit n => Sys2Proof.Machine.execMeterUnit n s
  | .settle k => Sys2Proof.Machine.execSettle k s
  | .draw c => Sys2Proof.Machine.execDraw c s
  | .resume c => Sys2Proof.Machine.execResume c s
  | .watchdog c => Sys2Proof.Machine.execWatchdog c s
  | .triggerReport c => Sys2Proof.Machine.execTriggerReport c s
  | .taskEnd c => Sys2Proof.Machine.execTaskEnd c s
  | .deadlock c => Sys2Proof.Machine.execDeadlock c s
  | .capture c => Sys2Proof.Machine.execCapture c s
  | .yieldTimeout c => Sys2Proof.Machine.execYieldTimeout c s
  | .yieldSaveComplete c => Sys2Proof.Machine.execYieldSaveComplete c s
  | .selfTest c => Sys2Proof.Machine.execSelfTest c s
  | .selfTestEnd c failed => Sys2Proof.Machine.execSelfTestEnd c failed s
  | .pageWalk c va kind => Sys2Proof.Machine.execPageWalk c va kind s
  | .invalidationComplete c => Sys2Proof.Machine.execInvalidationComplete c s
  | .sliceScrubDone slice => Sys2Proof.Machine.execSliceScrubDone slice s
  | .loadReturn c k => Sys2Proof.Machine.execLoadReturn c k s
  | .storePerformed c k => Sys2Proof.Machine.execStorePerformed c k s
  | .atomicPerformed c => Sys2Proof.Machine.execAtomicPerformed c s
  | .monitorSpuriousWake c => Sys2Proof.Machine.execMonitorSpuriousWake c s
  | .vResultLand c => Sys2Proof.Machine.execVResultLand c s
  | .tileCommandEnd c => Sys2Proof.Machine.execTileCommandEnd c s
  | .pWordLand c => Sys2Proof.Machine.execPWordLand c s
  | .engineJobStart n => Sys2Proof.Machine.execEngineJobStart n s
  | .jobCompletion n => Sys2Proof.Machine.execJobCompletion n s
  | .samplerDraw n => Sys2Proof.Machine.execSamplerDraw n s
  | .governorBoundary hot warm => Sys2Proof.Machine.execGovernorBoundary hot warm s
  | .dispatchHalt flash => Sys2Proof.Machine.execDispatchHalt flash s
  | .mailboxOperationEnd flashOk => Sys2Proof.Machine.execMailboxOperationEnd flashOk s
  | .latchmapClear c => Sys2Proof.Machine.execLatchmapClear c s
  | .add d a b => Sys2Proof.Machine.execAdd d a b s
  | .sub d a b => Sys2Proof.Machine.execSub d a b s
  | .and d a b => Sys2Proof.Machine.execAnd d a b s
  | .or d a b => Sys2Proof.Machine.execOr d a b s
  | .xor d a b => Sys2Proof.Machine.execXor d a b s
  | .sll d a b => Sys2Proof.Machine.execSll d a b s
  | .srl d a b => Sys2Proof.Machine.execSrl d a b s
  | .sra d a b => Sys2Proof.Machine.execSra d a b s
  | .min d a b => Sys2Proof.Machine.execMin d a b s
  | .max d a b => Sys2Proof.Machine.execMax d a b s
  | .minn d a b => Sys2Proof.Machine.execMinn d a b s
  | .maxn d a b => Sys2Proof.Machine.execMaxn d a b s
  | .clz d a => Sys2Proof.Machine.execClz d a s
  | .ctz d a => Sys2Proof.Machine.execCtz d a s
  | .popc d a => Sys2Proof.Machine.execPopc d a s
  | .mul d a b => Sys2Proof.Machine.execMul d a b s
  | .mulh d a b => Sys2Proof.Machine.execMulh d a b s
  | .mulhn d a b => Sys2Proof.Machine.execMulhn d a b s
  | .div d a b => Sys2Proof.Machine.execDiv d a b s
  | .divn d a b => Sys2Proof.Machine.execDivn d a b s
  | .rem d a b => Sys2Proof.Machine.execRem d a b s
  | .remn d a b => Sys2Proof.Machine.execRemn d a b s
  | .addi d a imm => Sys2Proof.Machine.execAddi d a imm s
  | .andi d a imm => Sys2Proof.Machine.execAndi d a imm s
  | .ori d a imm => Sys2Proof.Machine.execOri d a imm s
  | .xori d a imm => Sys2Proof.Machine.execXori d a imm s
  | .slli d a sh => Sys2Proof.Machine.execSlli d a sh s
  | .srli d a sh => Sys2Proof.Machine.execSrli d a sh s
  | .srai d a sh => Sys2Proof.Machine.execSrai d a sh s
  | .liw d imm => Sys2Proof.Machine.execLiw d imm s
  | .lis d imm => Sys2Proof.Machine.execLis d imm s
  | .cmp p cc a b => Sys2Proof.Machine.execCmp p cc a b s
  | .cmpi p cc a imm => Sys2Proof.Machine.execCmpi p cc a imm s
  | .plog d a b table => Sys2Proof.Machine.execPlog d a b table s
  | .sel d a b p => Sys2Proof.Machine.execSel d a b p s
  | .lds d a imm => Sys2Proof.Machine.execLds d a imm s
  | .sts src a imm => Sys2Proof.Machine.execSts src a imm s
  | .ldarg d n => Sys2Proof.Machine.execLdarg d n s
  | .qpush src q => Sys2Proof.Machine.execQpush src q s
  | .qpop d q => Sys2Proof.Machine.execQpop d q s
  | .qstat d q => Sys2Proof.Machine.execQstat d q s
  | .tsig t => Sys2Proof.Machine.execTsig t s
  | .twait t => Sys2Proof.Machine.execTwait t s
  | .csrr d csr => Sys2Proof.Machine.execCsrr d csr s
  | .csrw d a csr => Sys2Proof.Machine.execCsrw d a csr s
  | .csrs d a csr => Sys2Proof.Machine.execCsrs d a csr s
  | .csrc d a csr => Sys2Proof.Machine.execCsrc d a csr s
  | .nestw a b level => Sys2Proof.Machine.execNestw a b level s
  | .fmtpush a => Sys2Proof.Machine.execFmtpush a s
  | .evpop d e => Sys2Proof.Machine.execEvpop d e s
  | .evwait d e => Sys2Proof.Machine.execEvwait d e s
  | .budget d sel => Sys2Proof.Machine.execBudget d sel s
  | .joule d sel => Sys2Proof.Machine.execJoule d sel s
  | .varsel d a imm => Sys2Proof.Machine.execVarsel d a imm s
  | .trap imm => Sys2Proof.Machine.execTrap imm s
  | .rett => Sys2Proof.Machine.execRett s
  | .trigger => Sys2Proof.Machine.execTrigger s
  | .specon j c n => Sys2Proof.Machine.execSpecon j c n s
  | .speccommit d a => Sys2Proof.Machine.execSpeccommit d a s
  | .specabort => Sys2Proof.Machine.execSpecabort s
  | .launch d a b q => Sys2Proof.Machine.execLaunch d a b q s
  | .invr a b allAsids kind => Sys2Proof.Machine.execInvr a b allAsids kind s
  | .reclass d a b => Sys2Proof.Machine.execReclass d a b s
  | .haltc d a off => Sys2Proof.Machine.execHaltc d a off s
  | .nopx streams => Sys2Proof.Machine.execNopx streams s
  | .br p neg off => Sys2Proof.Machine.execBr p neg off s
  | .loop lc off => Sys2Proof.Machine.execLoop lc off s
  | .call p neg off => Sys2Proof.Machine.execCall p neg off s
  | .calli a => Sys2Proof.Machine.execCalli a s
  | .ret p neg => Sys2Proof.Machine.execRet p neg s
  | .yield n => Sys2Proof.Machine.execYield n s
  | .endw p neg => Sys2Proof.Machine.execEndw p neg s
  | .anop => Sys2Proof.Machine.execAnop s
  | .aadd d b c => Sys2Proof.Machine.execAadd d b c s
  | .aaddi d b imm => Sys2Proof.Machine.execAaddi d b imm s
  | .asub d b c => Sys2Proof.Machine.execAsub d b c s
  | .ashadd d b c sh => Sys2Proof.Machine.execAshadd d b c sh s
  | .amovq d b f => Sys2Proof.Machine.execAmovq d b f s
  | .aregRead d w n => Sys2Proof.Machine.execAregRead d w n s
  | .aregWrite b w n => Sys2Proof.Machine.execAregWrite b w n s
  | .amovi d b r => Sys2Proof.Machine.execAmovi d b r s
  | .areloc d n => Sys2Proof.Machine.execAreloc d n s
  | .lq q b size imm => Sys2Proof.Machine.execLq q b size imm s
  | .lqs q b c strided size => Sys2Proof.Machine.execLqs q b c strided size s
  | .lqg q b c size => Sys2Proof.Machine.execLqg q b c size s
  | .sq q b size imm => Sys2Proof.Machine.execSq q b size imm s
  | .sqs q b c strided signal size => Sys2Proof.Machine.execSqs q b c strided signal size s
  | .lx d b size imm => Sys2Proof.Machine.execLx d b size imm s
  | .sx src b size imm => Sys2Proof.Machine.execSx src b size imm s
  | .pref level b size imm => Sys2Proof.Machine.execPref level b size imm s
  | .append q w size => Sys2Proof.Machine.execAppend q w size s
  | .mark => Sys2Proof.Machine.execMark s
  | .acq scope => Sys2Proof.Machine.execAcq scope s
  | .rel scope => Sys2Proof.Machine.execRel scope s
  | .fence scope => Sys2Proof.Machine.execFence scope s
  | .amo d b c signal wide op => Sys2Proof.Machine.execAmo d b c signal wide op s
  | .acas d b c signal wide => Sys2Proof.Machine.execAcas d b c signal wide s
  | .red b c signal wide op => Sys2Proof.Machine.execRed b c signal wide op s
  | .waita d b c wide => Sys2Proof.Machine.execWaita d b c wide s
  | .rclaim d b imm => Sys2Proof.Machine.execRclaim d b imm s
  | .rpub src b imm => Sys2Proof.Machine.execRpub src b imm s
  | .rwaitf d b imm => Sys2Proof.Machine.execRwaitf d b imm s
  | .rfree b imm => Sys2Proof.Machine.execRfree b imm s
  | .rstatRead d b imm => Sys2Proof.Machine.execRstatRead d b imm s
  | .rstatSet d b imm => Sys2Proof.Machine.execRstatSet d b imm s
  | .barr b => Sys2Proof.Machine.execBarr b s
  | .bwait b => Sys2Proof.Machine.execBwait b s
  | .bexpect a b => Sys2Proof.Machine.execBexpect a b s
  | .brot => Sys2Proof.Machine.execBrot s
  | .scdecWait d b o => Sys2Proof.Machine.execScdecWait d b o s
  | .scdecTry d b o => Sys2Proof.Machine.execScdecTry d b o s
  | .scdecRes d b o => Sys2Proof.Machine.execScdecRes d b o s
  | .scinc d b o => Sys2Proof.Machine.execScinc d b o s
  | .scrd d b o => Sys2Proof.Machine.execScrd d b o s
  | .scrdx d b o => Sys2Proof.Machine.execScrdx d b o s
  | .scinit d b o => Sys2Proof.Machine.execScinit d b o s
  | .job b => Sys2Proof.Machine.execJob b s
  | .sample b => Sys2Proof.Machine.execSample b s
  | .srpop d f => Sys2Proof.Machine.execSrpop d f s
  | .vadd f => Sys2Proof.Machine.execVadd f s
  | .vsub f => Sys2Proof.Machine.execVsub f s
  | .vmul f => Sys2Proof.Machine.execVmul f s
  | .vfma f => Sys2Proof.Machine.execVfma f s
  | .vfms f => Sys2Proof.Machine.execVfms f s
  | .vnfma f => Sys2Proof.Machine.execVnfma f s
  | .vmin f => Sys2Proof.Machine.execVmin f s
  | .vmax f => Sys2Proof.Machine.execVmax f s
  | .vabs f => Sys2Proof.Machine.execVabs f s
  | .vneg f => Sys2Proof.Machine.execVneg f s
  | .vdiv f => Sys2Proof.Machine.execVdiv f s
  | .vsqrt f => Sys2Proof.Machine.execVsqrt f s
  | .vrcp f => Sys2Proof.Machine.execVrcp f s
  | .vrsq f => Sys2Proof.Machine.execVrsq f s
  | .vexp2 f => Sys2Proof.Machine.execVexp2 f s
  | .vlog2 f => Sys2Proof.Machine.execVlog2 f s
  | .vtanh f => Sys2Proof.Machine.execVtanh f s
  | .viadd f => Sys2Proof.Machine.execViadd f s
  | .visub f => Sys2Proof.Machine.execVisub f s
  | .vimul f => Sys2Proof.Machine.execVimul f s
  | .vimad f => Sys2Proof.Machine.execVimad f s
  | .vand f => Sys2Proof.Machine.execVand f s
  | .vor f => Sys2Proof.Machine.execVor f s
  | .vxor f => Sys2Proof.Machine.execVxor f s
  | .vnot f => Sys2Proof.Machine.execVnot f s
  | .vshl f => Sys2Proof.Machine.execVshl f s
  | .vshr f => Sys2Proof.Machine.execVshr f s
  | .vsra f => Sys2Proof.Machine.execVsra f s
  | .vcmp f => Sys2Proof.Machine.execVcmp f s
  | .vsel f => Sys2Proof.Machine.execVsel f s
  | .kand f => Sys2Proof.Machine.execKand f s
  | .kor f => Sys2Proof.Machine.execKor f s
  | .kxor f => Sys2Proof.Machine.execKxor f s
  | .knot f => Sys2Proof.Machine.execKnot f s
  | .kpop f => Sys2Proof.Machine.execKpop f s
  | .vcvt f => Sys2Proof.Machine.execVcvt f s
  | .vqcb f => Sys2Proof.Machine.execVqcb f s
  | .vdq f => Sys2Proof.Machine.execVdq f s
  | .vpack f => Sys2Proof.Machine.execVpack f s
  | .vunpack f => Sys2Proof.Machine.execVunpack f s
  | .vrsum f => Sys2Proof.Machine.execVrsum f s
  | .vrmax f => Sys2Proof.Machine.execVrmax f s
  | .vrmin f => Sys2Proof.Machine.execVrmin f s
  | .vargmax f => Sys2Proof.Machine.execVargmax f s
  | .vscan f => Sys2Proof.Machine.execVscan f s
  | .vperm f => Sys2Proof.Machine.execVperm f s
  | .vshuf f => Sys2Proof.Machine.execVshuf f s
  | .vbcast f => Sys2Proof.Machine.execVbcast f s
  | .viota f => Sys2Proof.Machine.execViota f s
  | .vmov f => Sys2Proof.Machine.execVmov f s
  | .vtrans f => Sys2Proof.Machine.execVtrans f s
  | .vsq f => Sys2Proof.Machine.execVsq f s
  | .vsetvlc f => Sys2Proof.Machine.execVsetvlc f s
  | .vaccept f => Sys2Proof.Machine.execVaccept f s
  | .mstep f => Sys2Proof.Machine.execMstep f s
  | .mnest f => Sys2Proof.Machine.execMnest f s
  | .mzero f => Sys2Proof.Machine.execMzero f s
  | .mdrain f => Sys2Proof.Machine.execMdrain f s
  | .mscale f => Sys2Proof.Machine.execMscale f s
  | .mrowmask f => Sys2Proof.Machine.execMrowmask f s
  | .mtest f => Sys2Proof.Machine.execMtest f s
  | .mfence f => Sys2Proof.Machine.execMfence f s
  | .msig f => Sys2Proof.Machine.execMsig f s
  | .mwait f => Sys2Proof.Machine.execMwait f s
  | .mpin f => Sys2Proof.Machine.execMpin f s
  | .mpinUnpin f => Sys2Proof.Machine.execMpinUnpin f s
  | .mstat f => Sys2Proof.Machine.execMstat f s
  | .psub f => Sys2Proof.Machine.execPsub f s
  | .psubd f => Sys2Proof.Machine.execPsubd f s
  | .pmaxp f => Sys2Proof.Machine.execPmaxp f s
  | .psum f => Sys2Proof.Machine.execPsum f s
  | .pload f => Sys2Proof.Machine.execPload f s
  | .pstore f => Sys2Proof.Machine.execPstore f s
  | .pnorm f => Sys2Proof.Machine.execPnorm f s
  | .pcvt f => Sys2Proof.Machine.execPcvt f s
  | .pmode f => Sys2Proof.Machine.execPmode f s
  | .psig f => Sys2Proof.Machine.execPsig f s
  | .pwait f => Sys2Proof.Machine.execPwait f s
  | .pfence f => Sys2Proof.Machine.execPfence f s
  | .reset conn => Sys2Proof.Machine.execReset conn s
  | .bootLayerStart => Sys2Proof.Machine.execBootLayerStart s
  | .droop n eighths => Sys2Proof.Machine.execDroop n eighths s
  | .thermalTrip n => Sys2Proof.Machine.execThermalTrip n s
  | .bmcPowerLimit watts => Sys2Proof.Machine.execBmcPowerLimit watts s
  | .eccFatal c => Sys2Proof.Machine.execEccFatal c s
  | .mailboxWrite record length => Sys2Proof.Machine.execMailboxWrite record length s
  | .mailboxRead record length => Sys2Proof.Machine.execMailboxRead record length s
  | .mailboxReboot hot => Sys2Proof.Machine.execMailboxReboot hot s
  | .hostCompletionTimeout r => Sys2Proof.Machine.execHostCompletionTimeout r s
  | .hostLinkDown => Sys2Proof.Machine.execHostLinkDown s
  | .functionLevelReset f => Sys2Proof.Machine.execFunctionLevelReset f s
  | .commandWindowWrite f window off data => Sys2Proof.Machine.execCommandWindowWrite f window off data s
  | .misrouteClear f => Sys2Proof.Machine.execMisrouteClear f s
  | .overrunClear f window => Sys2Proof.Machine.execOverrunClear f window s
  | .hostMemoryWrite off data relaxed => Sys2Proof.Machine.execHostMemoryWrite off data relaxed s
  | .hostMemoryRead off n => Sys2Proof.Machine.execHostMemoryRead off n s
  | .hostAtomic op off wide operand compare => Sys2Proof.Machine.execHostAtomic op off wide operand compare s
  | .bridgeTrained wide peerSerial => Sys2Proof.Machine.execBridgeTrained wide peerSerial s
  | .bridgeDown => Sys2Proof.Machine.execBridgeDown s
  | .flitReplay => Sys2Proof.Machine.execFlitReplay s
  | .bridgeLoadRequest pa n => Sys2Proof.Machine.execBridgeLoadRequest pa n s
  | .bridgeLoadReply c k data => Sys2Proof.Machine.execBridgeLoadReply c k data s
  | .bridgeStore core pa data signal => Sys2Proof.Machine.execBridgeStore core pa data signal s
  | .bridgeStoreAck c n => Sys2Proof.Machine.execBridgeStoreAck c n s
  | .bridgeAtomicRequest m => Sys2Proof.Machine.execBridgeAtomicRequest m s
  | .bridgeAtomicReply c old => Sys2Proof.Machine.execBridgeAtomicReply c old s
  | .forwardedCommandPacket packet => Sys2Proof.Machine.execForwardedCommandPacket packet s
  | .contextEnable x v => Sys2Proof.Machine.execContextEnable x v s
  | .contextDisable x v => Sys2Proof.Machine.execContextDisable x v s
  | .slotResidentClear slot v => Sys2Proof.Machine.execSlotResidentClear slot v s
  | .takeover => Sys2Proof.Machine.execTakeover s
  | .preemptAtBoundary c => Sys2Proof.Machine.execPreemptAtBoundary c s
  | .preemptMidTask c => Sys2Proof.Machine.execPreemptMidTask c s
  | .tqackPop => Sys2Proof.Machine.execTqackPop s
  | .tqreplyRetry agent seq => Sys2Proof.Machine.execTqreplyRetry agent seq s
  | .tqreplyFail agent seq => Sys2Proof.Machine.execTqreplyFail agent seq s
  | .sliceRelease slice => Sys2Proof.Machine.execSliceRelease slice s
  | .scunbind obj => Sys2Proof.Machine.execScunbind obj s
  | .registerWrite w off size v => Sys2Proof.Machine.execRegisterWrite w off size v s
  | .bridgeRetrain => Sys2Proof.Machine.execBridgeRetrain s
  | .collectivePeerCancelled ctag => Sys2Proof.Machine.execCollectivePeerCancelled ctag s
  | .forwardedPacketAcknowledged core => Sys2Proof.Machine.execForwardedPacketAcknowledged core s
  | .attestationRequest nonce => Sys2Proof.Machine.execAttestationRequest nonce s

end Sys2Proof.Machine
end

