-- ==== Sys2Proof/Machine/Fetch.lean ====
section
/-!
DEFINITION. What a stream finds at its program counter: the fetch and the decoding of words (06 R157 to R163; 13 R351,
R352), and the placing of a word where the next step fetches it.
-/
namespace Sys2Proof.Machine

/-- What a stream finds at its pc: a word that it executes, a word w of n bytes of another stream, a word that it stays
at (a shared control word that the S-stream will find unassigned or may not evaluate yet, a CSR write that the S-stream
has still to make), a word of n bytes that is unassigned or has a reserved field, or a fetch that faults at address a. p
is the word's first parcel, zero when it cannot be fetched. -/
inductive Fetched
  | word (p : Parcel) (i : Instr)
  | pass (n w : Nat)
  | hold
  | illegal (p : Parcel) (n : Nat)
  | noText (p : Parcel) (a n : Nat)
  deriving DecidableEq, Repr

/-- A stream at a taken YIELD has reached it and goes on only after the save (10 R296). -/
def atYield (t : Ctx) (st : Stream) : Bool :=
  match t.yieldPhase with
  | .taken _ _ _ => st == .s || (getStream t st).popped == t.steer.length
  | _ => false

/-- A stream of core c may issue: at the entry word the S-stream alone, in a handler the S-stream alone, the M-stream
not while a signal of it waits (17 R485), and none while the core stops or after the device has halted (01 R36; 06
R161, R162; 10 R274, R284). -/
def mayIssue (s : State) (c : CoreId) (st : Stream) : Bool :=
  let k := getCore s c
  let t := k.ctx
  k.busy && k.stop.isNone && (s.pkg.cause == 0 || 64 ≤ c.val) &&
    if t.atEntry then st == .s else live t st && (st == .s || !t.csr.inHandler) && !atYield t st
      && !(st == .m && (waitingSignal t).isSome)

/-- What a word whose bits are w comes to for a stream that executes it. An entry word is a NOPX (06 R161), and only the
S-stream finds a shared control word illegal, once room says that it may evaluate it (06 R159, R167; 13 R355). -/
def decodeFor (entry room : Bool) (st : Stream) (p : Parcel) (n w : Nat) : Fetched :=
  match decodeTableWord (32 * n) w with
  | some (.nopx x) => .word p (.nopx x)
  | some i => if entry then .illegal p (4 * n) else .word p i
  | none => if tagOf p.toNat == 15 && (st != .s || !room) then .hold else .illegal p (4 * n)

/-- The S-word w waits for the other streams: CSRR of VFLAGS, the CSR writes of the views, VLC and NBV, and JOULE
(06 R186). -/
def waitsForAll (w : Nat) : Bool :=
  match decodeTableWord 32 w with
  | some (.csrw _ _ n) | some (.csrs _ _ n) | some (.csrc _ _ n) => csrSyncs n.toNat
  | some (.csrr _ n) => n == 0x016
  | some (.joule _ _) => true
  | _ => false

/-- What the other streams have issued when they come past the S-word w matters to it: it waits for them, or it is a
TRIGGER (06 R186; 14 R398). -/
def marksOthers (w : Nat) : Bool := waitsForAll w || (match decodeTableWord 32 w with
  | some .trigger => true
  | _ => false)

/-- The S-word w writes a CSR for the words after it in the V-stream and the M-stream (06 R186, R187). -/
def syncWord (w : Nat) : Bool :=
  match decodeTableWord 32 w with
  | some (.csrw _ _ n) | some (.csrs _ _ n) | some (.csrc _ _ n) => csrSyncs n.toNat
  | _ => false

/-- The S-stream has still to come past the word that stream st is at. -/
def leadsS (t : Ctx) (st : Stream) : Bool :=
  let x := getStream t st
  x.popped == t.steer.length && (getStream t .s).pc.toNat ≤ x.pc.toNat && live t .s

/-- Stream st stays at the S-word w: w writes a view, VLC or NBV for the V-words and M-words after it, and the S-stream
has still to make the write (06 R187). The A-stream and the P-stream use none of them. -/
def staysFor (t : Ctx) (st : Stream) (w : Nat) : Bool := (st == .v || st == .m) && leadsS t st && syncWord w

/-- The word at the pc of a stream of core c, and the state after its fetch. -/
def fetchNext (s : State) (c : CoreId) (st : Stream) : Fetched × State :=
  let t := (getCore s c).ctx
  let pc := if t.atEntry then t.entry.toNat else (getStream t st).pc.toNat
  match fetchWord s c t.asid 1 pc with
  | (.error a, s) => (.noText 0 a 0, s)
  | (.ok w, s) =>
    let p : Parcel := BitVec.ofNat 32 w
    let n := tagParcels (tagOf w)
    if t.atEntry then (decodeFor true true st p 1 w, s)
    else if tagOf w != 15 && tagStream (tagOf w) != some st then
      (if tagStream (tagOf w) == some .s && staysFor t st w then .hold else .pass (4 * n) w, s)
    else match fetchWord s c t.asid (n - 1) ((pc + 4) % 2 ^ 64) with
      | (.error a, s) => (.noText p a (4 * n), s)
      | (.ok r, s) => (decodeFor false (maySteer t) st p n (w + 2 ^ 32 * r), s)

/-- The word whose first parcel is p is now the one that a stream of core c runs. -/
def beginWord (s : State) (c : CoreId) (st : Stream) (p : Parcel) : State :=
  { modCore s c fun k => { k with ir := p } with cur := c, curStream := st }

/-- A stream passes the word w, of n bytes, of another stream (06 R159); where w is one of the S-stream to which it
matters, what the stream has issued by then is marked (06 R186; 14 R398). -/
def passWord (s : State) (c : CoreId) (st : Stream) (n w : Nat) : State :=
  modCtx s c fun t =>
    let x := getStream t st
    let at_ := if st = .m then x.cidx.toNat else s.stamp
    let t := if leadsS t st && tagStream (tagOf w) == some .s && marksOthers w then
      { t with ahead := t.ahead ++ [(st, x.pc, at_)] } else t
    clearWaits (modStream t st fun x => { x with pc := x.pc + BitVec.ofNat 64 n })

/-- A stream waits at its pc. -/
def holdStream (s : State) (c : CoreId) (st : Stream) : State :=
  modCtx s c (waitAt st)

/-- ILLEGAL-WORD in a stream of core c; the fault address is the entry for an entry word (06 R161; 13 R351). -/
def illegalWord (s : State) (c : CoreId) (st : Stream) (p : Parcel) (n : Nat) : State :=
  let t := (getCore s c).ctx
  let s := beginWord s c st p
  takeTrap s c (wordTrap s st .illegalWord 0 (if t.atEntry then vaddr 0 t.entry.toNat else 0) n)

/-- ACCESS in the stream of core c that fetches a parcel at a (06 R160). -/
def fetchFault (s : State) (c : CoreId) (st : Stream) (p : Parcel) (a n : Nat) : State :=
  let s := beginWord s c st p
  takeTrap s c (wordTrap s st .access 3 (vaddr 0 a) n)

/-! ### A word placed where the next step fetches it -/

/-- The virtual and the physical address at which withFetchWord places a word. -/
def probePc : Nat := 0x200000

/-- The core that runs a placed word: Brass for the opcodes of system mode, core 0 for others (14 R378). -/
def probeCore (w : Nat) : CoreId := if 0x70 ≤ w / 2 ^ 24 % 2 ^ 8 && w / 2 ^ 24 % 2 ^ 8 ≤ 0x73 then 64 else 0

/-- The stream that runs a placed word; the S-stream for a shared control word. -/
def probeStream (w : Nat) : Stream := (tagStream (tagOf w)).getD .s

/-- A task with all five streams at probePc. -/
def probeCtx (system : Bool) : Ctx :=
  { Ctx.launch with
    system := system
    entry := BitVec.ofNat 64 (probePc - 4)
    streams := Vector.replicate 5 { StreamState.off with pc := BitVec.ofNat 64 probePc, enabled := true } }

/-- s with the word w placed at probePc and a task that runs it next; the bits of w above nbits are taken as zero. -/
def placeWord (s : State) (nbits w : Nat) : State :=
  let w := w % 2 ^ nbits
  let c := probeCore w
  let text := natToBytes 64 (w % 2 ^ 192)
  let s := { s with mem := memWriteN s.mem probePc text, inputs := [], schedule := [.stream c (probeStream w)] }
  modCore s c fun k => { k with
    busy := true
    stop := none
    ctx := probeCtx (c.val == 64)
    itlb := [⟨true, 0, probePc, 21, 0x347, probePc, 0⟩]
    icache := [⟨probePc / 64, 0, ofBytes 512 text⟩] }

end Sys2Proof.Machine
end

