-- ==== Sys2Proof/Machine/RegisterRead.lean ====
section
/-!
DEFINITION. Reads of the registers of BAR 0 (00 R8, R9; 02 R42 to R45; 07 R524 and the map of each register). Reserved
fields and fields that are only written read as zero. A field that takes effect at the next boundary reads as it was
last written (DESIGN CHOICE 102). The dispatch cores read what the host reads.
-/
namespace Sys2Proof.Machine

/-- A count in a field of 16 bits that saturates. -/
def saturated (n : Nat) : Nat := min n 0xFFFF

/-- The 64 bits of a longer register at byte offset o. -/
def wordOf (v o : Nat) : Nat := v / 2 ^ (8 * o) % 2 ^ 64

/-! ### The package and the links -/

/-- BOOTSTAT (01 R35). -/
def readBootstat (p : Package) : Nat :=
  p.layer.toNat + bitOf p.bootDone * 2 ^ 3 + p.cause.toNat * 2 ^ 4 + bitOf p.contractDefault * 2 ^ 8

/-- UMSTAT (01 R37). -/
def readUmstat (p : Package) : Nat := bitOf p.umop.isSome + p.umresult.toNat * 2 ^ 4 + p.umdone.toNat * 2 ^ 32

/-- BRIDGESTAT (02 R62). -/
def readBridgestat (l : Links) : Nat :=
  bitOf l.trained + bitOf l.paired * 2 + bitOf l.card * 2 ^ 2
    + (if !l.trained then 0 else if l.wide then 16 else 8) * 2 ^ 3 + l.replays.toNat * 2 ^ 16

/-- The error register of a function (02 R44). -/
def readFerr (l : Links) (f : FuncId) : Nat := bitOf (l.misroute.get f) + (l.misroutes.get f).toNat * 2 ^ 16

/-- DCSTAT (03 R93). -/
def readDcstat (d : Dispatch) : Nat :=
  bitOf d.primary + bitOf d.standbyOk * 2 + bitOf d.takeover * 2 ^ 2 + d.takeovers.toNat * 2 ^ 16

/-! ### The governor (04 R104 to R107) -/

/-- GCTL. -/
def readGctl (g : Governor) : Nat :=
  let (gint, plimit, hubres, memres) := g.newCtl.getD (g.gint, g.plimit, g.hubres, g.memres)
  gint + plimit * 2 ^ 10 + hubres.toNat * 2 ^ 19 + memres.toNat * 2 ^ 27

/-- GSTAT. -/
def readGstat (g : Governor) : Nat := g.epoch.toNat + g.cb % 2 ^ 16 * 2 ^ 32 + bitOf g.envelope * 2 ^ 48

/-- Word n of an island's block. -/
def readIsland (i : Island) (n : Nat) : Nat :=
  let i := i.metered
  match n with
  | 0 =>
    let (weight, gfix, opmin, opmax) := i.newCfg.getD (i.weight, i.gfix, i.opmin, i.opmax)
    weight.toNat + gfix.toNat * 2 ^ 8 + opmin.toNat * 2 ^ 16 + opmax.toNat * 2 ^ 20 + i.op.toNat * 2 ^ 24
      + bitOf i.downPend * 2 ^ 28 + i.grant % 2 ^ 16 * 2 ^ 32
  | 1 => min i.debt (2 ^ 32 - 1) + i.totalAt % 2 ^ 32 * 2 ^ 32
  | 2 => i.cal.toNat
  | _ => i.mmeter % 2 ^ 28 + i.warns.toNat * 2 ^ 32

/-! ### The dispatcher and the trap queue -/

/-- READY of a hardware queue: its tasks that have not started and whose orderings are met (05 R147). -/
def readyTasks (s : State) (q : Nat) : Nat :=
  s.disp.kernels.foldl (fun n k =>
    if k.hwq = q then n + ((unstarted s k).filter fun t => taskMayStart s k t).length else n) 0

/-- The entry of a hardware queue (05 R147). -/
def readHwq (s : State) (q : Nat) : Nat :=
  let h := vget s.disp.hwqs q
  h.swq.toNat + bitOf h.mapped * 2 ^ 12 + bitOf h.frozen * 2 ^ 13 + bitOf h.unmapping * 2 ^ 14 + h.tickets.toNat * 2 ^ 16
    + saturated (readyTasks s q) * 2 ^ 32

/-- The pending-kick bits from software queue first on (05 R151). -/
def readKicks (d : Dispatch) (first : Nat) : Nat :=
  (List.range 64).foldl (fun n i => n + bitOf (d.kicks.contains (first + i)) * 2 ^ i) 0

/-- LATCHMAP (10 R288). -/
def readLatchmap (s : State) : Nat :=
  (List.range 64).foldl (fun n c => n + bitOf (getCore s (coreOf c)).latched.isSome * 2 ^ c) 0

/-- TQSTAT (10 R288). -/
def readTqstat (s : State) : Nat := s.trapq.length + bitOf (readLatchmap s != 0) * 2 ^ 9

/-- ARRAYFENCE from core first on (10 R305). -/
def readFence (s : State) (first : Nat) : Nat :=
  (List.range 16).foldl (fun n i => n + (getCore s (coreOf (first + i))).fence.toNat * 2 ^ (4 * i)) 0

/-- EMBASE of a core (10 R298). -/
def readEmbase (k : Core) : Nat := bitOf k.emBusy + bitOf k.emValid * 2 + k.emBase.toNat * 2 ^ 23

/-- SLICEOWN of a slice (07 R199). -/
def readSlice (x : Slice) : Nat :=
  (match x.owner with
    | some a => a.toNat + 2 ^ 16
    | none => 0) + bitOf x.scrub * 2 ^ 17

/-! ### Contexts, slots and save entries -/

/-- Word n of a context's entry (03 R73). -/
def readContext (c : Context) (n : Nat) : Nat :=
  match n with
  | 0 => bitOf c.enable + bitOf c.assignFail * 2 + c.func.toNat * 2 ^ 2 + c.asid.toNat * 2 ^ 16
  | 1 => c.log2size.toNat + c.cbase.toNat * 2 ^ 12
  | 2 => c.cprod.toNat + c.ccons.toNat * 2 ^ 16 + c.vector.toNat * 2 ^ 32
  | _ => saturated c.held.length

/-- Word n of a slot's entry (03 R76). -/
def readSlotEntry (x : Slot) (n : Nat) : Nat :=
  match n with
  | 0 => bitOf x.resident + x.owner.toNat * 2 + x.refs.toNat * 2 ^ 16 + x.wsize.toNat * 2 ^ 32
  | 1 => x.template.toNat * 2 ^ 8
  | 2 => x.textBase.toNat * 2 ^ 21
  | _ => x.wbase.toNat * 2 ^ 21

/-- Word n of a save entry (10 R293). -/
def readSave (c : Context) (n : Nat) : Nat :=
  match n with
  | 0 => bitOf c.saveMode + bitOf c.noMid * 2
  | 1 => c.saveOff.toNat * 2 ^ 12
  | 2 => c.saveRegion.toNat + c.saveSlots.toNat * 2 ^ 16
  | _ => 0

/-- The 64 bits at an offset of a command window: CREDIT, OVERRUN and DISCARDS (02 R45). -/
def readWindow (c : Context) (off : Nat) : Nat :=
  if off = 0x40 then 64 - c.fifo.length + bitOf c.overrun * 2 ^ 7 + c.discards.toNat * 2 ^ 16 else 0

/-! ### The maps of BAR 0 -/

/-- The 64 bits at offset r of BAR 0 of the physical function. -/
def readPhysical (s : State) (r : Nat) : Nat :=
  let context (base : Nat) := getContext s ((r - base) / 32)
  if r = 0x100 then readBootstat s.pkg
  else if r = 0x148 then s.pkg.umaddr.toNat
  else if r = 0x150 then readUmstat s.pkg
  else if r = 0x200 then readBridgestat s.links
  else if r = 0x210 then s.links.hostBase.toNat * 2 ^ 12
  else if r = 0x220 then readFerr s.links 0
  else if r = 0x300 then s.fclassOp.toNat * 2 ^ 4
  else if r = 0x308 then readDcstat s.disp
  else if r = 0x400 then readGctl s.gov
  else if r = 0x408 then (s.gov.newEcost.getD s.gov.ecost).toNat
  else if r = 0x410 then readGstat s.gov
  else if r = 0x500 then bitOf s.disp.drawMode
  else if r = 0x508 then s.disp.seed.toNat + s.disp.xstate.toNat * 2 ^ 32
  else if r = 0x510 then s.disp.log2n.toNat + s.disp.jbase.toNat * 2 ^ 12
  else if 0x600 ≤ r && r < 0x800 then readHwq s ((r - 0x600) / 8)
  else if 0x800 ≤ r && r < 0xA00 then readIsland (getIsland s (Fin.ofNat 16 ((r - 0x800) / 32))) (r % 32 / 8)
  else if r = 0xA00 then s.astBase.toNat * 2 ^ 21
  else if r = 0xB00 then readTqstat s
  else if r = 0xB18 then readLatchmap s
  else if 0xB40 ≤ r && r < 0xB60 then readFence s (2 * (r - 0xB40))
  else if 0xC00 ≤ r && r < 0xD00 then wordOf (s.trapq.headD 0).toNat (r - 0xC00)
  else if 0xE00 ≤ r && r < 0x1000 then readEmbase (getCore s (coreOf ((r - 0xE00) / 8)))
  else if 0x1000 ≤ r && r < 0x1200 then readKicks s.disp (8 * (r - 0x1000))
  else if 0x2000 ≤ r && r < 0x2200 then readSlice (vget s.slices ((r - 0x2000) / 8))
  else if 0x4000 ≤ r && r < 0x8000 then
    wordOf ((getCore s (coreOf ((r - 0x4000) / 256))).latched.getD 0).toNat (r % 256)
  else if 0x100000 ≤ r && r < 0x108000 then readContext (context 0x100000) (r % 32 / 8)
  else if 0x110000 ≤ r && r < 0x110800 then readSlotEntry (vget s.slots ((r - 0x110000) / 32)) (r % 32 / 8)
  else if 0x120000 ≤ r && r < 0x128000 then readSave (context 0x120000) (r % 32 / 8)
  else if 0x2000000 ≤ r && r < 0x2400000 then readWindow (getContext s ((r - 0x2000000) / 4096)) (r % 4096)
  else 0

/-- Entry w of a virtual function's window list (02 R44). -/
def readWindowEntry (s : State) (f : FuncId) (w : Nat) : Nat :=
  match (windowList s f)[w]? with
  | some n => if w < 64 then n + 2 ^ 15 else 0
  | none => 0

/-- The 64 bits at offset r of BAR 0 of a virtual function (02 R42, R44). -/
def readVirtual (s : State) (f : FuncId) (r : Nat) : Nat :=
  if r = 0 then readFerr s.links f
  else if 0x100 ≤ r && r < 0x180 then
    (List.range 4).foldl (fun n i => n + readWindowEntry s f ((r - 0x100) / 2 + i) * 2 ^ (16 * i)) 0
  else if 0x40000 ≤ r && r < 0x80000 then
    match (windowList s f)[(r - 0x40000) / 4096]? with
    | some n => readWindow (getContext s n) (r % 4096)
    | none => 0
  else 0

/-- A device that has halted answers BOOTSTAT and the mailbox alone (01 R36). -/
def answersRead (s : State) (w : Writer) (r : Nat) : Bool :=
  s.pkg.cause = 0 || (w == .host 0 || w == .dispatch) && (r = 0x100 || r = 0x140 || r = 0x148 || r = 0x150)

/-- A read of size bytes at an offset of BAR 0, aligned to their size; what the device does not answer fails (DESIGN
CHOICE 100). -/
def registerRead (w : Writer) (off size : Nat) (s : State) : State :=
  let r := off / 8 * 8
  let v := match w with
    | .dispatch => readPhysical s r
    | .host f => if f.val = 0 then readPhysical s r else readVirtual s f r
  let ok := (size == 1 || size == 2 || size == 4 || size == 8) && off % size == 0 && answersRead s w r
  { s with sent := (if ok then .readData (natToBytes size (v / 2 ^ (8 * (off % 8)))) else .readFailed) :: s.sent }

end Sys2Proof.Machine
end

