-- ==== Sys2Proof/Machine/Schedule.lean ====
section
/-!
DEFINITION. Which step the part makes next. The choices that the spec leaves to timing are data of the state: a turn of
schedule first, then an event from outside, then the default: the next stream in rotation whose word does not wait;
after each rotation the first of the part's own events that changes something; and the boundary that ends the governor's
interval when neither is left.
-/
namespace Sys2Proof.Machine

/-- The outcome of a step. -/
abbrev Out := Host.Outcome State Fault Refusal

/-- The cycles of core c between s and u are cycles in which a V-stream that waited in s has stalled, unless st is the
V-stream itself (06 R184, R185). -/
def vWaited (s : State) (c : CoreId) (st : Stream) (u : State) : State :=
  if st != .v && (getStream (getCore s c).ctx .v).waiting then
    landWithin u c ((getCore u c).ctx.csr.cycle - (getCore s c).ctx.csr.cycle).toNat
  else u

/-- The A-stream of core c has come past the pending trigger point: what it has issued so far lies before it (14
R398). -/
def noteTrigger (s : State) (c : CoreId) : State :=
  modCtx s c fun t => { t with trigger := t.trigger.map fun p =>
    if p.stamp.isNone && passed t p .a then { p with stamp := some s.stamp } else p }

/-- After a word of a stream of core c that ran in s: the V-stream's time goes on, and, unless the word waits, every
stream that waits looks again (06 R184, R188). -/
def afterWord (s : State) (c : CoreId) (st : Stream) (r : Out) : Out :=
  match r with
  | .next u =>
    let u := noteTrigger (vWaited s c st u) c
    .next (if (getStream (getCore u c).ctx st).waiting then u else wakeAll u)
  | r => r

/-! ### The firmware contexts (03 R94, R95) -/

/-- S issue slots of core c go by, which the firmware context takes or not; only those in which it has work count. -/
def passSlots (s : State) (c : CoreId) (taken : List Bool) : State :=
  modCore s c fun k =>
    if k.fw.running then { k with fw := { k.fw with slots := (taken ++ k.fw.slots).take 63 } } else k

/-- The firmware context of a core may take this S issue slot: the 64 slots that end with it hold no more of its own
than FWSHARE allows. -/
def firmwareMayIssue (s : State) (c : CoreId) : Bool :=
  let k := getCore s c
  k.fw.running && !k.offline && s.pkg.cause = 0 && k.fw.slots.count true < 2 ^ k.fwshare.toNat

/-! ### The streams -/

/-- A stream of core c passes, executes, waits at or faults at the word that it finds; slot is what the issue of a word
does to the core's issue slots. -/
def issueWord (s : State) (c : CoreId) (st : Stream) (slot : State → State) : Out :=
  match fetchNext s c st with
  | (.word p i, s) => afterWord s c st (exec i (beginWord (slot s) c st p))
  | (.pass n w, s) => .next (noteTrigger (passWord s c st n w) c)
  | (.hold, s) => .next (holdStream s c st)
  | (.illegal p n, s) => .next (wakeAll (illegalWord s c st p n))
  | (.noText p a n, s) => .next (wakeAll (fetchFault s c st p a n))

/-- The turn of a stream of core c. -/
def runStream (s : State) (c : CoreId) (st : Stream) : Out :=
  if mayIssue s c st then issueWord s c st fun s => if st = .s then passSlots s c [false] else s else .next s

/-! ### The words of the firmware contexts (03 R94; 14 R378) -/

/-- The firmware context of core c and the context of its task change places. -/
def enterFirmware (s : State) (c : CoreId) : State :=
  modCore s c fun k => { k with busy := true, stop := none, ctx := k.fw.ctx, fw := { k.fw with ctx := k.ctx } }

/-- The registers of a firmware context after a fault of its own (DESIGN CHOICE 115). -/
def afterFault (n : Nat) (t : Ctx) : Ctx :=
  let old := (getStream t .s).pc :: t.x.toList
  { modStream t .s fun x => { x with pc := Config.firmwareReg n old 64 } with
    x := Vector.ofFn fun i => Config.firmwareReg n old i.val }

/-- The context of core c's task stands again, on a core that holds it, stopped or not, as k did. -/
def leaveFirmware (k : Core) (s : State) (c : CoreId) : State :=
  let n := s.freeCtr
  let failed := (getCore s c).stop.isSome
  let s := modCore s c fun u =>
    { u with
      busy := k.busy, stop := k.stop, ir := k.ir, ctx := clearWaits u.fw.ctx
      fw := { u.fw with ctx := if failed then afterFault n u.ctx else u.ctx } }
  let s := if failed then { s with freeCtr := n + 1 } else s
  if k.busy then landWithin (stalledCycles s c 1) c 1 else s

/-- A word of the firmware context of core c, in system mode. A cycle that it alone uses is a stalled cycle of the
core's task (04 R112). -/
def runFirmware (s : State) (c : CoreId) : Out :=
  if !firmwareMayIssue s c then .next s
  else match issueWord (enterFirmware (passSlots s c [true]) c) c .s id with
    | .next u => .next (leaveFirmware (getCore s c) u c)
    | r => r

/-- An instruction is an event: it has no encoding. -/
def isEvent (i : Instr) : Bool := (encodeWord i).isNone

/-- The turn of an event. Words run only in their streams. -/
def runEvent (s : State) (i : Instr) : Out :=
  if isEvent i then
    match exec i s with
    | .next s => .next (wakeAll s)
    | r => r
  else .next s

/-- n cycles of core c in which no stream issues: stalled cycles of its task, in which results of V-words land (04 R112;
06 R185). -/
def runStall (s : State) (c : CoreId) (n : Nat) : State :=
  let s := passSlots s c (List.replicate (min n 63) false)
  if (getCore s c).busy then landWithin (stalledCycles s c n) c n else s

/-- A turn of the schedule. -/
def runTurn (t : Turn) (s : State) : Out :=
  match t with
  | .stream c st => runStream s c st
  | .event i => runEvent s i
  | .stall c n => .next (runStall s c n)
  | .firmware c => runFirmware s (tile c)
  | .registerRead w off size => .next (registerRead w off size s)
  | .resizeBar2 n => .next (if 30 ≤ n && n ≤ 39 then { s with links := { s.links with bar2 := n } } else s)
  | .hostStore a data => .next (if a.toNat + data.length ≤ 2 ^ 64 then
      { s with hostMem := memWriteN s.hostMem a.toNat data } else s)

/-! ### The default -/

/-- The stream of a number of the rotation: five streams of each of the 64 tile cores. -/
def turnOf (n : Nat) : CoreId × Stream := (coreOf (n / 5 % 64), streamOf (n % 5))

/-- A stream may issue and its word is not known to wait. -/
def runnable (s : State) (c : CoreId) (st : Stream) : Bool :=
  mayIssue s c st && !(getStream (getCore s c).ctx st).waiting

/-- The first runnable stream of the rotation from number n on. -/
def pickFrom (s : State) (n : Nat) : Option Nat :=
  (List.range' n (320 - n)).find? fun n => runnable s (turnOf n).1 (turnOf n).2

/-- An event that may be due while b holds. -/
def dueIf (b : Bool) (i : Instr) : List Instr := if b then [i] else []

/-- The pieces of writes, the atomic and the pieces of loads of core c. -/
def accessEvents (k : Core) (c : CoreId) : List Instr :=
  (List.range (k.ctx.aq.inflight.length + (headPieces k.ctx).length)).map (Instr.storePerformed c)
    ++ dueIf (!k.ctx.aq.stores.isEmpty) (.atomicPerformed c)
    ++ (List.range (loadPieces k.ctx)).map (Instr.loadReturn c)

/-- Events of tile core c that may be due. -/
def coreEvents (s : State) (c : Fin 64) : List Instr :=
  let k := getCore s (tile c)
  let t := k.ctx
  dueIf (!k.dbOut.isEmpty) (.doorbellForward c) ++
  if k.busy then
    dueIf k.stop.isSome (.capture (tile c)) ++ dueIf (mayTest k) (.selfTest c) ++ dueIf t.m.testing (.selfTestEnd c 0)
      ++ dueIf (!t.vpend.isEmpty) (.vResultLand c) ++ dueIf (!s.invPend.isEmpty) (.invalidationComplete (tile c))
      ++ accessEvents k (tile c)
      ++ dueIf t.m.cmd.isSome (.tileCommandEnd c) ++ dueIf (!t.ppend.isEmpty) (.pWordLand c)
      ++ dueIf t.trigger.isSome (.triggerReport c) ++ dueIf (mayEnd s (tile c)) (.taskEnd c)
      ++ dueIf (t.yieldPhase != .none) (.yieldSaveComplete c) ++ dueIf (t.yieldPhase != .none) (.resume c)
  else
    dueIf (k.latched.isSome || k.blocked) (.latchmapClear c)
      ++ dueIf (s.disp.saved.any fun v => (resumeOne s v (tile c)).isSome) (.resume c)
      ++ dueIf (drawQueue s (tile c)).isSome (.draw c)

/-- Events of dispatch core c that may be due. -/
def dispatchEvents (s : State) (c : CoreId) : List Instr :=
  let k := getCore s c
  dueIf k.stop.isSome (.capture c) ++ dueIf (!s.invPend.isEmpty) (.invalidationComplete c) ++ accessEvents k c

/-- The contexts in round-robin order behind the one whose packet was handled last (03 R72). -/
def contextRound (s : State) : List (Nat × Context) :=
  s.contexts.filter (fun e => s.disp.front < e.1) ++ s.contexts.filter fun e => e.1 ≤ s.disp.front

/-- Events of the command interface and of the dispatcher that may be due. -/
def hubEvents (s : State) : List Instr :=
  (contextRound s).flatMap (fun e =>
    let x : ContextId := Fin.ofNat 1024 e.1
    if e.2.fifo.isEmpty then [] else [.launchPacket x, .armPacket x, .disarmPacket x, .firePacket x, .fencePacket x])
    ++ (List.range s.disp.holds.length).map Instr.frequencyClassHoldEnd
    ++ s.jobs.flatMap (fun j => [.engineJobStart j.num, .jobCompletion j.num])
    ++ s.samples.map (fun r => .samplerDraw r.num)
    ++ (List.range 64).flatMap (fun i => dueIf (vget s.slices i).scrub (.sliceScrubDone (Fin.ofNat 64 i)))
    ++ (List.range s.settling.length).map Instr.settle
    ++ s.disp.kernels.flatMap (fun k => dueIf (kernelDone s k) (.kernelCompletion k.num.toNat))
    ++ (List.range 16).flatMap (fun i =>
      let x : IslandId := Fin.ofNat 16 i
      dueIf (getIsland s x).opNext.isSome (.operatingPointSwitch x)
        ++ dueIf (200000000 ≤ (getIsland s x).mmeter) (.meterUnit x))
    ++ dueIf (!s.pkg.bootDone) .bootLayerStart ++ dueIf (s.disp.takeover || primaryDown s) .takeover
    ++ dueIf (primaryDown s) (.dispatchHalt false) ++ dueIf s.pkg.umop.isSome (.mailboxOperationEnd true)

/-- The part's own events that may be due, in the order in which the default tries them. -/
def dueEvents (s : State) : List Instr :=
  (List.range 64).flatMap (fun c => coreEvents s (Fin.ofNat 64 c)) ++ dispatchEvents s 64 ++ dispatchEvents s 65
    ++ hubEvents s ++ (List.range 64).flatMap fun c => dueIf (deadlocked s (coreOf c)) (.deadlock (Fin.ofNat 64 c))

/-- The state after the first of these events that changes it. -/
def firstChange (s : State) : List Instr → Option State
  | [] => none
  | i :: r =>
    match exec i s with
    | .next s' => if s' = s then firstChange s r else some s'
    | _ => firstChange s r

/-- The turn of the stream of number n; the rotation goes on after it. -/
def runNumber (s : State) (n : Nat) : Out := runStream { s with rotor := n + 1 } (turnOf n).1 (turnOf n).2

/-- The default turn: the streams that can issue, one word each in rotation; at the end of every rotation one of the
part's own events, so that none is put off for ever; and the governor's boundary when nothing else can happen. -/
def defaultTurn (s : State) : Out :=
  match pickFrom s s.rotor with
  | some n => runNumber s n
  | none =>
    match firstChange s (dueEvents s) with
    | some s => .next (wakeAll { s with rotor := 0 })
    | none =>
      match pickFrom s 0 with
      | some n => runNumber s n
      | none => if s.pkg.bootDone then runEvent s (.governorBoundary 0 0) else .next s

/-- One step of the part. -/
def takeTurn (s : State) : Out :=
  match s.schedule with
  | t :: r => runTurn t { s with schedule := r }
  | [] =>
    match s.inputs with
    | i :: r => runEvent { s with inputs := r } i
    | [] => defaultTurn s

end Sys2Proof.Machine
end

