-- ==== Sys2Proof/Machine/Step.lean ====
section
/-!
DEFINITION. One step of the machine, and the placing of an instruction where the next step fetches it.
-/
namespace Sys2Proof.Machine

/-- One step. -/
def step (s : State) : Host.Outcome State Fault Refusal := takeTurn s

/-- s with the instruction whose bits are w stored where step fetches its next instruction, and a task that runs it.
This stands for the launch of a task whose text is that instruction (05 R131, R149). -/
def State.withFetchWord (s : State) (nbits w : Nat) : State := placeWord s nbits w

end Sys2Proof.Machine
end

