-- ==== Sys2Proof/Safety.lean ====
section
/-!
DEFINITION. The terms that claims use: that the memories keep their canonical form, what a word that retires leaves, and
that a step changes nothing but what is named.
-/
namespace Sys2Proof.Machine

/-! ### Invariants -/

/-- The byte memories of the card and of the host have their canonical form. -/
def memoryOk (s : State) : Prop := Memory.wf s.mem = true ∧ Memory.wf s.hostMem = true

/-! ### Words that retire -/

/-- The stream st of the task that ran a word stands at pc, with the word counted (06 R163; 10 R278). -/
structure Moved (s t : State) (st : Stream) (pc : Word) : Prop where
  pc    : (getStream (curCtx t) st).pc = pc
  index : (getStream (curCtx t) st).cidx = (getStream (curCtx s) st).cidx + 1
  goes  : (getStream (curCtx t) st).waiting = false

/-- The word took one active cycle, whose energy its task was charged, and no other charge was made (04 R112, R113). -/
structure OneCycle (s t : State) : Prop where
  cycle : (curCtx t).csr.cycle = (curCtx s).csr.cycle + 1
  work  : (curCtx t).acct.work = (curCtx s).acct.work + 60000 * (voltage (getIsland s (islandOf s.cur)).op) ^ 2

/-- c without what every word of stream st may change: the stream's pc, its index and whether it waits, CYCLE and the
energy of the task; and, for an A-word, what the word at hand keeps of its waits. -/
def blankWord (st : Stream) (c : Ctx) : Ctx :=
  let c := modStream c st fun x => { x with pc := 0, cidx := 0, waiting := false }
  let c := { c with csr := { c.csr with cycle := 0 }, acct := { c.acct with work := 0 } }
  if st = .a then { c with aq := { c.aq with replay := none, ask := [], now := [], ringWait := none } } else c

/-- s and t are the same but for what every word of stream st may change and what hide takes out of the task. -/
def SameBut (s t : State) (st : Stream) (hide : Ctx → Ctx) : Prop :=
  modCur t (fun c => hide (blankWord st c)) = modCur s fun c => hide (blankWord st c)

/-- Every byte of the card's and of the host's memory reads as before. -/
def MemorySame (s t : State) : Prop :=
  (∀ a, memRead t.mem a = memRead s.mem a) ∧ ∀ a, memRead t.hostMem a = memRead s.hostMem a

/-- The instruction i, a word of stream st, completes in one active cycle at s: exec answers a next state t in which the
stream stands at pc, nothing has changed but what hide takes out of the task, no byte of memory has changed, and post
holds. -/
def Completes (i : Instr) (s : State) (st : Stream) (pc : Word) (hide : Ctx → Ctx) (post : State → Prop) : Prop :=
  ∃ t, exec i s = .next t ∧ Moved s t st pc ∧ OneCycle s t ∧ SameBut s t st hide ∧ MemorySame s t ∧ post t

/-- The instruction i, a word of len bytes of stream st, faults at s with this cause, detail and fault address: the trap
is taken from s itself, so the word has no other effect (10 R274, R277). -/
def Traps (i : Instr) (s : State) (st : Stream) (cause : Cause) (detail : Nat) (faddr : VAddr) (len : Nat) : Prop :=
  exec i s = .next (takeTrap s s.cur (wordTrap s st cause detail faddr len))

/-- The instruction i, a word of stream st, waits at s: nothing changes but that the stream is marked as waiting, and,
while results of V-words have still to land, the model's own count of the V-stream's stalls (06 R185, R188). -/
def Waits (i : Instr) (s : State) (st : Stream) : Prop := exec i s = .next (modCur s (waitAt st))

/-- The address of the word after one of len bytes of stream st. -/
def after (s : State) (st : Stream) (len : Nat) : Word := (getStream (curCtx s) st).pc + BitVec.ofNat 64 len

/-- Nothing more is taken out of the task. -/
def hideNone (c : Ctx) : Ctx := c
/-- The task without X[d]. -/
def hideX (d : Fin 64) (c : Ctx) : Ctx := xSet c d 0
/-- The task without P[d]. -/
def hideP (d : Fin 8) (c : Ctx) : Ctx := pSet c d false
/-- The task without A[d]. -/
def hideA (d : Fin 32) (c : Ctx) : Ctx := aSet c d 0

/-- X[d] of the task that runs holds v, unless d is 0. -/
def HoldsX (t : State) (d : Fin 64) (v : Word) : Prop := xGet (curCtx t) d = if d = 0 then 0 else v
/-- P[d] of the task that runs holds b, unless d is 0. -/
def HoldsP (t : State) (d : Fin 8) (b : Bool) : Prop := pGet (curCtx t) d = if d = 0 then true else b
/-- A[d] of the task that runs holds v, unless d is 0. -/
def HoldsA (t : State) (d : Fin 32) (v : VAddr) : Prop := aGet (curCtx t) d = if d = 0 then 0 else v

/-! ### A-words -/

/-- The A-stream may run a word that reads or writes these registers: the core holds a task, no replayable fault of the
A-stream is pending, and no load or atomic in flight will write one of the registers (06 R184; 10 R291; 15 R407). -/
structure AReady (s : State) (regs : List (Fin 32)) : Prop where
  runs  : runs s = true
  clear : (curCtx s).aq.replay = none
  ready : ∀ r ∈ regs, r = 0 ∨ r ∉ (curCtx s).aBusy

/-- The offset of A[r] as a natural number, and as a signed word (15 R408, R409). -/
def offsetOf (c : Ctx) (r : Fin 32) : Int := ((aGet c r).extractLsb' 0 64).toNat
/-- The offset of A[r] as a signed word (15 R409). -/
def signedOffsetOf (c : Ctx) (r : Fin 32) : Int := ((aGet c r).extractLsb' 0 64).toInt

/-- EA of 15 R408: the address a has the region of A[b], and the offset of A[b] moved by disp, which stays in 0 to
2^64 − 1. -/
def Effective (c : Ctx) (b : Fin 32) (disp : Int) (a : VAddr) : Prop :=
  ∃ o : Nat, offsetOf c b + disp = o ∧ o < 2 ^ 64 ∧ a = (aGet c b).extractLsb' 64 8 ++ BitVec.ofNat 64 o

/-- The word i of the A-stream has the effect that takes s to u and then retires: exec answers u with the word past the
stream and one active cycle charged. -/
def RetiresTo (i : Instr) (s u : State) : Prop := exec i s = .next (retire u .a 4)

/-! ### Traps -/

/-- The task on core c has no operation in flight, waits at no other agent and has no round to close, so that a drain
finds nothing to do (10 R275). -/
structure Quiet (s : State) (c : CoreId) : Prop where
  loads    : (getCore s c).ctx.aq.loads = []
  stores   : (getCore s c).ctx.aq.stores = []
  inflight : (getCore s c).ctx.aq.inflight = []
  waita    : (getCore s c).ctx.aq.waita = .none
  scWait   : (getCore s c).ctx.aq.scWait = .none
  waits    : withdrawWaits s c = s
  vpend    : (getCore s c).ctx.vpend = []
  ppend    : (getCore s c).ctx.ppend = []
  tile     : (getCore s c).ctx.m.cmd = none
  test     : (getCore s c).ctx.m.mtest = none
  closings : (getCore s c).ctx.spec.closings = []
  samples  : samplesOf s (getCore s c).ctx.task = []

/-- A handler of the task on tile core c would take a user trap now (10 R283): the core runs a task and no stop is
pending, TVEC.EN is 1, no handler runs, the task is not in speculative mode, and no yield sequence saves it. -/
structure Handled (s : State) (c : CoreId) : Prop where
  tile    : c.val < 64
  busy    : (getCore s c).busy = true
  user    : (getCore s c).ctx.system = false
  free    : (getCore s c).stop = none
  alone   : (getCore s c).preempt = false
  enabled : (getCore s c).ctx.csr.tvec.getLsbD 0 = true
  outside : (getCore s c).ctx.csr.inHandler = false
  plain   : roundOf (getCore s c).ctx .s = none
  yield   : savingYield (getCore s c).ctx = false

/-- The task without what the start of a handler changes: the S-stream's pc, end and return stack, the waits, scalar
local memory, TCAUSE and INHANDLER, and the trap that the handler handles. -/
def hideHandler (c : Ctx) : Ctx :=
  let c := clearWaits (modStream c .s fun x => { x with pc := 0, ended := false, ret := [] })
  { c with slm := [], handling := none, csr := { c.csr with tcause := 0, inHandler := false } }

/-- s without the task of core c and without the device sequence number. -/
def withoutTask (s : State) (c : CoreId) : State := { modCtx s c fun _ => Ctx.launch with seq := 0 }

/-- The little-endian number in n bytes of scalar local memory from address a. -/
def slmNumber (c : Ctx) (a n : Nat) : Nat := ((List.range n).map fun i => (memRead c.slm (a + i)).toNat * 256 ^ i).sum

/-- The handler of the task on core c has started for the trap i (10 R277, R280, R282 to R284): the S-stream alone
stands at TVEC.PC, TCAUSE and INHANDLER are set, the record lies at TREC with the next device sequence number, the
cause, the source, the detail, the fault address, the first parcel and the resume PC of every enabled stream, and
nothing else has changed. -/
structure HandlerStarted (s t : State) (c : CoreId) (i : TrapInfo) : Prop where
  pc      : (getStream (getCore t c).ctx .s).pc = ((getCore s c).ctx.csr.tvec >>> 2) <<< 2
  runs    : (getStream (getCore t c).ctx .s).ended = false
  inside  : (getCore t c).ctx.csr.inHandler = true
  tcause  : (getCore t c).ctx.csr.tcause.toNat = i.cause.code + 256 * i.source + 65536 * i.detail
  seq     : t.seq = s.seq + 1
  record  : ∀ a n v, (a, n, v) ∈ [(0, 4, s.seq.toNat), (4, 2, i.cause.code), (6, 1, i.source), (15, 1, i.detail),
      (16, 8, i.faddr.toNat % 2 ^ 64), (24, 1, i.faddr.toNat / 2 ^ 64), (28, 4, i.status.toNat)] ++
      ([Stream.s, .a, .v, .p].map fun st => (32 + 8 * (sIdx st).val, 8,
        if (getStream (getCore s c).ctx st).enabled then (getStream (getCore s c).ctx st).pc.toNat else 0)) →
    slmNumber (getCore t c).ctx (256 * (getCore s c).ctx.csr.trecSlot.toNat + a) n = v
  beside  : ∀ a, a / 256 ≠ (getCore s c).ctx.csr.trecSlot.toNat →
    memRead (getCore t c).ctx.slm a = memRead (getCore s c).ctx.slm a
  task    : hideHandler (getCore t c).ctx = hideHandler (getCore s c).ctx
  rest    : withoutTask t c = withoutTask s c

end Sys2Proof.Machine
end

