-- ==== Sys2Proof/Certificates/Slice0/Obligations.lean ====
section
/-!
DEFINITION. The statements for the provers, family by family, each with the rules of spec/ that it rests on. Where a
statement needs a value that a rule gives by a table or by arithmetic, the value is written here from the rule.
-/
open Sys2Proof Sys2Proof.Machine

/-! ### Integer words of the S-stream (14 R377, R380 to R385; 11 R321) -/

/-- The 64 bits from bit lo of the exact product of two 128-bit values. -/
def productBits (a b : BitVec 128) (lo : Nat) : Word := (a * b).extractLsb' lo 64

/-- The shift count that X[b] gives: its bits 5 to 0. -/
def countOf (b : Word) : Nat := (b.extractLsb' 0 6).toNat

/-- The table of 14 R380, with the corners of 11 R321: each register word with its value from the values of the S
registers. -/
def registerTable (d a b : Fin 64) : List (Instr × ((Fin 64 → Word) → Word)) :=
  [(.add d a b, fun x => BitVec.ofNat 64 ((x a).toNat + (x b).toNat)),
    (.sub d a b, fun x => BitVec.ofInt 64 ((x a).toInt - (x b).toInt)),
    (.and d a b, fun x => x a &&& x b),
    (.or d a b, fun x => x a ||| x b),
    (.xor d a b, fun x => x a ^^^ x b),
    (.sll d a b, fun x => BitVec.ofNat 64 ((x a).toNat * 2 ^ countOf (x b))),
    (.srl d a b, fun x => BitVec.ofNat 64 ((x a).toNat / 2 ^ countOf (x b))),
    (.sra d a b, fun x => BitVec.ofInt 64 ((x a).toInt / 2 ^ countOf (x b))),
    (.min d a b, fun x => BitVec.ofInt 64 (min (x a).toInt (x b).toInt)),
    (.max d a b, fun x => BitVec.ofInt 64 (max (x a).toInt (x b).toInt)),
    (.minn d a b, fun x => BitVec.ofNat 64 (min (x a).toNat (x b).toNat)),
    (.maxn d a b, fun x => BitVec.ofNat 64 (max (x a).toNat (x b).toNat)),
    (.clz d a, fun x => BitVec.ofNat 64 ((List.range 64).takeWhile fun n => !(x a).getLsbD (63 - n)).length),
    (.ctz d a, fun x => BitVec.ofNat 64 ((List.range 64).takeWhile fun n => !(x a).getLsbD n).length),
    (.popc d a, fun x => BitVec.ofNat 64 ((List.range 64).filter fun n => (x a).getLsbD n).length),
    (.mul d a b, fun x => productBits ((x a).setWidth 128) ((x b).setWidth 128) 0),
    (.mulh d a b, fun x => productBits ((x a).signExtend 128) ((x b).signExtend 128) 64),
    (.mulhn d a b, fun x => productBits ((x a).setWidth 128) ((x b).setWidth 128) 64),
    (.div d a b, fun x => if x b = 0 then BitVec.allOnes 64 else (x a).sdiv (x b)),
    (.divn d a b, fun x => if x b = 0 then BitVec.allOnes 64 else (x a).udiv (x b)),
    (.rem d a b, fun x => if x b = 0 then x a else (x a).srem (x b)),
    (.remn d a b, fun x => if x b = 0 then x a else (x a).umod (x b))]

/-- 14 R380: every register word of the integer group completes in one cycle in every state of a running task, sets X[d]
to the value of the table (a write to x0 is discarded, R377), raises no trap and changes nothing else. -/
def RegisterWordsComputeTheTable : Prop :=
  ∀ (d a b : Fin 64) (i : Instr) (value : (Fin 64 → Word) → Word), (i, value) ∈ registerTable d a b →
    ∀ s : State, runs s = true →
      Completes i s .s (after s .s 4) (hideX d) fun t => HoldsX t d (value (xGet (curCtx s)))

/-- 11 R321 of the S-stream: the four division words on a divisor of zero, and on the most negative value divided by −1.
-/
def DivisionCorners : Prop :=
  ∀ (d a b : Fin 64) (s : State), runs s = true →
    (xGet (curCtx s) b = 0 →
      Completes (.div d a b) s .s (after s .s 4) (hideX d) (fun t => HoldsX t d 0xFFFFFFFFFFFFFFFF) ∧
      Completes (.divn d a b) s .s (after s .s 4) (hideX d) (fun t => HoldsX t d 0xFFFFFFFFFFFFFFFF) ∧
      Completes (.rem d a b) s .s (after s .s 4) (hideX d) (fun t => HoldsX t d (xGet (curCtx s) a)) ∧
      Completes (.remn d a b) s .s (after s .s 4) (hideX d) (fun t => HoldsX t d (xGet (curCtx s) a))) ∧
    (xGet (curCtx s) a = 0x8000000000000000 → xGet (curCtx s) b = 0xFFFFFFFFFFFFFFFF →
      Completes (.div d a b) s .s (after s .s 4) (hideX d) (fun t => HoldsX t d 0x8000000000000000) ∧
      Completes (.rem d a b) s .s (after s .s 4) (hideX d) (fun t => HoldsX t d 0))

/-- The tables of 14 R381 and R382, and SEL of R385: each word with its value from the S registers and the predicates. e
is imm12, n the shift count, c imm18. -/
def immediateTable (d a b : Fin 64) (p : Fin 8) (e : BitVec 12) (n : BitVec 6) (c : BitVec 18) :
    List (Instr × ((Fin 64 → Word) → (Fin 8 → Bool) → Word)) :=
  [(.addi d a e, fun x _ => BitVec.ofInt 64 ((x a).toInt + e.toInt)),
    (.andi d a e, fun x _ => x a &&& BitVec.ofInt 64 e.toInt),
    (.ori d a e, fun x _ => x a ||| BitVec.ofInt 64 e.toInt),
    (.xori d a e, fun x _ => x a ^^^ BitVec.ofInt 64 e.toInt),
    (.slli d a n, fun x _ => BitVec.ofNat 64 ((x a).toNat * 2 ^ n.toNat)),
    (.srli d a n, fun x _ => BitVec.ofNat 64 ((x a).toNat / 2 ^ n.toNat)),
    (.srai d a n, fun x _ => BitVec.ofInt 64 ((x a).toInt / 2 ^ n.toNat)),
    (.liw d c, fun _ _ => BitVec.ofInt 64 c.toInt),
    (.lis d c, fun x _ => BitVec.ofNat 64 ((x d).toNat * 2 ^ 18 + c.toNat)),
    (.sel d a b p, fun x q => if q p then x a else x b)]

/-- 14 R381, R382 and R385: the immediate words, the two constants and SEL complete in every state of a running task,
set X[d] as their rules say, and change nothing else. -/
def ImmediateWordsComputeTheTable : Prop :=
  ∀ (d a b : Fin 64) (p : Fin 8) (e : BitVec 12) (n : BitVec 6) (c : BitVec 18) (i : Instr)
    (value : (Fin 64 → Word) → (Fin 8 → Bool) → Word), (i, value) ∈ immediateTable d a b p e n c →
    ∀ s : State, runs s = true →
      Completes i s .s (after s .s 4) (hideX d) fun t => HoldsX t d (value (xGet (curCtx s)) (pGet (curCtx s)))

/-- Compare of 14 R383, for the conditions that are words: EQ, NE, LT, GE, LTN, GEN. -/
def compares (cc : BitVec 3) (a b : Word) : Bool :=
  [decide (a = b), decide (a ≠ b), decide (a.toInt < b.toInt), decide (b.toInt ≤ a.toInt), decide (a.toNat < b.toNat),
    decide (b.toNat ≤ a.toNat)].getD cc.toNat false

/-- 14 R383 and R384: CMP and CMPI with a condition that is a word set P[p] from the comparison and PLOG from its table;
they complete in every state of a running task and change nothing else. -/
def Obligations.PredicateWordsSetTheirPredicate : Prop :=
  ∀ s : State, runs s = true →
    (∀ p (cc : BitVec 3) a b, cc.toNat ≤ 5 → Completes (.cmp p cc a b) s .s (after s .s 4) (hideP p) fun t =>
      HoldsP t p (compares cc (xGet (curCtx s) a) (xGet (curCtx s) b))) ∧
    (∀ p (cc : BitVec 3) a (e : BitVec 12),
      cc.toNat ≤ 5 → Completes (.cmpi p cc a e) s .s (after s .s 4) (hideP p) fun t =>
      HoldsP t p (compares cc (xGet (curCtx s) a) (e.signExtend 64))) ∧
    ∀ d a b (table : BitVec 4), Completes (.plog d a b table) s .s (after s .s 4) (hideP d) fun t =>
      HoldsP t d (table.getLsbD ((if pGet (curCtx s) a then 2 else 0) + if pGet (curCtx s) b then 1 else 0))

/-- 14 R380 to R382: the integer words of the S-stream, with registers, at the corners of division, and with immediates.
-/
def Obligations.IntegerWordsComputeTheTable : Prop :=
  RegisterWordsComputeTheTable ∧ DivisionCorners ∧ ImmediateWordsComputeTheTable

/-! ### Scalar local memory, queues, tokens and events (14 R386 to R389, R395; 06 R170 to R174) -/

/-- The byte at address a of scalar local memory. -/
def slmByte (c : Ctx) (a : Nat) : Byte := memRead c.slm a

/-- The unbounded byte address of 14 R386. -/
def slmAddress (s : State) (a : Fin 64) (e : BitVec 12) : Int := (xGet (curCtx s) a).toNat + e.toInt

/-- 14 R386 and R387: at an address inside scalar local memory that is a multiple of 8, LDS reads and STS writes the 8
bytes from it, least significant first, and STS changes no other byte; LDARG reads an argument word. An address outside
faults with ACCESS, one inside that is no multiple of 8 with MISALIGN, and an argument number above 5 with ILLEGAL-WORD.
That the fault address of these traps is 0 is the model's reading (log entry 45). -/
def Obligations.ScalarLocalMemoryWords : Prop :=
  ∀ s : State, runs s = true → Memory.wf (curCtx s).slm = true → ∀ (d a : Fin 64) (e : BitVec 12),
    (∀ n : Nat, slmAddress s a e = n → n + 8 ≤ 16384 → n % 8 = 0 →
      Completes (.lds d a e) s .s (after s .s 4) (hideX d) (fun t =>
        HoldsX t d (BitVec.ofNat 64 (((List.range 8).map fun i => (slmByte (curCtx s) (n + i)).toNat * 256 ^ i).sum))) ∧
      Completes (.sts d a e) s .s (after s .s 4) (fun c => { c with slm := [] }) fun t => ∀ b,
        slmByte (curCtx t) b = if n ≤ b ∧ b < n + 8 then (xGet (curCtx s) d).extractLsb' (8 * (b - n)) 8
          else slmByte (curCtx s) b) ∧
    (slmAddress s a e < 0 ∨ slmAddress s a e + 8 > 16384 →
      Traps (.lds d a e) s .s .access 0 0 4 ∧ Traps (.sts d a e) s .s .access 0 0 4) ∧
    (0 ≤ slmAddress s a e → slmAddress s a e + 8 ≤ 16384 → slmAddress s a e % 8 ≠ 0 →
      Traps (.lds d a e) s .s .misalign 0 0 4 ∧ Traps (.sts d a e) s .s .misalign 0 0 4) ∧
    ∀ n : BitVec 12,
      (∀ h : n.toNat < 6, Completes (.ldarg d n) s .s (after s .s 4) (hideX d) fun t =>
        HoldsX t d ((curCtx s).args[n.toNat]'h)) ∧
      (6 ≤ n.toNat → Traps (.ldarg d n) s .s .illegalWord 0 0 4)

/-- The task without the queues 0, 1, 2 and 3 of 06 R170. -/
def hideScalarQueues (c : Ctx) : Ctx := { c with q := { c.q with qas := [], qsa := [], qvs := [], qb := [] } }

/-- 14 R388; 06 R171 to R173: QPUSH appends X[src] to the queue S to A or to qb when its consumer is enabled and it has
room, and waits while it is full; QPOP takes the oldest entry of A to S, once its load has returned, or of V to S when
its producer is enabled, and waits while there is none. No other queue changes. A partner that is not enabled makes
either word fault with QUEUE, and any other queue number with ILLEGAL-WORD. In a handler a wait is a QUEUE fault with
DETAIL 2 (10 R284). -/
def ScalarQueueWordsKeepOrder : Prop :=
  ∀ s : State, runs s = true → ∀ x : Fin 64, let c := curCtx s
    let v : QEntry Word := ⟨xGet c x, (roundOf c .s).isSome⟩
    ((getStream c .a).enabled = true → c.q.qsa.length < 32 →
      Completes (.qpush x 1) s .s (after s .s 4) hideScalarQueues fun t =>
        (curCtx t).q = { c.q with qsa := c.q.qsa ++ [v] }) ∧
    ((getStream c .v).enabled = true → c.q.qb.length < 16 →
      Completes (.qpush x 3) s .s (after s .s 4) hideScalarQueues fun t =>
        (curCtx t).q = { c.q with qb := c.q.qb ++ [v] }) ∧
    (∀ e r w, (getStream c .a).enabled = true → c.q.qas = e :: r → e.val = some w →
      Completes (.qpop x 0) s .s (after s .s 4) (fun c => hideX x (hideScalarQueues c)) fun t =>
        HoldsX t x (w.extractLsb' 0 64) ∧ (curCtx t).q = { c.q with qas := r }) ∧
    (∀ e r, (getStream c .v).enabled = true → c.q.qvs = e :: r →
      Completes (.qpop x 2) s .s (after s .s 4) (fun c => hideX x (hideScalarQueues c)) fun t =>
        HoldsX t x e.val ∧ (curCtx t).q = { c.q with qvs := r }) ∧
    (c.csr.inHandler = false →
      ((getStream c .a).enabled = true → 32 ≤ c.q.qsa.length → Waits (.qpush x 1) s .s) ∧
      ((getStream c .v).enabled = true → 16 ≤ c.q.qb.length → Waits (.qpush x 3) s .s) ∧
      ((getStream c .a).enabled = true → (∀ e, c.q.qas.head? = some e → e.val = none) → Waits (.qpop x 0) s .s) ∧
      ((getStream c .v).enabled = true → c.q.qvs = [] → Waits (.qpop x 2) s .s)) ∧
    (c.csr.inHandler = true →
      ((getStream c .a).enabled = true → 32 ≤ c.q.qsa.length → Traps (.qpush x 1) s .s .queue 2 0 4) ∧
      ((getStream c .v).enabled = true → 16 ≤ c.q.qb.length → Traps (.qpush x 3) s .s .queue 2 0 4) ∧
      ((getStream c .a).enabled = true → (∀ e, c.q.qas.head? = some e → e.val = none) →
        Traps (.qpop x 0) s .s .queue 2 0 4) ∧
      ((getStream c .v).enabled = true → c.q.qvs = [] → Traps (.qpop x 2) s .s .queue 2 0 4)) ∧
    ((getStream c .a).enabled = false → Traps (.qpush x 1) s .s .queue 0 0 4 ∧ Traps (.qpop x 0) s .s .queue 0 0 4) ∧
    ((getStream c .v).enabled = false → Traps (.qpush x 3) s .s .queue 0 0 4 ∧ Traps (.qpop x 2) s .s .queue 0 0 4) ∧
    (∀ q, q ≠ 1 → q ≠ 3 → Traps (.qpush x q) s .s .illegalWord 0 0 4) ∧
    ∀ q, q ≠ 0 → q ≠ 2 → Traps (.qpop x q) s .s .illegalWord 0 0 4

/-- The entries of each of the queues 0 to 8 (06 R170): a nest level takes two entries of the format queue (14 R394). That
loads which have not returned fill no entry is the model's reading (log entry 69). -/
def entriesOf (c : Ctx) : List Nat :=
  [(c.q.qas.takeWhile fun e => e.val.isSome).length, c.q.qsa.length, c.q.qvs.length, c.q.qb.length,
    (c.q.fmt.map fun e => match e.val with
      | .format _ => 1
      | .nest _ _ _ => 2).sum,
    (c.q.qap.takeWhile fun e => e.val.isSome).length, c.q.qpa.length, c.q.reply.length, c.q.events.length]

/-- 14 R388: QSTAT of a queue from 0 to 8 writes its occupancy to X[d], never waits and changes nothing else; a higher
number faults with ILLEGAL-WORD. That loads which have not returned fill no entry is the model's reading (log entry 69).
-/
def QstatReadsOccupancy : Prop :=
  ∀ s : State, runs s = true → ∀ (d : Fin 64) (q : BitVec 5),
    (∀ n, (entriesOf (curCtx s))[q.toNat]? = some n →
      Completes (.qstat d q) s .s (after s .s 4) (hideX d) fun t => HoldsX t d (BitVec.ofNat 64 n)) ∧
    (8 < q.toNat → Traps (.qstat d q) s .s .illegalWord 0 0 4)

/-- The task without the count of token n. -/
def hideToken (n : Fin 16) (c : Ctx) : Ctx := { c with tokens := c.tokens.set n.val 0 n.isLt }

/-- 06 R174 and 14 R389: TSIG adds one to a token below 255 and waits at 255; TWAIT takes one from a token above 0 and
waits at 0; neither changes another token. In a handler a wait is a QUEUE fault with DETAIL 2 (10 R284). -/
def TokenWordsCount : Prop :=
  ∀ s : State, runs s = true → ∀ n : Fin 16, let c := curCtx s
    ((c.tokens.get n).toNat < 255 → Completes (.tsig n) s .s (after s .s 4) (hideToken n) fun t =>
      ((curCtx t).tokens.get n).toNat = (c.tokens.get n).toNat + 1) ∧
    (0 < (c.tokens.get n).toNat → Completes (.twait n) s .s (after s .s 4) (hideToken n) fun t =>
      ((curCtx t).tokens.get n).toNat + 1 = (c.tokens.get n).toNat) ∧
    (c.csr.inHandler = false →
      ((c.tokens.get n).toNat = 255 → Waits (.tsig n) s .s) ∧ ((c.tokens.get n).toNat = 0 → Waits (.twait n) s .s)) ∧
    (c.csr.inHandler = true →
      ((c.tokens.get n).toNat = 255 → Traps (.tsig n) s .s .queue 2 0 4) ∧
      ((c.tokens.get n).toNat = 0 → Traps (.twait n) s .s .queue 2 0 4))

/-- 14 R395: EVPOP and EVWAIT take the oldest record of the event queue, its low half to X[d] and its high half to X[e],
which holds the high half when d and e are the same register; on an empty queue EVPOP writes zero to both, and EVWAIT
waits, or in a handler faults with QUEUE, DETAIL 2 (10 R284). -/
def EventWordsPopRecords : Prop :=
  ∀ s : State, runs s = true → ∀ d e : Fin 64, let c := curCtx s
    (∀ i, i = Instr.evpop d e ∨ i = Instr.evwait d e → ∀ r rest, c.q.events = r :: rest →
      Completes i s .s (after s .s 4) (fun c => hideX e (hideX d { c with q := { c.q with events := [] } })) fun t =>
        (e ≠ d → HoldsX t d (r.val.extractLsb' 0 64)) ∧ HoldsX t e (r.val.extractLsb' 64 64) ∧
        (curCtx t).q.events = rest) ∧
    (c.q.events = [] → Completes (.evpop d e) s .s (after s .s 4) (fun c => hideX e (hideX d c)) fun t =>
      HoldsX t d 0 ∧ HoldsX t e 0) ∧
    (c.q.events = [] → c.csr.inHandler = false → Waits (.evwait d e) s .s) ∧
    (c.q.events = [] → c.csr.inHandler = true → Traps (.evwait d e) s .s .queue 2 0 4)

/-! ### CSRs (14 R391, R392 and the rules of each register) -/

/-- What CSRR returns for each number of 13 R365 when it does not wait or fault: the register's fields at their places.
-/
def csrValue (s : State) (n : Nat) : Option Word :=
  let k := curCore s
  let t := k.ctx
  let c := t.csr
  let fields (l : List (Nat × Nat)) : Option Word := some (BitVec.ofNat 64 (l.map fun e => e.1 * 2 ^ e.2).sum)
  let b (x : Bool) : Nat := if x then 1 else 0
  match n with
  | 0x000 => some c.tvec
  | 0x001 => some c.tcause
  | 0x002 => fields [(b c.inHandler, 0), (c.act.toNat, 1), (b c.dbLost, 3), (b t.warn.isSome, 4), (k.fence.toNat, 6),
      (arrayMode k.fence, 10), (b (k.fence == 15), 12)]
  | 0x003 => fields [(c.trecSlot.toNat, 8)]
  | 0x010 => fields [(c.win, 0), (t.steer.length, 8)]
  | 0x011 => fields [(b c.nbv, 0)]
  | 0x012 => some c.vwv
  | 0x013 => some c.vwt
  | 0x014 => some c.vwa
  | 0x015 => fields [(c.vlc.toNat, 0)]
  | 0x016 => if othersDone s then fields [(c.vflags.toNat, 0)] else none
  | 0x018 => fields [((t.lc.get 0).toNat, 0)]
  | 0x019 => fields [((t.lc.get 1).toNat, 0)]
  | 0x01A => fields [((t.lc.get 2).toNat, 0)]
  | 0x01B => fields [((t.lc.get 3).toNat, 0)]
  | 0x020 => fields [(k.fwshare.toNat, 0)]
  | 0x021 => fields [(c.sti.toNat, 0)]
  | 0x030 => if s.cur.val < 64 then some c.cycle else some 0
  | 0x031 => some c.stretch
  | 0x032 => if s.cur.val < 64 then fields [(c.taskId.toNat, 0)] else some 0
  | 0x033 => fields [(s.cur.val, 0)]
  | 0x034 => fields [(if s.cur.val < 64 then 4 * (s.cur.val / 8 / 2) + s.cur.val % 8 / 2 else 0, 0)]
  | 0x035 => if s.cur.val < 64 then fields [(c.varidx.val, 0)] else some 0
  | 0x038 => fields [((c.specStop.get 0).toNat, 0)]
  | 0x039 => fields [((c.specStop.get 1).toNat, 0)]
  | 0x03A => fields [((c.specStop.get 2).toNat, 0)]
  | 0x03B => fields [((c.specStop.get 3).toNat, 0)]
  | 0x03C => if c.inHandler then fields [(c.bbase.toNat, 0), (c.bdepth.toNat, 4), (c.arrived.toNat, 9)] else none
  | 0x03D => fields [(s.seq.toNat, 0)]
  | _ => none

/-- 14 R391, R392; 10 R279 to R282: CSRR writes the value of the register's field map to X[d] and changes nothing else.
VFLAGS waits for the other streams, but not in a handler (06 R186; 10 R284), and BBASE faults with PRIV outside a
handler (09 R252). That ISLANDID reads 0 on a dispatch core is the model's choice (log entry 123). -/
def Obligations.CsrrReadsTheFieldMap : Prop :=
  ∀ s : State, runs s = true → ∀ (d : Fin 64) (n : BitVec 12),
    (∀ v, csrValue s n.toNat = some v → Completes (.csrr d n) s .s (after s .s 4) (hideX d) fun t => HoldsX t d v) ∧
    (othersDone s = false → Waits (.csrr d 0x016) s .s) ∧
    ((curCtx s).csr.inHandler = false → Traps (.csrr d 0x03C) s .s .priv 0 0 4)

/-- The registers whose writes keep exactly the bits of a mask, and the mask: TVEC, TREC, NBV, VFLAGS, LC0 to LC3 and
SPECSTOP0 to SPECSTOP3 (10 R279, R282; 06 R180; 11 R322; 14 R392; 12 R341). -/
def csrMasks : List (Nat × Word) :=
  [(0x000, 0xFFFFFFFFFFFFFFFD), (0x003, 0x3F00), (0x011, 1), (0x016, 0x7F), (0x018, 0xFFFFFFFF), (0x019, 0xFFFFFFFF),
    (0x01A, 0xFFFFFFFF), (0x01B, 0xFFFFFFFF), (0x038, 0x1FFFFFFFF), (0x039, 0x1FFFFFFFF), (0x03A, 0x1FFFFFFFF),
    (0x03B, 0x1FFFFFFFF)]

/-- The task without the registers of csrMasks. -/
def hideMaskedCsrs (c : Ctx) : Ctx :=
  { c with
    lc := Vector.replicate 4 0
    csr := { c.csr with tvec := 0, trecSlot := 0, nbv := false, vflags := 0, specStop := Vector.replicate 4 0 } }

/-- 14 R391: the three write forms. When no stream is behind the word, each writes the mask's bits of its value (X[a],
the old value OR X[a], the old value AND NOT X[a]) to a register of csrMasks, gives the old value to X[d] and changes
none of the other registers. -/
def CsrWritesTheMaskedValue : Prop :=
  ∀ s : State, runs s = true → othersDone s = true → ∀ (d a : Fin 64) (n : BitVec 12) (m old : Word),
    (n.toNat, m) ∈ csrMasks → csrValue s n.toNat = some old →
    ∀ i v, (i = Instr.csrw d a n ∧ v = xGet (curCtx s) a) ∨ (i = Instr.csrs d a n ∧ v = old ||| xGet (curCtx s) a) ∨
      (i = Instr.csrc d a n ∧ v = old &&& ~~~ xGet (curCtx s) a) →
      Completes i s .s (after s .s 4) (fun c => hideX d (hideMaskedCsrs c)) fun t => HoldsX t d old ∧
        (∀ u : State, curCtx u = curCtx t → othersDone u = true → csrValue u n.toNat = some (v &&& m)) ∧
        ∀ p, p ∈ csrMasks → p.1 ≠ n.toNat → ∀ u : State, curCtx u = curCtx t → othersDone u = true →
          csrValue u p.1 = csrValue s p.1

/-- 14 R391 and 13 R365: in task mode a write form faults with PRIV on every register that R365 marks PRIV, and changes
nothing before it does; outside a handler, and wherever it stands, a write of BBASE faults with PRIV. -/
def PrivilegedCsrWritesFault : Prop :=
  ∀ s : State, runs s = true → (curCtx s).system = false → ∀ (d a : Fin 64) (n : BitVec 12),
    n.toNat ∈ [0x001, 0x020, 0x030, 0x031, 0x032, 0x033, 0x034, 0x035, 0x03C, 0x03D] →
      Traps (.csrw d a n) s .s .priv 0 0 4 ∧ Traps (.csrs d a n) s .s .priv 0 0 4 ∧ Traps (.csrc d a n) s .s .priv 0 0 4

/-- 06 R170 to R173 and 14 R388: the queue words of the S-stream, and QSTAT. -/
def Obligations.QueueWordsKeepOrder : Prop :=
  ScalarQueueWordsKeepOrder ∧ QstatReadsOccupancy

/-- 06 R174; 14 R389 and R395: tokens and the event queue. -/
def Obligations.TokensAndEventsAreTaken : Prop :=
  TokenWordsCount ∧ EventWordsPopRecords

/-- What WIN, VWV, VWT, VWA, VLC and STI hold, as they read, of v written to them: WIN is clamped to 1 to 64 and lies
below the count of outstanding entries (06 R168); of a view the low 5 bits of BASE and the reserved bits are zero and a
STRIDE or COUNT of 0 is stored as 1 (06 R179); VLC and STI store 0 as 1 (16 R445; 10 R301). -/
def storedValue (s : State) (n : Nat) (v : Word) : Word :=
  let field (lo width : Nat) : Word := (v.extractLsb' lo width).setWidth 64
  let positive (x : Word) : Word := if x = 0 then 1 else x
  match n with
  | 0x010 => BitVec.ofNat 64 (max 1 (min 64 (field 0 7).toNat) + 256 * (curCtx s).steer.length)
  | 0x015 => positive (field 0 12)
  | 0x021 => positive (field 0 16)
  | _ => (field 5 18 <<< 5) ||| (positive (field 32 12) <<< 32) ||| (field 44 4 <<< 44) ||| (positive (field 48 13) <<< 48)

/-- The numbers of WIN, VWV, VWT, VWA, VLC and STI. -/
def shapedCsrs : List (BitVec 12) := [0x010, 0x012, 0x013, 0x014, 0x015, 0x021]

/-- The task without the registers of shapedCsrs, ACT and DOORBELL-LOST. -/
def hideShapedCsrs (c : Ctx) : Ctx :=
  { c with csr := { c.csr with win := 0, vwv := 0, vwt := 0, vwa := 0, vlc := 0, sti := 0, act := 0, dbLost := false } }

/-- The value v that the write form i of register n, which reads as old, writes from X[a], and the bits clear that it
names to be cleared (14 R391). -/
def WritesValue (s : State) (i : Instr) (d a : Fin 64) (n : BitVec 12) (old v clear : Word) : Prop :=
  (i = .csrw d a n ∧ v = xGet (curCtx s) a ∧ clear = xGet (curCtx s) a) ∨
  (i = .csrs d a n ∧ v = old ||| xGet (curCtx s) a ∧ clear = xGet (curCtx s) a) ∨
  (i = .csrc d a n ∧ v = old &&& ~~~ xGet (curCtx s) a ∧ clear = 0)

/-- 06 R168, R179; 10 R281; 14 R391, R392: the write forms on WIN, the views, VLC, STI and TSTAT. When no stream is behind
the word, each gives the old value to X[d] and stores the value of storedValue; on TSTAT it stores ACT, 3 as 2, and clears
DOORBELL-LOST where X[a] holds a 1 at its bit and the form is not CSRC. None of the other registers changes. -/
def CsrWritesShapeTheValue : Prop :=
  ∀ s : State, runs s = true → othersDone s = true → ∀ (d a : Fin 64) (n : BitVec 12) (old : Word),
    csrValue s n.toNat = some old → ∀ i v clear, WritesValue s i d a n old v clear →
    (n ∈ shapedCsrs → Completes i s .s (after s .s 4) (fun c => hideX d (hideShapedCsrs c)) fun t => HoldsX t d old ∧
      csrValue t n.toNat = some (storedValue s n.toNat v) ∧
      ∀ m, m ∈ (0x002 : BitVec 12) :: shapedCsrs → m ≠ n → csrValue t m.toNat = csrValue s m.toNat) ∧
    (n = 0x002 → Completes i s .s (after s .s 4) (fun c => hideX d (hideShapedCsrs c)) fun t => HoldsX t d old ∧
      (curCtx t).csr.act = (if v.extractLsb' 1 2 = 3 then 2 else v.extractLsb' 1 2) ∧
      (curCtx t).csr.dbLost = ((curCtx s).csr.dbLost && !clear.getLsbD 3) ∧
      ∀ m, m ∈ shapedCsrs → csrValue t m.toNat = csrValue s m.toNat)

/-- The instruction i of the S-stream completes at s with everything the same but what every word changes, what hide takes
out of the task, and what out takes out of the state. -/
def CompletesHub (i : Instr) (s : State) (hide : Ctx → Ctx) (out : State → State) (post : State → Prop) : Prop :=
  ∃ t, exec i s = .next t ∧ Moved s t .s (after s .s 4) ∧ OneCycle s t ∧ SameBut (out s) (out t) .s hide ∧
    MemorySame s t ∧ post t

/-- 03 R95; 09 R252; 13 R365; 14 R391, R392: the write forms in system mode. On a read-only register each gives the old
value to X[d] and changes nothing else; on FWSHARE it stores bits 2 to 0, 5 to 7 as 4; on BBASE it faults with PRIV. -/
def SystemCsrWritesComplete : Prop :=
  ∀ s : State, runs s = true → (curCtx s).system = true → ∀ (d a : Fin 64) (n : BitVec 12),
    (∀ i, i ∈ [Instr.csrw d a 0x03C, .csrs d a 0x03C, .csrc d a 0x03C] → Traps i s .s .priv 0 0 4) ∧
    ∀ old, csrValue s n.toNat = some old → ∀ i v clear, WritesValue s i d a n old v clear →
      (n.toNat ∈ [0x001, 0x030, 0x031, 0x032, 0x033, 0x034, 0x035, 0x03D] →
        Completes i s .s (after s .s 4) (hideX d) fun t => HoldsX t d old) ∧
      (n = 0x020 → CompletesHub i s (hideX d) (fun s => modCore s s.cur fun k => { k with fwshare := 0 }) fun t =>
        HoldsX t d old ∧ (curCore t).fwshare.toNat = min 4 (v.extractLsb' 0 3).toNat)

/-- 13 R365; 14 R390 and R391: what a CSR write stores, and the writes that fault. -/
def Obligations.CsrWordsWriteOrFault : Prop :=
  CsrWritesTheMaskedValue ∧ CsrWritesShapeTheValue ∧ SystemCsrWritesComplete ∧ PrivilegedCsrWritesFault

/-! ### Format words, energy and variants (14 R393, R394; 04 R121, R125 to R127) -/

/-- The task without the format queue and the count of format words. -/
def hideFormats (c : Ctx) : Ctx := { c with q := { c.q with fmt := [] }, fmtPushed := 0, fmtFirst := [] }

/-- The entries of the format queue: a nest level counts as two (14 R394). -/
def formatEntries (c : Ctx) : Nat := (entriesOf c).getD 4 0

/-- 14 R393 and R394; 04 R121: FMTPUSH appends X[a] to the format queue with the bits that OMASK of the current variant
names taken from its OVAL; NESTW appends the two entries of a nest level in one step. Each waits until its entries fit,
faults with QUEUE when the M-stream is not enabled, and NESTW faults with ILLEGAL-WORD on level 6 or 7. -/
def FormatWordsAreQueued : Prop :=
  ∀ s : State, runs s = true → ∀ (a b : Fin 64) (l : BitVec 3), let c := curCtx s
    let v := c.variants.get c.csr.varidx
    let mode := (roundOf c .s).isSome
    ((getStream c .m).enabled = true → formatEntries c < 32 →
      Completes (.fmtpush a) s .s (after s .s 4) hideFormats fun t => ∃ w : Word,
        (curCtx t).q = { c.q with fmt := c.q.fmt ++ [⟨.format w, mode⟩] } ∧
        (∀ i < 64, w.getLsbD i = if v.omask.getLsbD i then v.oval.getLsbD i else (xGet c a).getLsbD i) ∧
        (curCtx t).fmtPushed = c.fmtPushed + 1) ∧
    ((getStream c .m).enabled = true → l.toNat ≤ 5 → formatEntries c ≤ 30 →
      Completes (.nestw a b l) s .s (after s .s 4) hideFormats fun t =>
        (curCtx t).q = { c.q with fmt := c.q.fmt ++ [⟨.nest l.toNat (xGet c a) (xGet c b), mode⟩] } ∧
        (curCtx t).fmtPushed = c.fmtPushed) ∧
    ((getStream c .m).enabled = true → c.csr.inHandler = false →
      (32 ≤ formatEntries c → Waits (.fmtpush a) s .s) ∧
      (l.toNat ≤ 5 → 31 ≤ formatEntries c → Waits (.nestw a b l) s .s)) ∧
    ((getStream c .m).enabled = false → Traps (.fmtpush a) s .s .queue 0 0 4 ∧
      (l.toNat ≤ 5 → Traps (.nestw a b l) s .s .queue 0 0 4)) ∧
    (6 ≤ l.toNat → Traps (.nestw a b l) s .s .illegalWord 0 0 4)

/-- JCORE of 04 R113: floor(CAL × Σ (c × V²) / (100 × 202,500 × 65,536)). -/
def coreJoules (a : Account) : Nat := a.cal.toNat * a.work / (100 * 202500 * 65536)

/-- What BUDGET reads for each selector (04 R125), of the island with the units taken that its meter has reached (04
R116): the approximate total lacks what the reservation slot holds, the exact total counts it (09 R266, R269), and the
pending point lies one below the point at which the island will be. That cores hold no allowance, and the count of
selector 6 for a variant no word of which was pushed, are the model's (log entries 132 and 44). -/
def budgetTable (s : State) : List Nat :=
  let i := (getIsland s (islandOf s.cur)).metered
  let c := curCtx s
  [i.total - i.slot, i.total, i.grant,
    i.op.toNat + (if i.downPend then 16 * (i.opNext.getD i.op - 1).toNat + 256 else 16 * i.op.toNat),
    i.debt, c.acct.reserved % 2 ^ 32 + 2 ^ 32 * (c.acct.settled % 2 ^ 32),
    ((c.fmtFirst.find? fun e => e.1 == c.csr.varidx.val).map fun e => e.2).getD c.fmtPushed]

/-- 04 R124 to R126: BUDGET with a selector from 0 to 6 writes the table's value to X[d] and never waits; the exact read
of selector 1 takes back what the reservation slot holds. JOULE with a selector from 0 to 3 waits for the other streams,
then writes JCORE + JMEM, JCORE, JMEM or CAL. A higher selector faults with ILLEGAL-WORD. That the reservation slot
alone holds a part of the allowance, and what selector 6 counts for a variant no word of which was pushed, are the
model's (log entries 132 and 44). -/
def EnergyWordsReadTheAccount : Prop :=
  ∀ s : State, runs s = true → ∀ (d : Fin 64) (sel : BitVec 12), let a := (curCtx s).acct
    (∀ v, (budgetTable s)[sel.toNat]? = some v →
      (sel ≠ 1 → Completes (.budget d sel) s .s (after s .s 4) (hideX d) fun t => HoldsX t d (BitVec.ofNat 64 v)) ∧
      (sel = 1 → CompletesHub (.budget d sel) s (hideX d) (fun s => modIsland s (islandOf s.cur) Island.recalled) fun t =>
        HoldsX t d (BitVec.ofNat 64 v) ∧
        getIsland t (islandOf s.cur) = (getIsland s (islandOf s.cur)).recalled)) ∧
    (6 < sel.toNat → Traps (.budget d sel) s .s .illegalWord 0 0 4) ∧
    (othersDone s = true → ∀ v, [coreJoules a + a.jmem.toNat, coreJoules a, a.jmem.toNat,
      a.cal.toNat][sel.toNat]? = some v →
      Completes (.joule d sel) s .s (after s .s 4) (hideX d) fun t => HoldsX t d (BitVec.ofNat 64 v)) ∧
    (othersDone s = false → sel.toNat ≤ 3 → Waits (.joule d sel) s .s) ∧
    (3 < sel.toNat → Traps (.joule d sel) s .s .illegalWord 0 0 4)

/-- The task without VARIDX. -/
def hideVariant (c : Ctx) : Ctx := { c with csr := { c.csr with varidx := 0 } }

/-- 04 R127: VARSEL selects a valid variant and gives the old number, or gives all ones and changes nothing; in
speculative mode it faults with SPEC-ILLEGAL. -/
def VarselSelectsAVariant : Prop :=
  ∀ s : State, runs s = true → ∀ (d a : Fin 64) (e : BitVec 12), let c := curCtx s
    let n : Int := (xGet c a).toInt + e.toInt
    (roundOf c .s = none → ∀ v : Fin 4, n = v.val → (c.variants.get v).valid = true →
      Completes (.varsel d a e) s .s (after s .s 4) (fun c => hideX d (hideVariant c)) fun t =>
        HoldsX t d (BitVec.ofNat 64 c.csr.varidx.val) ∧ (curCtx t).csr.varidx = v) ∧
    (roundOf c .s = none → n < 0 ∨ 3 < n ∨ (∃ v : Fin 4, n = v.val ∧ (c.variants.get v).valid = false) →
      Completes (.varsel d a e) s .s (after s .s 4) (hideX d) fun t => HoldsX t d 0xFFFFFFFFFFFFFFFF) ∧
    (roundOf c .s ≠ none → Traps (.varsel d a e) s .s .specIllegal 0 0 4)

/-! ### Traps, handlers and triggers (10 R272 to R286; 14 R396 to R398) -/

/-- 10 R283 and R284: on a tile core whose task is quiet and has a handler installed that does not run, taking a trap of
a user cause starts the handler. -/
def Obligations.UserTrapStartsTheHandler : Prop :=
  ∀ (s : State) (c : CoreId) (i : TrapInfo), Handled s c → Quiet s c → Memory.wf (getCore s c).ctx.slm = true →
    i.fatal = false → i.cause ≠ .preempt → i.cause ≠ .cancel → i.source < 256 → i.detail < 256 →
    HandlerStarted s (takeTrap s c i) c i

/-- 14 R396: TRAP retires and starts the handler with SOFTWARE: the record holds imm12 as the fault address, no parcel,
and the word after TRAP as the S-stream's resume PC. -/
def TrapWordEntersTheHandler : Prop :=
  ∀ (s : State) (e : BitVec 12), Handled s s.cur → Quiet s s.cur → Memory.wf (curCtx s).slm = true →
    ∃ u t, exec (.trap e) s = .next t ∧ Moved s u .s (after s .s 4) ∧ OneCycle s u ∧ SameBut s u .s hideNone ∧
      HandlerStarted u t s.cur
        { cause := .software, source := 0, detail := 0, faddr := e.setWidth 72, status := 0, len := 0, fatal := false
          rerun := false, sfirst := 0, slast := 0, sfstep := 0xFFFFFFFF, slstep := 0xFFFFFFFF }

/-- The task without what RETT changes. -/
def hideReturn (c : Ctx) : Ctx :=
  { c with
    streams := c.streams.map fun x => { x with pc := 0, ended := false, ret := [], waiting := false }
    handling := none
    csr := { c.csr with inHandler := false, act := 0 }
    aq := { c.aq with ask := [], now := [], ringWait := none } }

/-- 10 R286: RETT in a handler with ACT RETRY, or with ACT SKIP for a word that is no shared control word, resumes every
stream at its resume PC, the stream of a skipped word past that word (a discarded round resumes at SPECON whatever ACT is,
12 R349), clears INHANDLER and ACT and, with no warning or array trap pending, changes nothing else. Outside a handler RETT faults with PRIV. -/
def RettResumesEveryStream : Prop :=
  ∀ (s : State) (h : Handling), runs s = true → (curCtx s).csr.inHandler = true → (curCtx s).handling = some h →
    (curCtx s).m.suspect = none → (curCtx s).warn = none → h.info.source < 5 → (curCtx s).csr.act ≠ 2 →
    ((curCtx s).csr.act = 1 → h.info.len ≠ 0 → h.spec = false → h.info.status.toNat / 2 ^ 28 ≠ 15) →
    let past (st : Stream) : Word :=
      if (curCtx s).csr.act = 1 ∧ h.info.len ≠ 0 ∧ h.spec = false ∧ (sIdx st).val = h.info.source
      then BitVec.ofNat 64 h.info.len else 0
    Completes .rett s .s (h.rpc + past .s) hideReturn fun t =>
      (curCtx t).csr.inHandler = false ∧ (curCtx t).csr.act = 0 ∧ (curCtx t).handling = none ∧
      (getStream (curCtx t) .s).ended = h.ended ∧ (getStream (curCtx t) .s).ret = h.ret ∧
      ∀ st, (getStream (curCtx t) st).waiting = false ∧ (st ≠ .s →
        (getStream (curCtx t) st).pc = (getStream (curCtx s) st).pc + past st ∧
        (getStream (curCtx t) st).ended = (getStream (curCtx s) st).ended ∧
        (getStream (curCtx t) st).ret = (getStream (curCtx s) st).ret)

/-- 10 R286 and 14 R398: RETT outside a handler faults with PRIV, and TRIGGER in speculative mode with SPEC-ILLEGAL;
otherwise TRIGGER retires without waiting, the task's first fixes its trigger point in text order, where the A-stream may
have come past it (in a handler, before the word at which the S-stream resumes), and a later one changes nothing. -/
def TriggerFixesOnePoint : Prop :=
  ∀ s : State, runs s = true → let c := curCtx s
    (c.csr.inHandler = false → Traps .rett s .s .priv 0 0 4) ∧
    (roundOf c .s ≠ none → Traps .trigger s .s .specIllegal 0 0 4) ∧
    (roundOf c .s = none → c.triggered = true → Completes .trigger s .s (after s .s 4) hideNone fun _ => True) ∧
    (roundOf c .s = none → c.triggered = false →
      Completes .trigger s .s (after s .s 4) (fun c => { c with trigger := none, triggered := false }) fun t =>
        (curCtx t).triggered = true ∧ ∃ p, (curCtx t).trigger = some p ∧ p.entries = c.steer.length ∧
        (c.csr.inHandler = false → p.pc = (getStream c .s).pc) ∧
        (∀ h, c.csr.inHandler = true → c.handling = some h → p.pc = h.rpc - 4) ∧
        p.stamp = (c.ahead.find? fun e => e.1 == .a && e.2.1 == p.pc).map fun e => e.2.2)

/-! ### Carry speculation (12 R340 to R347) -/

/-- The word after the S-stream's word at hand is fetched, and is the parcel p. -/
def NextParcel (s : State) (p : Parcel) : Prop :=
  fetchParcel s s.cur (curCtx s).asid ((getStream (curCtx s) .s).pc + 4).toNat = (some p, s)

/-- The task without its speculative state. -/
def hideSpec (c : Ctx) : Ctx := { c with spec := Spec.off }

/-- 12 R340 and R341: SPECON before a CALL on p0, with n from 1 to 15 and a carry vector that is a multiple of 64 and
lies in 0x40_0000 to 0x44_0000, opens the round that it describes for the S-stream alone; in speculative mode it faults
with SPEC-ILLEGAL, with another carry vector with OPERAND-RANGE, and before any other word, or with n = 0, with
ILLEGAL-WORD. -/
def SpeconOpensARound : Prop :=
  ∀ s : State, runs s = true → ∀ (j x : Fin 64) (n : BitVec 4) (p : Parcel), NextParcel s p →
    let c := curCtx s
    let cv := (xGet c x).toNat
    ((∃ off, decodeTableWord 32 p.toNat = some (.call 0 false off)) →
      (n ≠ 0 → roundOf c .s = none → cv % 64 = 0 → 0x400000 ≤ cv → cv + 4 * (n.toNat + 1) ≤ 0x440000 →
        Completes (.specon j x n) s .s (after s .s 4) hideSpec fun t => ∃ r,
          roundOf (curCtx t) .s = some r ∧ r.n = n.toNat ∧ r.cv = cv ∧ r.journal = xGet c j ∧
          (∀ k v, (k, v) ∈ r.stops ↔ ∃ h : k < 4, (c.csr.specStop[k]).getLsbD 32 = true ∧
            v = (c.csr.specStop[k]).extractLsb' 0 32) ∧
          (∀ st, st ≠ .s → roundOf (curCtx t) st = roundOf c st) ∧ (curCtx t).spec.closings = c.spec.closings) ∧
      (n = 0 → Traps (.specon j x n) s .s .illegalWord 0 0 4) ∧
      (n ≠ 0 → roundOf c .s ≠ none → Traps (.specon j x n) s .s .specIllegal 0 0 4) ∧
      (n ≠ 0 → roundOf c .s = none → cv % 64 ≠ 0 ∨ cv < 0x400000 ∨ 0x440000 < cv + 4 * (n.toNat + 1) →
        Traps (.specon j x n) s .s .operandRange 0 0 4)) ∧
    ((∀ off, decodeTableWord 32 p.toNat ≠ some (.call 0 false off)) → Traps (.specon j x n) s .s .illegalWord 0 0 4)

/-- 12 R340, R342 and R347: before a NOPX, SPECCOMMIT of a round without a journal commits L = X[a] bits 3 to 0 when L
is at most SpecN, gives L to X[d], ends the S-stream's speculative mode, and leaves the commit to the A-stream when that
runs; a greater L faults with SPEC-ILLEGAL. SPECABORT ends the mode and leaves the abort. Outside speculative mode both
fault with ILLEGAL-WORD. No warning is pending in these states. -/
def RoundsCloseForTheSStream : Prop :=
  ∀ s : State, runs s = true → ∀ (d a : Fin 64) (p : Parcel) (e : BitVec 4), let c := curCtx s
    (roundOf c .s = none → Traps (.speccommit d a) s .s .illegalWord 0 0 4 ∧ Traps .specabort s .s .illegalWord 0 0 4) ∧
    ∀ r, NextParcel s p → decodeTableWord 32 p.toNat = some (.nopx e) → roundOf c .s = some r → c.warn = none →
      c.m.suspect = none →
      let l := (xGet c a).toNat % 16
      let leaves (x : Closing) (t : State) : Prop := roundOf (curCtx t) .s = none ∧ (curCtx t).spec.snap = none ∧
        (curCtx t).spec.arm = .leave ∧ (∀ st, st ≠ .s → roundOf (curCtx t) st = roundOf c st) ∧
        (curCtx t).spec.closings = if live c .a then c.spec.closings ++ [x] else c.spec.closings
      (r.journal = 0 → l ≤ r.n → Completes (.speccommit d a) s .s (after s .s 4) (fun c =>
        hideX d (hideSpec c)) fun t =>
        HoldsX t d (BitVec.ofNat 64 l) ∧ leaves ⟨r, true, l, (xGet c a).getLsbD 4, false⟩ t) ∧
      (r.journal = 0 → r.n < l → Traps (.speccommit d a) s .s .specIllegal 0 0 4) ∧
      Completes .specabort s .s (after s .s 4) hideSpec fun t => leaves ⟨r, false, 0, false, false⟩ t

/-! ### System mode (14 R378, R399 to R402) -/

/-- 14 R378 and R399 to R402: the four words of system mode fault with PRIV in task mode, an INVR of KIND 0 with
ILLEGAL-WORD in either; LAUNCH and HALTC fault with ACCESS on every agent but the primary dispatch core. -/
def SystemWordsArePrivileged : Prop :=
  ∀ s : State, runs s = true → ∀ (d a b : Fin 64) (q : BitVec 6) (all off : Bool) (kind : BitVec 2),
    ((curCtx s).system = false → (∀ i, i ∈ [Instr.launch d a b q, .reclass d a b, .haltc d a off] →
      Traps i s .s .priv 0 0 4) ∧ (kind ≠ 0 → Traps (.invr a b all kind) s .s .priv 0 0 4)) ∧
    Traps (.invr a b all 0) s .s .illegalWord 0 0 4 ∧
    ((curCtx s).system = true → s.cur.val ≠ (if s.disp.primary then 65 else 64) →
      Traps (.launch d a b q) s .s .access 0 0 4 ∧ Traps (.haltc d a off) s .s .access 0 0 4)

/-- s without the caches of the home slices, at which hub words read. -/
def withoutHomeSlices (s : State) : State := { s with home := Vector.replicate 64 [] }

/-- 05 R138, with 04 R120, 05 R128 to R130 and R136: the dispatcher refuses the launch record r on a card that is paired
or not. (A BDEPTH above 16, which R129 excludes and R138 does not name, is the model's reading: log entry 125.) -/
def RecordRefused (paired : Bool) (r : BitVec 2048) : Prop :=
  let field (lo width : Nat) : Nat := (r.extractLsb' lo width).toNat
  let nlev := field 8 4
  let nfoot := field 16 4
  let extent (l : Nat) := field (128 + 32 * l) 16
  let domain (l : Nat) := field (128 + 32 * l + 16) 3
  let scope (l : Nat) := field (128 + 32 * l + 19) 3
  let bdepth (l : Nat) := field (128 + 32 * l + 23) 5
  let gang (l : Nat) := r.getLsbD (128 + 32 * l + 22)
  let groupSize (l : Nat) := (((List.range nlev).drop (l + 1)).map extent).prod
  let valid (v : Nat) := r.getLsbD (384 + 192 * v + 39)
  field 0 8 ≠ 1 ∨ nlev = 0 ∨ 8 < nlev ∨ 8 < nfoot ∨
  field 15 1 ≠ 0 ∨ field 20 4 ≠ 0 ∨ field 26 6 ≠ 0 ∨ field 44 4 ≠ 0 ∨ field 112 16 ≠ 0 ∨
  (∃ l < 8, if l < nlev then field (128 + 32 * l + 28) 4 ≠ 0 else field (128 + 32 * l) 32 ≠ 0) ∨
  (∃ l < nlev, extent l = 0 ∨ 4 < domain l ∨ 4 < scope l ∨ 16 < bdepth l ∨
    scope l < [0, 1, 2, 2, 3].getD (domain l) 0 ∨
    (l + 1 < nlev ∧ (domain l < domain (l + 1) ∨ scope l < scope (l + 1))) ∨
    (domain l = 4 ∧ (bdepth l ≠ 0 ∨ l ≠ 0 ∨ extent l % 2 = 1 ∨ paired = false)) ∨
    (∃ m < l, bdepth m ≠ 0 ∧ bdepth l ≠ 0) ∨
    (gang l = true ∧ ([1, 4, 16, 64, 64].getD (domain l) 0 < groupSize l ∨
      ∃ m < nlev, l < m ∧ domain m = 0 ∧ 1 < groupSize m))) ∨
  2 ^ 32 < ((List.range nlev).map extent).prod ∨
  (∃ v < 4, field (384 + 192 * v) 2 ≠ 0 ∨ field (384 + 192 * v + 35) 4 ≠ 0 ∨ field (384 + 192 * v + 40) 24 ≠ 0 ∨
    (valid v = true ∧ ∃ w < v, valid w = false)) ∨
  valid 0 = false ∨ valid (field 24 2) = false ∨ field 96 16 = 0 ∨ 4000 < field 96 16 ∨
  (∃ j < 8, if j < nfoot then nlev ≤ field (1152 + 64 * j + 4) 3 ∨ 40 < field (1152 + 64 * j + 56) 6 ∨
      field (1152 + 64 * j + 62) 2 ≠ 0
    else field (1152 + 64 * j) 64 ≠ 0)

/-- 14 R399: LAUNCH on the primary dispatch core of a block in this card's memory at a multiple of 256 gives status 2
for a kernel number in the table and status 3 for a queue that is not MAPPED or is UNMAPPING, with no other effect;
otherwise it enters the kernel as the last in dispatch order, of queue q, with the record that the block holds, and
gives 0, or 1 with the kernel stopped when the record is refused (05 R138) or the launch job that handed it over had a
relocation value above region 0xEF (15 R432). A block that is not aligned faults with MISALIGN, one outside this card's
memory with ACCESS. That a number which nothing handed over counts as a kernel of slot 0, and the fault addresses, are
the model's readings (log entries 71 and 45). -/
def LaunchEntersTheKernel : Prop :=
  ∀ s : State, runs s = true → (curCtx s).system = true → s.cur.val = (if s.disp.primary then 65 else 64) →
    ∀ (d a b : Fin 64) (q : BitVec 6), let pa := (xGet (curCtx s) a).toNat
      let n : BitVec 32 := (xGet (curCtx s) b).extractLsb' 0 32
      let hw := s.disp.hwqs.get ⟨q.toNat, q.isLt⟩
      (pa % 256 ≠ 0 → Traps (.launch d a b q) s .s .misalign 0 0 4) ∧
      (pa % 256 = 0 → placeOf s pa ≠ .local → Traps (.launch d a b q) s .s .access 0 (BitVec.ofNat 72 pa) 4) ∧
      (pa % 256 = 0 → placeOf s pa = .local → placeOf s (pa + 383) = .local →
        (n ∈ s.disp.numbers → CompletesHub (.launch d a b q) s (hideX d) withoutHomeSlices fun t => HoldsX t d 2) ∧
        (n ∉ s.disp.numbers → hw.mapped = false ∨ hw.unmapping = true →
          CompletesHub (.launch d a b q) s (hideX d) withoutHomeSlices fun t => HoldsX t d 3) ∧
        (n ∉ s.disp.numbers → hw.mapped = true → hw.unmapping = false →
          let handed := s.disp.handed.find? fun h => h.kernel == n
          CompletesHub (.launch d a b q) s (hideX d) (fun s => withoutHomeSlices { s with
              slots := vset s.slots 0 { s.slots.get 0 with refs := 0 }
              disp := { s.disp with kernels := [], order := [], numbers := [], handed := [] } }) fun t =>
            t.disp.handed = s.disp.handed.filter (fun h => h.kernel != n) ∧
            (t.slots.get 0).refs = (s.slots.get 0).refs + (if handed = none then 1 else 0) ∧
            ∃ k, t.disp.kernels = s.disp.kernels ++ [k] ∧ k.num = n ∧ k.hwq = q.toNat ∧ k.live = [] ∧ k.next = 0 ∧
              (∀ h, handed = some h → k.slot = h.slot ∧ k.context = h.context ∧ k.origin = h.origin) ∧
              k.record = parseRecord (ofBytes 2048 (physRead s pa 256)) ∧
              (∀ j : Fin 8, k.rl.get j = ofBytes 72 (physRead s (pa + 256 + 16 * j.val) 9)) ∧
              t.disp.order = s.disp.order ++ [(false, n.toNat)] ∧ t.disp.numbers = s.disp.numbers ++ [n] ∧
              let refused := RecordRefused s.links.paired (ofBytes 2048 (physRead s pa 256)) ∨
                ∃ h, handed = some h ∧ h.relocOk = false
              (¬refused → k.status = none ∧ k.cancelled = false ∧ HoldsX t d 0) ∧
              (refused → k.status = some 4 ∧ k.cancelled = true ∧ HoldsX t d 1)))

/-- 14 R402: HALTC on the primary dispatch core, with X[a] below 64, makes that core offline or online and gives 1 to
X[d] when a task was resident, 0 otherwise; a greater X[a] faults with ACCESS. -/
def HaltcSetsTheOfflineState : Prop :=
  ∀ s : State, runs s = true → (curCtx s).system = true → s.cur.val = (if s.disp.primary then 65 else 64) →
    ∀ (d a : Fin 64) (off : Bool), let x := (xGet (curCtx s) a).toNat
      (64 ≤ x → Traps (.haltc d a off) s .s .access 0 0 4) ∧
      (x < 64 → CompletesHub (.haltc d a off) s (hideX d) (fun s => modCore s (coreOf x) fun k =>
        { k with offline := false })
        fun t => (getCore t (coreOf x)).offline = off ∧ HoldsX t d (if (getCore s (coreOf x)).busy then 1 else 0))

/-- s without the translations and instruction lines that holders keep, the lines of their data caches, and the
invalidations that wait. -/
def withoutTranslations (s : State) : State :=
  { s with
    invPend := []
    walkFills := 0
    cores := s.cores.map fun k => { k with tlb := [], itlb := [], icache := [], l1 := [] }
    islands := s.islands.map fun i => { i with tlb := [], ibuf := [], cache := [] }
    engTlb := s.engTlb.map fun _ => [] }

/-- No access of a core, a job, a sample or a journal is on its way. -/
def NothingOut (s : State) : Prop :=
  (∀ c, (getCore s c).ctx.aq.loads = [] ∧ (getCore s c).ctx.aq.stores = [] ∧ (getCore s c).ctx.aq.inflight = [] ∧
    (getCore s c).ctx.aq.ask = [] ∧ (getCore s c).jio = EngIo.none) ∧
  (∀ j ∈ s.jobs, j.io = EngIo.none) ∧ (∀ r ∈ s.samples, r.io = EngIo.none) ∧ s.jwrites = []

/-- No L1 holds a line that its memory does not have yet. -/
def NothingDirty (s : State) : Prop := ∀ c, ∀ l ∈ (getCore s c).l1, l.dirty = false

/-- The range that an invalidation names: its ends as region and offset, its ASID where it names one, and whether it
reaches data and instruction translations (07 R209). -/
structure Range where
  lo   : Nat
  hi   : Nat
  asid : Option (BitVec 16)
  data : Bool
  text : Bool

/-- A translation that the invalidation removes: of its kind, meeting its range, and of its ASID or GLOBAL. -/
def Range.removes (r : Range) (e : TlbEntry) : Prop :=
  (if e.fetch then r.text = true else r.data = true) ∧ e.va < r.hi ∧ r.lo < e.va + 2 ^ e.bits ∧
    (r.asid = none ∨ r.asid = some e.asid ∨ e.leaf.getLsbD 10 = true)

/-- t holds of the translations of s those that the invalidation does not remove. -/
def Invalidated (r : Range) (s t : State) : Prop :=
  (∀ c e, e ∈ (getCore t c).tlb ↔ e ∈ (getCore s c).tlb ∧ ¬r.removes e) ∧
  (∀ c e, e ∈ (getCore t c).itlb ↔ e ∈ (getCore s c).itlb ∧ ¬r.removes e) ∧
  ∀ i e, e ∈ (getIsland t i).tlb ↔ e ∈ (getIsland s i).tlb ∧ ¬r.removes e

/-- 14 R400; 07 R209, R210: INVR in system mode. A length of 0 completes at once with no effect. A range below region
0xF0 that does not carry out of the offset: with no access on its way and no line dirty, INVR removes the translations
of its ASID (or of every ASID) and of its kind that meet the range, and completes; with an access on its way it removes
them and completes or waits. Once the invalidation has completed, the word completes. That it completes in the step that
issues it, and that length 0 completes at region 0xF0 or above too, are the model's (log entries 114 and 68). -/
def InvrRemovesAndThenCompletes : Prop :=
  ∀ s : State, runs s = true → (curCtx s).system = true → (curCtx s).csr.inHandler = false →
    ∀ (a b : Fin 64) (all : Bool) (kind : BitVec 2), kind ≠ 0 →
      let x := (xGet (curCtx s) b).toNat
      let len := x / 2 ^ 24 * 4096
      let r := x / 2 ^ 16 % 256
      let lo := (xGet (curCtx s) a).toNat / 4096 * 4096
      let range : Range := { lo := r * 2 ^ 64 + lo, hi := r * 2 ^ 64 + lo + len
                             asid := if all then none else some (BitVec.ofNat 16 x)
                             data := kind.getLsbD 0, text := kind.getLsbD 1 }
      (∀ v, s.invPend.find? (fun v => v.core == s.cur) = some v → v.done = true →
        CompletesHub (.invr a b all kind) s hideNone (fun s => { s with invPend := [] }) fun t =>
          t.invPend = s.invPend.filter fun v => v.core != s.cur) ∧
      (s.invPend.find? (fun v => v.core == s.cur) = none →
        (len = 0 → Completes (.invr a b all kind) s .s (after s .s 4) hideNone fun _ => True) ∧
        (0 < len → 0xF0 ≤ r → Traps (.invr a b all kind) s .s .access 0 0 4) ∧
        (0 < len → r < 0xF0 → 2 ^ 64 < lo + len →
          Traps (.invr a b all kind) s .s .region 0 (BitVec.ofNat 72 (r * 2 ^ 64 + lo)) 4) ∧
        (0 < len → r < 0xF0 → lo + len ≤ 2 ^ 64 →
          (NothingOut s → NothingDirty s →
            CompletesHub (.invr a b all kind) s (fun c => clearWaits c) withoutTranslations fun t =>
              Invalidated range s t ∧ t.invPend = s.invPend) ∧
          ∃ t, exec (.invr a b all kind) s = .next t ∧ Invalidated range s t ∧
            (Moved s t .s (after s .s 4) ∨ ((getStream (curCtx t) .s).waiting = true ∧
              (∃ v, t.invPend.find? (fun v => v.core == s.cur) = some v ∧ v.done = false) ∧
              withoutTranslations (modCur t clearWaits) = withoutTranslations (modCur s clearWaits)))))

/-- s without the lines that the home slices hold, the transactions of the access at hand, and the memory meters, which
the rewriting of a leaf charges (04 R114, R116). -/
def withoutCharges (s : State) : State :=
  { s with
    home := Vector.replicate 64 []
    walkFills := 0
    islands := s.islands.map fun i => { i with mmeter := 0 } }

/-- The task without X[d] and JMEM. -/
def hideXCharge (d : Fin 64) (c : Ctx) : Ctx := { hideX d c with acct := { c.acct with jmem := 0 } }

/-- 14 R401: RECLASS in system mode, with no invalidation of its own before it: status 2 when the walk reaches no valid
leaf, 3 when the leaf's page lies outside this card's memory, and 1 when it is not SHARED, with nothing else changed.
With a SHARED leaf, no access on its way and no line dirty, the page's translations go, the leaf (and with it the leaves
of its CONTIG group) becomes PRIVATE with OWNER 127, and the status is 0. So it does when an invalidation that had to
wait has completed and the leaf stands unchanged. The rewriting is charged as an access is (04 R114). That the word
completes in the step that issues its invalidation, and that its walk checks no permission and no class, are the model's
(log entries 114 and 46). -/
def ReclassReturnsAPage : Prop :=
  ∀ s : State, runs s = true → (curCtx s).system = true → ∀ d a b : Fin 64,
    let x := (xGet (curCtx s) b).toNat
    let asid := BitVec.ofNat 16 x
    let va : VAddr := BitVec.ofNat 72 (x / 2 ^ 16 % 256 * 2 ^ 64 + (xGet (curCtx s) a).toNat)
    let returned (addr pte : Nat) (t : State) : Prop :=
      MemorySame { rewriteLeaf s addr pte 127 0 with invPend := [] } t ∧ HoldsX t d 0
    (s.invPend.find? (fun v => v.core == s.cur) = none →
      (reclassWalk s asid va = none → Completes (.reclass d a b) s .s (after s .s 4) (hideX d) fun t => HoldsX t d 2) ∧
      ∀ addr pte size, reclassWalk s asid va = some (addr, pte, size) →
        (placeOf s (ptePa pte) ≠ .local →
          Completes (.reclass d a b) s .s (after s .s 4) (hideX d) fun t => HoldsX t d 3) ∧
        (placeOf s (ptePa pte) = .local → leafClass pte ≠ 1 →
          Completes (.reclass d a b) s .s (after s .s 4) (hideX d) fun t => HoldsX t d 1) ∧
        (placeOf s (ptePa pte) = .local → leafClass pte = 1 → NothingOut s → NothingDirty s →
          ∃ t, exec (.reclass d a b) s = .next t ∧ Moved s t .s (after s .s 4) ∧ OneCycle s t ∧ returned addr pte t ∧
            t.invPend = s.invPend ∧
            Invalidated { lo := va.toNat / 2 ^ size * 2 ^ size, hi := (va.toNat / 2 ^ size + 1) * 2 ^ size
                          asid := if pte / 2 ^ 10 % 2 = 1 then none else some asid, data := true, text := false } s t ∧
            SameBut (withoutCharges { withoutTranslations s with mem := [] })
              (withoutCharges { withoutTranslations t with mem := [] }) .s fun c => clearWaits (hideXCharge d c))) ∧
    ∀ v addr old, s.invPend.find? (fun v => v.core == s.cur) = some v → v.done = true → v.leaf = some (addr, old) →
      physNat s addr 8 = old.toNat →
      ∃ t, exec (.reclass d a b) s = .next t ∧ Moved s t .s (after s .s 4) ∧ OneCycle s t ∧ returned addr old.toNat t ∧
        SameBut (withoutCharges { s with invPend := [], mem := [] }) (withoutCharges { t with invPend := [], mem := [] }) .s
          (hideXCharge d)

/-- 04 R121 to R127; 14 R393 and R394: format words, the energy account and variants. -/
def Obligations.FormatEnergyAndVariantWords : Prop :=
  FormatWordsAreQueued ∧ EnergyWordsReadTheAccount ∧ VarselSelectsAVariant

/-- 10 R286; 14 R396 to R398: TRAP, RETT and TRIGGER. -/
def Obligations.TrapAndReturnWords : Prop :=
  TrapWordEntersTheHandler ∧ RettResumesEveryStream ∧ TriggerFixesOnePoint

/-- 12 R340 to R347: speculative rounds of the S-stream. -/
def Obligations.SpeculativeRoundsOpenAndClose : Prop :=
  SpeconOpensARound ∧ RoundsCloseForTheSStream

/-- 14 R378, R399 and R402: the words of system mode, LAUNCH and HALTC. -/
def Obligations.SystemWordsNeedTheirMode : Prop :=
  SystemWordsArePrivileged ∧ LaunchEntersTheKernel ∧ HaltcSetsTheOfflineState

/-- 07 R209 and R210; 14 R400 and R401: INVR and RECLASS. -/
def Obligations.InvalidationAndReclassWords : Prop :=
  InvrRemovesAndThenCompletes ∧ ReclassReturnsAPage

/-! ### Shared control words (06 R161 to R169; 14 R403 to R406; 10 R284) -/

/-- 06 R161: at the entry of a task a NOPX enables the S-stream and the streams that its four bits name, and every
enabled stream starts at the word after the entry; nothing is pushed and nothing else changes. That no word and no cycle
is counted is the model's reading (log entry 78). -/
def EntryWordEnablesTheStreams : Prop :=
  ∀ (s : State) (e : BitVec 4), runs s = true → (curCtx s).atEntry = true →
    ∃ t, exec (.nopx e) s = .next t ∧ (curCtx t).atEntry = false ∧
      (∀ st, getStream (curCtx t) st =
        { pc := (curCtx s).entry + 4
          enabled := st = .s || (st = .a && e.getLsbD 0) || (st = .v && e.getLsbD 1) || (st = .m && e.getLsbD 2)
            || (st = .p && e.getLsbD 3)
          ended := false, cidx := 0, ret := [], popped := 0, waiting := false }) ∧
      modCur t (fun c => { c with atEntry := true, streams := (curCtx s).streams }) = s

/-- The S-stream evaluates a shared control word at s: it is past the entry, no yield stops it, and in a handler or
while fewer entries are held than WIN it may push (06 R167; 10 R284). -/
structure Steers (s : State) : Prop where
  runs    : runs s = true
  stream  : s.curStream = .s
  inside  : (curCtx s).atEntry = false
  room    : (curCtx s).csr.inHandler = true ∨ (curCtx s).steer.length < (curCtx s).csr.win
  noYield : ∀ a b c, (curCtx s).yieldPhase ≠ .taken a b c

/-- The task without what the S-stream's evaluation of a shared control word changes. -/
def hideSteering (c : Ctx) : Ctx :=
  let c := modStream c .s fun x => { x with ret := [], ended := false }
  { c with steer := [], lc := Vector.replicate 4 0, spec := { c.spec with arm := .plain } }

/-- No other stream follows the S-stream: each is disabled or has ended. -/
def alone (c : Ctx) : Bool := [Stream.a, .v, .m, .p].all fun st => !(getStream c st).enabled || (getStream c st).ended

/-- The S-stream evaluates the word i of sub-operation code to the outcome taken (14 R403): it goes to next, its loop
counters and its return stack become lc and ret, it ends when end is true, and one entry with the outcome is appended to
the steering queue, with target when that is given, unless a handler runs or no stream follows. -/
def Evaluates (i : Instr) (s : State) (code : BitVec 4) (taken : Bool) (target : Option Word) (next : Word)
    (lc : Vector (BitVec 32) 4) (ret : List Word) (ends : Bool) : Prop :=
  Completes i s .s next hideSteering fun t =>
    (if (curCtx s).csr.inHandler || alone (curCtx s) then (curCtx t).steer = (curCtx s).steer
      else ∃ e, (curCtx t).steer = (curCtx s).steer ++ [e] ∧ e.taken = taken ∧ e.kind = code ∧
        (∀ a, target = some a → e.target = a) ∧ e.mark = (curCtx s).spec.arm) ∧
    (curCtx t).lc = lc ∧ (getStream (curCtx t) .s).ret = ret ∧ (getStream (curCtx t) .s).ended = ends

/-- 14 R403 and R406: what the S-stream makes of NOPX, BR, LOOP, CALL, CALLI, RET and END. cond
is P[p] XOR NEG, off counts parcels. A taken CALL or CALLI needs room on the return stack, of 32 entries, or 8 in a
handler; a taken RET needs an entry; a CALLI target is a multiple of 4; END is not taken in a handler. -/
def SharedWordsAreEvaluated : Prop :=
  ∀ s : State, Steers s → (getStream (curCtx s) .s).ended = false →
    ∀ (p : Fin 8) (neg : Bool) (lc : Fin 4) (a : Fin 64) (off : BitVec 16) (e : BitVec 4),
    let c := curCtx s
    let pc := (getStream c .s).pc
    let ret := (getStream c .s).ret
    let cond := pGet c p ^^ neg
    let away : Word := pc + BitVec.ofInt 64 (4 * off.toInt)
    let full := (if c.csr.inHandler then 8 else 32) ≤ ret.length
    Evaluates (.nopx e) s 0 false none (pc + 4) c.lc ret false ∧
    Evaluates (.br p neg off) s 1 cond none (if cond then away else pc + 4) c.lc ret false ∧
    (c.lc.get lc = 0 → Evaluates (.loop lc off) s 2 false none (pc + 4) c.lc ret false) ∧
    (c.lc.get lc ≠ 0 → Evaluates (.loop lc off) s 2 (c.lc.get lc != 1) none (if c.lc.get lc = 1 then pc + 4 else away)
      (c.lc.set lc.val (c.lc.get lc - 1) lc.isLt) ret false) ∧
    (cond = true → ¬full → Evaluates (.call p neg off) s 3 true none away c.lc ((pc + 4) :: ret) false) ∧
    (cond = false → Evaluates (.call p neg off) s 3 false none (pc + 4) c.lc ret false) ∧
    ((xGet c a).toNat % 4 = 0 → ¬full →
      Evaluates (.calli a) s 4 true (some (xGet c a)) (xGet c a) c.lc ((pc + 4) :: ret) false) ∧
    (∀ b r, cond = true → ret = b :: r → Evaluates (.ret p neg) s 5 true none b c.lc r false) ∧
    (cond = false → Evaluates (.ret p neg) s 5 false none (pc + 4) c.lc ret false) ∧
    (cond = false ∨ c.csr.inHandler = false →
      Evaluates (.endw p neg) s 7 cond none (pc + 4) c.lc ret cond)

/-- 06 R166, 14 R403 and R406: the faults of shared control words, all raised before any change: QUEUE at a full or
empty return stack, with DETAIL 2 in a handler, MISALIGN at a CALLI target that is no multiple of 4, and ILLEGAL-WORD at
a taken END in a handler. While as many entries are held as WIN, outside a handler, the S-stream waits at every such
word. That the fault address of CALLI is its target is the model's reading (log entry 45). -/
def SharedWordsFaultOrWait : Prop :=
  (∀ s : State, Steers s → ∀ (p : Fin 8) (neg : Bool) (a : Fin 64) (off : BitVec 16),
    let c := curCtx s
    let cond := pGet c p ^^ neg
    let full := (if c.csr.inHandler then 8 else 32) ≤ (getStream c .s).ret.length
    let detail := if c.csr.inHandler then 2 else 0
    (cond = true → full → Traps (.call p neg off) s .s .queue detail 0 4) ∧
    ((xGet c a).toNat % 4 ≠ 0 → Traps (.calli a) s .s .misalign 0 ((xGet c a).setWidth 72) 4) ∧
    ((xGet c a).toNat % 4 = 0 → full → Traps (.calli a) s .s .queue detail 0 4) ∧
    (cond = true → (getStream c .s).ret = [] → Traps (.ret p neg) s .s .queue detail 0 4) ∧
    (cond = true → c.csr.inHandler = true → Traps (.endw p neg) s .s .illegalWord 0 0 4)) ∧
  ∀ s : State, runs s = true → s.curStream = .s → (curCtx s).atEntry = false → (curCtx s).csr.inHandler = false →
    (curCtx s).csr.win ≤ (curCtx s).steer.length →
    ∀ (p : Fin 8) (neg : Bool) (lc : Fin 4) (a : Fin 64) (off : BitVec 16) (e : BitVec 4),
      Waits (.nopx e) s .s ∧ Waits (.br p neg off) s .s ∧ Waits (.loop lc off) s .s ∧ Waits (.call p neg off) s .s ∧
      Waits (.calli a) s .s ∧ Waits (.ret p neg) s .s ∧ Waits (.yield off) s .s ∧ Waits (.endw p neg) s .s

/-- The number of pairs in the yield table is at its place below TEXTBASE, and instruction fetch finds it there
(14 R405). -/
def YieldCount (s : State) (n : Nat) : Prop := yieldTable s 1 0 = (.ok n, s)

/-- A YIELD at s would be taken: a yield-mode pre-emption is pending, the S-stream is not in speculative mode and no
handler runs (14 R405). -/
def YieldPending (s : State) : Prop :=
  (curCtx s).yieldPhase = .asked ∧ roundOf (curCtx s) .s = none ∧ (curCtx s).csr.inHandler = false

/-- 14 R405: at every evaluation, in a handler too, YIELD i reads COUNT: where instruction fetch fails there it faults
with ACCESS as a fetch does (06 R160), and one with i not below COUNT faults with ILLEGAL-WORD. With i below COUNT it acts
as NOPX does while no pre-emption is to be taken; with one, a table as R405 lays it out, and a stream that follows, it
goes to the save sequence of entry i with an entry that takes the followers there (10 R296). -/
def YieldReadsItsTable : Prop :=
  ∀ s : State, Steers s → (getStream (curCtx s) .s).ended = false → ∀ (i : BitVec 16), let c := curCtx s
    let pc := (getStream c .s).pc
    (∀ a : Nat, a < 2 ^ 64 → yieldTable s 1 0 = (.error a, s) →
      Traps (.yield i) s .s .access 3 (BitVec.ofNat 72 a) 4) ∧
    ∀ n, YieldCount s n →
      (n ≤ i.toNat → Traps (.yield i) s .s .illegalWord 0 0 4) ∧
      (i.toNat < n → ¬YieldPending s → Evaluates (.yield i) s 6 false none (pc + 4) c.lc (getStream c .s).ret false) ∧
      ∀ e, i.toNat < n → YieldPending s → yieldTableOk s n = true → yieldEntry s i.toNat = some e → alone c = false →
        (∀ st, live c st = true → (getStream c st).popped ≤ c.steer.length) →
        let base := textBaseOf s s.cur
        let save := BitVec.ofNat 64 (base + e % 2 ^ 32)
        Completes (.yield i) s .s save (fun c => hideSteering { c with yieldPhase := .none }) fun t =>
          (curCtx t).yieldPhase = .taken save (BitVec.ofNat 64 (base + e / 2 ^ 32 % 2 ^ 32)) (pc + 4) ∧
          (∃ x, (curCtx t).steer = c.steer ++ [x] ∧ x.taken = true ∧ x.kind = 6 ∧ x.target = save ∧
            x.mark = c.spec.arm) ∧
          (curCtx t).lc = c.lc ∧ (getStream (curCtx t) .s).ret = (getStream c .s).ret ∧
          (getStream (curCtx t) .s).ended = false

/-- The task without the steering queue, what streams have popped of it and noted on their way to its words, the trigger
point's place in it, and the return stack and the end of stream st. -/
def hideFollowing (st : Stream) (c : Ctx) : Ctx :=
  let c := modStream c st fun x => { x with ret := [], ended := false }
  { c with steer := [], ahead := [], trigger := none, streams := c.streams.map fun x => { x with popped := 0 } }

/-- 06 R164, R165 and R169: a stream other than S takes the outcome of its oldest entry that it has not popped, in one
step: it goes where the entry and its own return stack send it, the entry is the only one that it pops, and every other
running stream still has the same entries to pop. A taken END ends it. Here the entry carries no change of the
speculative mode; the A-stream has no replayable fault pending; and at a taken END the M-stream has no tile command,
self-test or array trap. Without an entry the stream waits. -/
def Obligations.FollowersTakeTheOutcome : Prop :=
  ∀ (s : State) (st : Stream), runs s = true → s.curStream = st → st ≠ .s → live (curCtx s) st = true →
    (curCtx s).atEntry = false → (∀ a b c, (curCtx s).yieldPhase ≠ .taken a b c) →
    (st = .a → (curCtx s).aq.replay = none) →
    ∀ (p : Fin 8) (neg : Bool) (lc : Fin 4) (a : Fin 64) (off : BitVec 16) (e : BitVec 4),
    let c := curCtx s
    let x := getStream c st
    let away : Word := x.pc + BitVec.ofInt 64 (4 * off.toInt)
    ((curCtx s).steer[x.popped]? = none →
      ∀ i, i ∈ [Instr.nopx e, .br p neg off, .loop lc off, .call p neg off, .calli a, .ret p neg, .yield off,
        .endw p neg] →
        Waits i s st) ∧
    ∀ en, c.steer[x.popped]? = some en → en.mark = .plain →
      ∀ i next ret ends, (i, next, ret, ends) ∈ ([
          (.nopx e, x.pc + 4, x.ret, false),
          (.br p neg off, if en.taken then away else x.pc + 4, x.ret, false),
          (.loop lc off, if en.taken then away else x.pc + 4, x.ret, false),
          (.call p neg off, if en.taken then away else x.pc + 4, if en.taken then (x.pc + 4) :: x.ret
            else x.ret, false),
          (.calli a, if en.taken then en.target else x.pc + 4, if en.taken then (x.pc + 4) :: x.ret else x.ret, false),
          (.ret p neg, if en.taken then x.ret.headD 0 else x.pc + 4, if en.taken then x.ret.tail else x.ret, false),
          (.yield off, if en.taken then en.target else x.pc + 4, x.ret, false),
          (.endw p neg, x.pc + 4, x.ret, en.taken)] : List (Instr × Word × List Word × Bool)) →
      (st = .m → ends = true → c.m.cmd = none ∧ c.m.testing = false ∧ c.m.testDue = false ∧ c.m.suspect = none) →
      Completes i s st next (hideFollowing st) fun t =>
        (getStream (curCtx t) st).ret = ret ∧ (getStream (curCtx t) st).ended = ends ∧
        (ends = false → (curCtx t).steer.drop (getStream (curCtx t) st).popped = c.steer.drop (x.popped + 1)) ∧
        ∀ o, o ≠ .s → o ≠ st → live c o = true →
          (curCtx t).steer.drop (getStream (curCtx t) o).popped = c.steer.drop (getStream c o).popped

/-- 06 R161 and R162; 10 R296; 14 R405: the entry word and YIELD. -/
def Obligations.EntryAndYieldWords : Prop :=
  EntryWordEnablesTheStreams ∧ YieldReadsItsTable

/-- 06 R164 to R169; 14 R403: shared control words in the S-stream. -/
def Obligations.SharedWordsSteerTheStreams : Prop :=
  SharedWordsAreEvaluated ∧ SharedWordsFaultOrWait

/-! ### A-words: addresses, queues and windows (15 R407 to R411) -/

/-- The words of 15 R409 that move an address, with the registers that they read or write and the displacement from the
offset of A[b]. -/
def addressTable (d b c : Fin 32) (e : BitVec 14) (sh : BitVec 6) : List (Instr × List (Fin 32) × (Ctx → Int)) :=
  [(.aadd d b c, [d, b, c], fun t => signedOffsetOf t c),
    (.aaddi d b e, [d, b], fun _ => e.toInt),
    (.asub d b c, [d, b, c], fun t => -signedOffsetOf t c),
    (.ashadd d b c sh, [d, b, c], fun t => signedOffsetOf t c * 2 ^ sh.toNat)]

/-- 15 R407 to R409: AADD, AADDI, ASUB and ASHADD give A[d] the region of A[b] and its offset moved by their
displacement, and fault with REGION when the offset would leave 0 to 2^64 − 1; AMOVI replaces the region, ARELOC copies
a relocation value, ANOP does nothing. A word that names a register that a load or an atomic in flight will write waits.
-/
def AddressWordsComputeAddresses : Prop :=
  ∀ (s : State) (d b c : Fin 32) (e : BitVec 14) (sh : BitVec 6) (r : BitVec 8) (n : Fin 8),
    (∀ i regs disp, (i, regs, disp) ∈ addressTable d b c e sh →
      (∀ a, AReady s regs → Effective (curCtx s) b (disp (curCtx s)) a →
        Completes i s .a (after s .a 4) (hideA d) fun t => HoldsA t d a) ∧
      (AReady s regs → offsetOf (curCtx s) b + disp (curCtx s) < 0 ∨ 2 ^ 64 ≤ offsetOf (curCtx s) b + disp (curCtx s) →
        ∃ a, Traps i s .a .region 0 a 4) ∧
      (AReady s [] → (∃ x ∈ regs, x ≠ 0 ∧ x ∈ (curCtx s).aBusy) → Waits i s .a)) ∧
    (AReady s [d, b] → Completes (.amovi d b r) s .a (after s .a 4) (hideA d) fun t =>
      HoldsA t d (r ++ (aGet (curCtx s) b).extractLsb' 0 64)) ∧
    (AReady s [d] → Completes (.areloc d n) s .a (after s .a 4) (hideA d) fun t => HoldsA t d ((curCtx s).rl.get n)) ∧
    (AReady s [] → Completes .anop s .a (after s .a 4) hideNone fun _ => True)

/-- The task without A[d], the queues A to S and S to A, and the windows. -/
def hideMoves (d : Fin 32) (c : Ctx) : Ctx :=
  hideA d { c with q := { c.q with qas := [], qsa := [] }, windows := Vector.replicate 4 (Vector.replicate 3 0) }

/-- 15 R410 and R411: AMOVQ takes an entry of S to A as the offset of A[d], with the region of A[b], or pushes the
offset or the region of A[b] to A to S; it waits at an empty or a full queue. AREG reads a word of a window into A[d],
or writes a word from the offset of A[b]: word 1 faults with ACCESS unless its fields are legal, and word 2 keeps OFF.
Mode 3 and word 3 fault with ILLEGAL-WORD. -/
def MovesAndWindows : Prop :=
  ∀ (s : State) (d b : Fin 32) (f w : BitVec 2) (n : Fin 4), let c := curCtx s
    (AReady s [d, b] →
      (∀ e r, c.q.qsa = e :: r → Completes (.amovq d b 0) s .a (after s .a 4) (hideMoves d) fun t =>
        HoldsA t d ((aGet c b).extractLsb' 64 8 ++ e.val) ∧ (curCtx t).q = { c.q with qsa := r } ∧
        (curCtx t).windows = c.windows) ∧
      (c.q.qsa = [] → Waits (.amovq d b 0) s .a) ∧
      (f = 1 ∨ f = 2 → c.q.qas.length < 32 → Completes (.amovq d b f) s .a (after s .a 4) (hideMoves 0) fun t =>
        ∃ e, (curCtx t).q = { c.q with qas := c.q.qas ++ [e] } ∧ (curCtx t).windows = c.windows ∧
          e.val = some (if f = 1 then ((aGet c b).extractLsb' 0 64).setWidth 2048
            else ((aGet c b).extractLsb' 64 8).setWidth 2048)) ∧
      (f = 1 ∨ f = 2 → 32 ≤ c.q.qas.length → Waits (.amovq d b f) s .a) ∧
      Traps (.amovq d b 3) s .a .illegalWord 0 0 4) ∧
    (AReady s [d] →
      (∀ h : w.toNat < 3, Completes (.aregRead d w n) s .a (after s .a 4) (hideA d) fun t =>
        HoldsA t d (((c.windows.get n)[w.toNat]'h).setWidth 72)) ∧
      Traps (.aregRead d 3 n) s .a .illegalWord 0 0 4) ∧
    (AReady s [b] → let v := (aGet c b).extractLsb' 0 64
      let legal := v.toNat % 256 ≤ 0xEF ∧ v.toNat / 2 ^ 8 % 8 ≤ 4 ∧ v.toNat / 2 ^ 12 % 16 = 0 ∧ v.toNat / 2 ^ 16 % 8 = 0
      let others (t : State) : Prop := (curCtx t).q = c.q ∧ (∀ m, m ≠ n → (curCtx t).windows.get m = c.windows.get m) ∧
        ∀ k : Fin 3, k.val ≠ w.toNat → ((curCtx t).windows.get n)[k] = (c.windows.get n)[k]
      (roundOf c .a = none →
        (w = 0 → Completes (.aregWrite b w n) s .a (after s .a 4) (hideMoves 0) fun t =>
          ((curCtx t).windows.get n)[0] = v ∧ others t) ∧
        (w = 1 → legal → Completes (.aregWrite b w n) s .a (after s .a 4) (hideMoves 0) fun t =>
          ((curCtx t).windows.get n)[1] = v ∧ others t) ∧
        (w = 1 → ¬legal → Traps (.aregWrite b w n) s .a .access 0 0 4) ∧
        (w = 2 → Completes (.aregWrite b w n) s .a (after s .a 4) (hideMoves 0) fun t =>
          ((curCtx t).windows.get n)[2] = ((c.windows.get n)[2].extractLsb' 32 16 ++ v.extractLsb' 0 32).setWidth 64 ∧
          others t)) ∧
      (roundOf c .a ≠ none → w ≠ 3 → Traps (.aregWrite b w n) s .a .specIllegal 0 0 4) ∧
      Traps (.aregWrite b 3 n) s .a .illegalWord 0 0 4)

/-! ### A-words: loads, stores and order (15 R412 to R420; 08 R226 to R231) -/

/-- The bytes that a size code names (13 R356). -/
def bytesOfSize (size : BitVec 3) : Nat := [1, 2, 4, 8, 256].getD size.toNat (2 ^ size.toNat)

/-- Queue q takes the data of a load: its destination, and that its partner stream is enabled and an entry is free
(15 R412, R413). -/
def TakesLoad (c : Ctx) (q : BitVec 5) (dest : LoadDest) : Prop :=
  (∃ n : Fin 8, q.toNat = n.val ∧ dest = .ql n ∧ (getStream c .v).enabled = true ∧ (c.q.ql.get n).length < 16) ∨
  (q = 12 ∧ dest = .qas ∧ (getStream c .s).enabled = true ∧ c.q.qas.length < 32) ∨
  (q = 14 ∧ dest = .qap ∧ (getStream c .p).enabled = true ∧ c.q.qap.length < 16)

/-- These accesses by the A-stream, as address, place in the data and length, are all allowed and have the pieces ps; u
is the state after their translation (15 R418; 07 R196 to R221). -/
def Resolves (s : State) (k : WalkKind) (l : List (VAddr × Nat × Nat)) (ps : List Part) (u : State) : Prop :=
  resolveAll s (agentOf s.cur) (curCtx s).asid s.cur.val k l = .ok (ps, u)

/-- The accesses of 15 R416 and R417: one of n bytes for each element of an entry, displaced from A[b]. -/
def Elements (c : Ctx) (b : Fin 32) (n : Nat) (disp : Nat → Int) (l : List (VAddr × Nat × Nat)) : Prop :=
  l.length = 256 / n ∧ ∀ i (h : i < l.length), Effective c b (disp i) l[i].1 ∧ l[i].2 = (n * i, n)

/-- 15 R413, R415 to R418: LX, LQ, LQS and LQG, whose addresses do not leave the offset range and whose accesses are
allowed, issue one load: of the size at EA(A[b], imm × size), at EA(A[b], A[c]), of every element at EA(A[b], i × A[c]),
or of every element at EA(A[b], index × size) with 32-bit signed indices read at A[c]. LQ, LQS and LQG do so when their
queue takes a load. -/
def LoadWordsIssueTheirLoad : Prop :=
  ∀ (s u : State) (q : BitVec 5) (d b c : Fin 32) (size : BitVec 3) (e : BitVec 11) (ps : List Part) (a : VAddr)
    (l : List (VAddr × Nat × Nat)) (dest : LoadDest), size.toNat ≤ 4 →
    let t := curCtx s
    let n := bytesOfSize size
    let issued (dest : LoadDest) (len : Nat) : State := issueLoad u s.cur dest ps len (roundOf (curCtx u) .a).isSome
    ((Instr.lx d b size e).wellFormed = true → AReady s [d, b] → Effective t b (e.toInt * n) a →
      Resolves s .read [(a, 0, n)] ps u → RetiresTo (.lx d b size e) s (issued (.areg d) n)) ∧
    ((Instr.lq q b size e).wellFormed = true → AReady s [b] → TakesLoad t q dest → Effective t b (e.toInt * n) a →
      Resolves s .read [(a, 0, n)] ps u → RetiresTo (.lq q b size e) s (issued dest n)) ∧
    ((Instr.lqs q b c false size).wellFormed = true → AReady s [b, c] → TakesLoad t q dest →
      Effective t b (signedOffsetOf t c) a → Resolves s .read [(a, 0,
        n)] ps u → RetiresTo (.lqs q b c false size) s (issued dest n)) ∧
    ((Instr.lqs q b c true size).wellFormed = true → AReady s [b, c] → TakesLoad t q dest →
      Elements t b n (fun i => i * signedOffsetOf t c) l → Resolves s .read l ps u → RetiresTo (.lqs q b c true size) s (issued dest 256)) ∧
    ∀ (v : State) (index : List Byte), (Instr.lqg q b c size).wellFormed = true → AReady s [b, c] → TakesLoad t q dest →
      readNow s (aGet t c) (4 * (256 / n)) t.aq.lastMark = .ok (index, v) →
      Elements t b n (fun i => ((ofBytes 32 ((index.drop (4 * i)).take 4)).toInt * n)) l → Resolves v .read l ps u →
      RetiresTo (.lqg q b c size) s (issued dest 256)

/-- The task of core c without its loads, the loads' queue entries, and the registers that they will write. -/
def hideLoads (c : Ctx) : Ctx :=
  { c with
    aBusy := []
    aq := { c.aq with loads := [] }
    q := { c.q with ql := Vector.replicate 8 [], qas := [], qap := [] } }

/-- 15 R413; 08 R224 and R226: a load of no piece of the peer's memory issues as the newest of its core, cut at
locations: it is behind the last MARK, its queue keeps an unfilled entry for it as the youngest, or its register becomes
busy, and nothing else changes but the number of the access and the cost of its granules. -/
def IssuedLoadsReserveTheirPlace : Prop :=
  ∀ (s : State) (c : CoreId) (dest : LoadDest) (ps : List Part) (n : Nat) (spec : Bool),
    (∀ p ∈ ps, ∀ q ∈ locPieces s p, placeOf s q.pa ≠ .peer) →
    let t := issueLoad s c dest ps n spec
    let u := chargeParts s c ps
    let x := (getCore s c).ctx
    let y := (getCore t c).ctx
    (∃ r, y.aq.loads = x.aq.loads ++ [r] ∧ r.id = s.stamp ∧ r.mark = x.aq.lastMark ∧ r.dest = dest ∧
      r.parts = ps.flatMap (locPieces s) ∧ r.data = List.replicate n 0 ∧ r.spec = spec ∧ r.ask = []) ∧
    t.stamp = s.stamp + 1 ∧
    (match dest with
      | .ql q => (∀ p, y.q.ql.get p = if p = q then x.q.ql.get p ++ [⟨s.stamp, none, spec⟩] else x.q.ql.get p) ∧
          y.q.qap = x.q.qap ∧ y.q.qas = x.q.qas ∧ y.aBusy = x.aBusy
      | .qap => y.q = { x.q with qap := x.q.qap ++ [⟨s.stamp, none, spec⟩] } ∧ y.aBusy = x.aBusy
      | .qas => y.q = { x.q with qas := x.q.qas ++ [⟨s.stamp, none, spec⟩] } ∧ y.aBusy = x.aBusy
      | .areg d => y.q = x.q ∧ y.aBusy = d :: x.aBusy
      | .drop => y.q = x.q ∧ y.aBusy = x.aBusy) ∧
    { modCtx t c hideLoads with stamp := 0 } = { modCtx u c hideLoads with stamp := 0 }

/-- 08 R224: an access of this card's memory is cut where a location ends: its pieces have its class and its place in
the data, each lies within 8 aligned bytes, and together they cover its bytes and no other. -/
def AccessesAreCutAtLocations : Prop :=
  ∀ (s : State) (p : Part), placeOf s p.pa ≠ .peer → 0 < p.len →
    (∀ q ∈ locPieces s p, 0 < q.len ∧ q.pa / 8 = (q.pa + q.len - 1) / 8 ∧ q.cls = p.cls ∧ q.own = p.own ∧
      q.off + p.pa = p.off + q.pa) ∧
    ∀ a, (∃ q ∈ locPieces s p, q.pa ≤ a ∧ a < q.pa + q.len) ↔ p.pa ≤ a ∧ a < p.pa + p.len

/-- s without what a load or a store that is performed may change beside its data: the caches of core c and of its
island, the home slices' caches, and the energy of core c's task and of its island. -/
def withoutHome (s : State) (c : CoreId) : State :=
  { modIsland (modCore s c fun k => { k with l1 := [], ctx := { k.ctx with acct := { k.ctx.acct with jmem := 0 } } })
      (islandOf c) (fun i => { i with cache := [], mmeter := 0 }) with home := Vector.replicate 64 [] }

/-- What leaves the store queue when an access is done: MARKs and RELs at its head, and nothing else (08 R226). -/
def OrderingLeft (old new : List SqEntry) : Prop :=
  ∃ n : Nat, n ≤ old.length ∧ new = old.drop n ∧ (old.take n).all (fun e => match e with
    | .mark _ | .rel _ _ => true
    | _ => false) = true

/-- The piece p of the load l of core c is held back by nothing (08 R225, R226, R228): no write or atomic before the
load's last MARK is on its way, no earlier load of its location is, it is no DEVICE access, no write of the island is on
its way to its line, and neither it nor another piece of the load is of the peer's memory, nor was it appended. -/
structure NotHeld (s : State) (c : CoreId) (l : LoadRec) (p : Part) : Prop where
  marks  : ∀ e ∈ (getCore s c).ctx.aq.stores, match e with
    | .write r => l.mark ≤ r.id
    | .atomic a => l.mark ≤ a.id
    | _ => True
  gone   : ∀ r ∈ (getCore s c).ctx.aq.inflight, l.mark ≤ r.id
  oldest : ∀ o ∈ (getCore s c).ctx.aq.loads, o.id < l.id → ∀ q ∈ o.parts, overlaps q p = false
  plain  : p.cls ≠ 3
  writes : ∀ d, islandOf d = islandOf c → ∀ o ∈ (getCore s d).ctx.aq.inflight,
    linesOverlap [o.part] [p] = false ∧ overlaps o.part p = false
  here   : ∀ q ∈ l.parts, placeOf s q.pa ≠ .peer
  fixed  : ∀ e ∈ s.loose, e.pa < p.pa ∨ p.pa + p.len ≤ e.pa

/-- The byte at a of the piece p that a load of core c reads (07 R217, R218): of a PRIVATE page of the core from its
line in the L1, of another cached page from the L1's copy, else from the island's, and where there is none, as of every
other page, from the memory. -/
def loadedByte (s : State) (c : CoreId) (p : Part) (a : Nat) : Byte :=
  let k := getCore s c
  let i := getIsland s (islandOf c)
  let of (l : Line) : Byte := l.data.extractLsb' (8 * (a % 64)) 8
  let line (l : List Line) (ok : Line → Bool) : Option Line := l.find? fun e => e.tag == a / 64 && ok e
  let held : Option Line :=
    if placeOf s p.pa ≠ .local ∨ 2 ≤ p.cls then none
    else if p.own ∧ p.cls = 0 then line k.l1 fun e => e.priv
    else (line k.l1 fun e => e.priv || e.ver == k.ver).orElse fun _ => line i.cache fun e => e.priv || e.ver == i.ver
  match held with
  | some l => of l
  | none => (physRead s a 1).getD 0 0

/-- 08 R224, R226, R234; 15 R413 and R414: LOAD_RETURN of a piece within a location that nothing holds back completes:
its bytes join the load's data, and with the last piece the load is gone and its data reach A[d] as a number of region
0x00, or fill the load's entry. No byte of memory changes while the L1 has room, and nothing else does but caches, what
their fills cost, the requests to the host, and who waits. -/
def Obligations.LoadReturnDeliversMemory : Prop :=
  ∀ (s : State) (c : CoreId) (k i j : Nat) (l : LoadRec) (p : Part),
    pieceOf (getCore s c).ctx.aq.loads k = some (i,
      j) → (getCore s c).ctx.aq.loads[i]? = some l → l.parts[j]? = some p →
    NotHeld s c l p → 0 < p.len → p.pa / 8 = (p.pa + p.len - 1) / 8 → (getCore s c).l1.length < 8192 →
    let x := (getCore s c).ctx
    let data := (List.range l.data.length).map fun n =>
      if p.off ≤ n ∧ n < p.off + p.len then loadedByte s c p (p.pa + (n - p.off)) else l.data.getD n 0
    let v := (data.zipIdx.map fun (b, n) => b.toNat * 256 ^ n).sum
    let fill (q : List LSlot) : List LSlot := q.map fun e =>
      if e.load = l.id ∧ e.val = none then { e with val := some (BitVec.ofNat 2048 v) } else e
    ∃ t, exec (.loadReturn c k) s = .next t ∧ MemorySame s t ∧
      (let y := (getCore t c).ctx
      (l.parts ≠ [p] → y.aq.loads = x.aq.loads.set i { l with parts := listErase l.parts j, data := data } ∧
        y.aBusy = x.aBusy ∧ y.q = x.q ∧ y.a = x.a ∧ y.aq.stores = x.aq.stores) ∧
      (l.parts = [p] → y.aq.loads = listErase x.aq.loads i ∧ OrderingLeft x.aq.stores y.aq.stores ∧
        (∀ d, l.dest = .areg d → aGet y d = (if d = 0 then 0 else BitVec.ofNat 72 (v % 2 ^ 64)) ∧
          y.aBusy = x.aBusy.erase d ∧ y.q = x.q ∧ ∀ e, e ≠ d → aGet y e = aGet x e) ∧
        ((∀ d, l.dest ≠ .areg d) → y.aBusy = x.aBusy ∧ y.a = x.a) ∧
        (l.dest = .qas → y.q = { x.q with qas := fill x.q.qas }) ∧
        (l.dest = .qap → y.q = { x.q with qap := fill x.q.qap }) ∧
        (∀ q, l.dest = .ql q → y.q = { x.q with ql := x.q.ql.set q.val (fill (x.q.ql.get q)) q.isLt }) ∧
        (l.dest = .drop → y.q = x.q))) ∧
      (let hide (y : Ctx) : Ctx := clearWaits (hideLoads { y with
        a := Vector.replicate 32 0, spec := Spec.off, aq := { y.aq with stores := [] } })
      withoutHome { modCtx t c hide with sent := [] } c = withoutHome { modCtx s c hide with sent := [] } c)

/-- 15 R412 to R418: SX stores the low bytes of the offset of A[src], SQ and SQS the low bytes of the oldest entry of a
queue qs, or of S to A, which they pop, or with a stride every element of the entry at EA(A[b], i × A[c]). Outside
speculative mode, with allowed accesses, each issues one store of these bytes, with SIG when SQS asks for it. -/
def StoreWordsIssueTheirStore : Prop :=
  ∀ (s u : State) (x b c : Fin 32) (size : BitVec 3) (e : BitVec 11) (ps : List Part) (a : VAddr) (signal : Bool)
    (l : List (VAddr × Nat × Nat)), size.toNat ≤ 4 → roundOf (curCtx s) .a = none →
    let t := curCtx s
    let n := bytesOfSize size
    let low (v : Seg) (n : Nat) : List Byte := (List.range n).map fun i => v.extractLsb' (8 * i) 8
    let pops (q : BitVec 5) (v : Seg) (r : Ctx) : Prop :=
      (∃ m : Fin 4, q.toNat = 8 + m.val ∧ (getStream t .v).enabled = true ∧ ∃ en rest, t.q.qs.get m = en :: rest ∧
        v = en.val ∧ r = { t with q := { t.q with qs := t.q.qs.set m.val rest m.isLt } }) ∨
      (q = 13 ∧ ∃ en rest, t.q.qsa = en :: rest ∧ v = en.val.setWidth 2048 ∧
        r = { t with q := { t.q with qsa := rest } }) ∨
      (q = 15 ∧ (getStream t .p).enabled = true ∧ ∃ en rest, t.q.qpa = en :: rest ∧ v = en.val ∧
        r = { t with q := { t.q with qpa := rest } })
    ((Instr.sx x b size e).wellFormed = true → AReady s [x,
      b] → Effective t b (e.toInt * n) a → Resolves s .write [(a, 0, n)] ps u →
      RetiresTo (.sx x b size e) s (issueStore u s.cur ps (low ((aGet t x).extractLsb' 0 64 |>.setWidth 2048) n) false false)) ∧
    ∀ q v r, pops q v r →
      ((Instr.sq q b size e).wellFormed = true → AReady s [b] → Effective t b (e.toInt * n) a →
        Resolves (modCur s fun _ => r) .write [(a, 0, n)] ps u →
        RetiresTo (.sq q b size e) s (issueStore u s.cur ps (low v n) false false)) ∧
      ((Instr.sqs q b c false signal size).wellFormed = true → AReady s [b, c] → Effective t b (signedOffsetOf t c) a →
        Resolves (modCur s fun _ => r) .write [(a, 0, n)] ps u →
        RetiresTo (.sqs q b c false signal size) s (issueStore u s.cur ps (low v n) signal false)) ∧
      ((Instr.sqs q b c true signal size).wellFormed = true → AReady s [b, c] → Elements t b n (fun i =>
        i * signedOffsetOf t c) l →
        Resolves (modCur s fun _ => r) .write l ps u →
        RetiresTo (.sqs q b c true signal size) s (issueStore u s.cur ps (low v 256) signal false))

/-- 08 R224 and R226: a store that issues joins the store queue as its youngest, one entry for each piece with the bytes
of the piece; no byte of memory has changed, and nothing else but the number of the access and the cost of its granules.
-/
def IssuedStoresJoinTheQueue : Prop :=
  ∀ (s : State) (c : CoreId) (ps : List Part) (data : List Byte) (signal appended : Bool),
    let t := issueStore s c ps data signal appended
    let u := chargeParts s c ps
    let hide (y : Ctx) : Ctx := { y with aq := { y.aq with stores := [] } }
    (getCore t c).ctx.aq.stores = (getCore s c).ctx.aq.stores ++ (ps.flatMap (locPieces s)).map (fun p =>
      .write ⟨s.stamp, 0, p, (data.drop p.off).take p.len, signal, appended, false, false, []⟩) ∧
    t.stamp = s.stamp + 1 ∧ MemorySame s t ∧
    { modCtx t c hide with stamp := 0 } = { modCtx u c hide with stamp := 0 }

/-- The lines new of a cache are the lines old with the bytes of a write put into their copies (07 R217). -/
def TakesBytes (pa : Nat) (data : List Byte) (old new : List Line) : Prop :=
  new.length = old.length ∧ ∀ (i : Nat) l, old[i]? = some l → ∃ m, new[i]? = some m ∧ { m with data := l.data } = l ∧
    ∀ j < 64, m.data.extractLsb' (8 * j) 8 = if pa ≤ 64 * l.tag + j ∧ 64 * l.tag + j < pa + data.length
      then data.getD (64 * l.tag + j - pa) 0 else l.data.extractLsb' (8 * j) 8

/-- s without the lines of the caches of core c and of its island, and without the writes of core c. -/
def withoutCopies (s : State) (c : CoreId) : State :=
  modIsland (modCore s c fun k => { k with
      l1 := [], ctx := clearWaits { k.ctx with aq := { k.ctx.aq with stores := [], inflight := [] } } })
    (islandOf c) fun i => { i with cache := [] }

/-- The piece p lies in a page of which its core keeps copies for reading: SHARED, or PRIVATE to another (07 R217). -/
def copied (p : Part) : Prop := p.cls ≤ 1 ∧ mine p = false

/-- The piece r of a write of core c has left the store queue and is in flight as the youngest of its core: its copies
in the core's L1 and in its island have taken it, and no other line has changed (07 R217; 08 R226, R229, R230). -/
def InFlight (s t : State) (c : CoreId) (r : StoreRec) : Prop :=
  let held (l : List Line) : Bool := decide (r.part.cls ≤ 1) && !mine r.part && (linesOf r.part).all fun n =>
    l.any fun e => e.tag == n
  let copies (old new : List Line) : Prop :=
    (copied r.part → TakesBytes r.part.pa r.data old new) ∧ (¬copied r.part → new = old)
  (getCore t c).ctx.aq.inflight = (getCore s c).ctx.aq.inflight ++ [{ r with
    left := s.stamp
    coreDone := held (getCore s c).l1
    islandDone := held (getIsland s (islandOf c)).cache }] ∧
  OrderingLeft ((getCore s c).ctx.aq.stores.erase (.write r)) (getCore t c).ctx.aq.stores ∧ t.stamp = s.stamp + 1 ∧
  copies (getCore s c).l1 (getCore t c).l1 ∧
  copies (getIsland s (islandOf c)).cache (getIsland t (islandOf c)).cache

/-- 08 R226, R229 and R230; 02 R51 and R58; 07 R200 and R217: STORE_PERFORMED of a piece of the write at the head of the
store queue whose counters stand below 1,023, and with no DEVICE access before it where it is one. It is in flight, and
its bytes have reached the copies of the core and its island. One of this card's memory changes no byte of memory yet and
nothing else; one of the host goes out on the host link, where its bytes are performed in the order of the link; one of
the peer goes out on the bridge. (The pieces that land in the core's own L1 are those of OwnPagesTakeTheirStores.) -/
def HeadPiecesLeaveTheQueue : Prop :=
  ∀ (s : State) (c : CoreId) (k : Nat) (r : StoreRec), (headPieces (getCore s c).ctx)[k]? = some r →
    r.part.len = r.data.length → mine r.part = false ∨ r.signal = true →
    (r.part.cls = 3 → deviceTurn s (getCore s c).ctx r.id = true) → (∀ sc ∈ [1, 2, 3, 4], outstanding s c sc < 1023) →
    let pa := r.part.pa
    let bus := busAddress s pa
    (placeOf s pa ≠ .peer → placeOf s pa ≠ .host → ∃ t, exec (.storePerformed c ((getCore s c).ctx.aq.inflight.length + k)) s = .next t ∧ InFlight s t c r ∧ MemorySame s t ∧
      { withoutCopies t c with stamp := 0 } = { withoutCopies s c with stamp := 0 }) ∧
    (placeOf s pa = .host → r.signal = false → Memory.wf s.hostMem = true → ∃ t, exec (.storePerformed c ((getCore s c).ctx.aq.inflight.length + k)) s = .next t ∧ InFlight s t c r ∧
      (∀ a, memRead t.hostMem a = if bus ≤ a ∧ a - bus < r.data.length then r.data.getD (a - bus) 0
        else memRead s.hostMem a) ∧
      t.sent = .hostRequest (funcOf s c) true bus r.data.length :: s.sent ∧
      { withoutCopies t c with stamp := 0, hostMem := [], sent := [], loose := [] } =
        { withoutCopies s c with stamp := 0, hostMem := [], sent := [], loose := [] }) ∧
    (placeOf s pa = .peer → ∃ t, exec (.storePerformed c ((getCore s c).ctx.aq.inflight.length + k)) s = .next t ∧ InFlight s t c r ∧ MemorySame s t ∧
      t.sent = .bridgeStore c s.stamp pa r.data r.signal :: s.sent ∧
      let others (s : State) : State := withoutHome (withoutCopies s c) c
      { modIsland (others t) (islandOf c) (fun i => { i with fills := 0 }) with stamp := 0, sent := [], loose := [] } =
        { modIsland (others s) (islandOf c) (fun i => { i with fills := 0 }) with stamp := 0, sent := [], loose := [] })

/-- 07 R217; 08 R225, R229: STORE_PERFORMED of a piece within a location at the head of the store queue, without SIG, of a
PRIVATE page of the core in this card's memory, while no write of its location is in flight and the L1 has room: its line
is in the L1, dirty, and the core's loads read there the bytes of the piece, and the line's others as before; no byte of
memory has changed, and the piece is performed. -/
def OwnPagesTakeTheirStores : Prop :=
  ∀ (s : State) (c : CoreId) (k : Nat) (r : StoreRec), (headPieces (getCore s c).ctx)[k]? = some r →
    r.part.len = r.data.length → 0 < r.part.len → r.part.pa / 8 = (r.part.pa + r.part.len - 1) / 8 →
    mine r.part = true → r.signal = false → placeOf s r.part.pa = .local → (getCore s c).l1.length < 8192 →
    (∀ o ∈ (getCore s c).ctx.aq.inflight, overlaps o.part r.part = false) →
    let pa := r.part.pa
    ∃ t, exec (.storePerformed c ((getCore s c).ctx.aq.inflight.length + k)) s = .next t ∧ MemorySame s t ∧
      (∃ e ∈ (getCore t c).l1, e.tag = pa / 64 ∧ e.priv = true ∧ e.dirty = true) ∧
      (∀ a, a / 64 = pa / 64 → loadedByte t c r.part a =
        if pa ≤ a ∧ a < pa + r.data.length then r.data.getD (a - pa) 0 else loadedByte s c r.part a) ∧
      OrderingLeft ((getCore s c).ctx.aq.stores.erase (.write r)) (getCore t c).ctx.aq.stores ∧
      (getCore t c).ctx.aq.inflight = (getCore s c).ctx.aq.inflight ∧
      { withoutHome (withoutCopies t c) c with loose := [] } = { withoutHome (withoutCopies s c) c with loose := [] }

/-- The write r of core c that is in flight is gone, and what this let leave the store queue (08 R226). -/
def PieceLanded (s t : State) (c : CoreId) (k : Nat) : Prop :=
  (getCore t c).ctx.aq.inflight = listErase (getCore s c).ctx.aq.inflight k ∧
  OrderingLeft (getCore s c).ctx.aq.stores (getCore t c).ctx.aq.stores

/-- 08 R229 and R230; 02 R51: STORE_PERFORMED of a piece in flight that may be performed, without SIG and not of a page
of the core itself. In this card's memory or a staging slice, the bytes of the piece hold the data, every other byte of
card memory and every byte of host memory reads as before, and a byte that it writes in order is no longer an appended one
(08 R240). In a scratchpad the same holds of what its bytes read as, where a fresh block reads as zero (06 R183). At the
host no byte changes any more, and the zero-length read goes out. The piece is no longer in flight. A piece that may not
be performed yet stays, and nothing changes. (A piece of the peer's memory waits for the peer's answer, 02 R58.) -/
def StorePerformedWritesItsBytes : Prop :=
  ∀ (s : State) (c : CoreId) (k : Nat) (r : StoreRec), (getCore s c).ctx.aq.inflight[k]? = some r →
    (mayPerform s c r = false → exec (.storePerformed c k) s = .next s) ∧
    (r.part.len = r.data.length → r.signal = false → mine r.part = false → mayPerform s c r = true →
      Memory.wf s.mem = true →
      let hide (y : Ctx) : Ctx := clearWaits { y with aq := { y.aq with inflight := [], stores := [] } }
      let pa := r.part.pa
      (placeOf s pa = .local ∨ (∃ n, placeOf s pa = .staging n) → ∃ t, exec (.storePerformed c k) s = .next t ∧
        (∀ a, memRead t.mem a = if h : pa ≤ a ∧ a - pa < r.data.length then r.data[a - pa]'h.2 else memRead s.mem a) ∧
        t.hostMem = s.hostMem ∧ PieceLanded s t c k ∧
        t.loose = (if r.appended ∨ r.data = [] then s.loose
          else s.loose.filter fun e => e.pa < pa || pa + r.data.length ≤ e.pa) ∧
        withoutHome { modCtx t c hide with mem := [], loose := [] } c =
          withoutHome { modCtx s c hide with mem := [], loose := [] } c) ∧
      (∀ d, placeOf s pa = .scratch d → pa / 8 = (pa + r.data.length - 1) / 8 →
        let others (s : State) : State :=
          modCore { s with mem := [], loose := [] } (coreOf d) fun k => { k with freshScratch := 0, dirtyScratch := 0 }
        ∃ t, exec (.storePerformed c k) s = .next t ∧
        (∀ a, physRead t a 1 = if pa ≤ a ∧ a - pa < r.data.length then [r.data.getD (a - pa) 0] else physRead s a 1) ∧
        t.hostMem = s.hostMem ∧ PieceLanded s t c k ∧ others (modCtx t c hide) = others (modCtx s c hide)) ∧
      (placeOf s pa = .host → ∃ t, exec (.storePerformed c k) s = .next t ∧ MemorySame s t ∧ PieceLanded s t c k ∧
        t.sent = .hostRequest (funcOf s c) false (busAddress s pa) 0 :: s.sent ∧
        { modCtx t c hide with sent := [] } = { modCtx s c hide with sent := [] }))

/-- The places that an APPEND writes in window w in the round r, as displacements from its BASE (12 R345): at CLEN +
j × ISTRIDE + OFF for each iteration j from 0 to SpecN. -/
def appendAt (w : Vector Word 3) (r : Round) : List Nat :=
  let clen := w[2].toNat % 2 ^ 32
  let stride := w[1].toNat / 2 ^ 16 % 2 ^ 16
  let off := w[2].toNat / 2 ^ 32 % 2 ^ 16
  (List.range (r.n + 1)).map fun j => clen + j * stride + off

/-- 12 R345 and 15 R420: an APPEND to a window that is not enabled faults with ACCESS, and one that does not fit with
APPEND-FULL; outside speculative mode one entry of a qs queue that fits is stored at BASE + CLEN and CLEN grows by the
size; in speculative mode one entry for each iteration is stored at its place, OFF grows by the size, and CLEN stays. -/
def AppendStoresAtTheWindow : Prop :=
  ∀ (s : State) (m : Fin 4) (n : Fin 4) (size : BitVec 3), AReady s [] → size.toNat ≤ 4 →
    (getStream (curCtx s) .v).enabled = true →
    let t := curCtx s
    let w := t.windows.get n
    let b := bytesOfSize size
    let clen := w[2].toNat % 2 ^ 32
    let i := Instr.append (BitVec.ofNat 5 (8 + m.val)) (BitVec.ofNat 5 n.val) size
    (w[1].getLsbD 11 = false → Traps i s .a .access 0 0 4) ∧
    (roundOf t .a = none → w[1].getLsbD 11 = true → w[1].toNat / 2 ^ 32 < clen + b → Traps i s .a .appendFull 0 0 4) ∧
    (∀ en rest ps u a, roundOf t .a = none → w[1].getLsbD 11 = true → clen + b ≤ w[1].toNat / 2 ^ 32 →
      t.q.qs.get m = en :: rest →
      (w[0].toNat + clen < 2 ^ 64 ∧ a = w[1].extractLsb' 0 8 ++ BitVec.ofNat 64 (w[0].toNat + clen)) →
      let w' := w.set 2 (BitVec.ofNat 64 ((clen + b) % 2 ^ 32 + w[2].toNat / 2 ^ 32 % 2 ^ 16 * 2 ^ 32))
      Resolves (modCur s fun t => { t with
        q := { t.q with qs := t.q.qs.set m.val rest m.isLt }, windows := t.windows.set n.val w' n.isLt }) .write
        [(a, 0, b)] ps u →
      RetiresTo i s (issueStore u s.cur ps ((List.range b).map fun j => en.val.extractLsb' (8 * j) 8) false false)) ∧
    ∀ r, roundOf t .a = some r → w[1].getLsbD 11 = true →
      let off := w[2].toNat / 2 ^ 32 % 2 ^ 16
      let stride := w[1].toNat / 2 ^ 16 % 2 ^ 16
      (stride < off + b ∨ w[1].toNat / 2 ^ 32 < clen + (r.n + 1) * stride → Traps i s .a .appendFull 0 0 4) ∧
      ∀ ens rest u, off + b ≤ stride → clen + (r.n + 1) * stride ≤ w[1].toNat / 2 ^ 32 → ens.length = r.n + 1 →
        t.q.qs.get m = ens ++ rest →
        appendStores (w[1].extractLsb' 0 8 ++ w[0]) b ((appendAt w r).zip (ens.map fun en => bytesOf en.val 0 256))
          (modCur s fun t => { t with
            q := { t.q with qs := t.q.qs.set m.val rest m.isLt }
            windows := t.windows.set n.val (w.set 2 (BitVec.ofNat 64 (clen + (off + b) % 2 ^ 16 * 2 ^ 32))) n.isLt }) = .ok u →
        RetiresTo i s u

/-- The state without what an acquire changes: the versions and the lines of core c and of its island, and which answers
of the peer may still fill them. -/
def withoutVersions (s : State) (c : CoreId) : State :=
  modIsland (modCore s c fun k => { k with ver := 0, l1 := [], fills := 0 }) (islandOf c) fun i =>
    { i with ver := 0, cache := [], fills := 0 }

/-- 07 R218: what an acquire at a scope makes of a version and its lines: from the scope at on, the version goes one up,
and at its wrap to 0 the lines that are not PRIVATE go. -/
def Bumped (applies : Prop) (v w : BitVec 4) (l m : List Line) : Prop :=
  (¬applies → w = v ∧ m = l) ∧ (applies → w = v + 1 ∧ m = if v = 15 then l.filter (fun e => e.priv) else l)

/-- The state t is s after an acquire at a scope by the A-stream's core (07 R218; 08 R231). -/
def Acquired (s t : State) (scope : Nat) : Prop :=
  Bumped (1 ≤ scope) (curCore s).ver (curCore t).ver (curCore s).l1 (curCore t).l1 ∧
  Bumped (2 ≤ scope) (getIsland s (islandOf s.cur)).ver (getIsland t (islandOf s.cur)).ver
    (getIsland s (islandOf s.cur)).cache (getIsland t (islandOf s.cur)).cache ∧
  withoutVersions (modCur t (blankWord .a)) s.cur = withoutVersions (modCur s (blankWord .a)) s.cur

/-- 08 R228 and R231: ACQ acquires once every load and atomic before it has returned, FENCE once moreover every write
before it is performed at its scope, and either waits until then. MARK and REL never wait: they take a place in the
store queue, which entries then leave as far as they may. (No write of the core was lost with the bridge, 02 R61.) -/
def OrderingWords : Prop :=
  ∀ (s : State) (sc : BitVec 3), AReady s [] → (curCtx s).aq.lost = [] →
    (readsDone s s.cur = true → ∃ t, exec (.acq sc) s = .next t ∧ Moved s t .a (after s .a 4) ∧ OneCycle s t ∧
      Acquired s t sc.toNat ∧ MemorySame s t) ∧
    (readsDone s s.cur = false → Waits (.acq sc) s .a) ∧
    (releaseReady s s.cur sc.toNat = true → ∃ t, exec (.fence sc) s = .next t ∧ Moved s t .a (after s .a 4) ∧
      OneCycle s t ∧ Acquired s t sc.toNat ∧ MemorySame s t) ∧
    (releaseReady s s.cur sc.toNat = false → Waits (.fence sc) s .a) ∧
    RetiresTo .mark s (drainStores (modCur { s with stamp := s.stamp + 1 } fun t => { t with aq := { t.aq with
      lastMark := s.stamp, stores := t.aq.stores ++ [.mark s.stamp] } }) s.cur) ∧
    RetiresTo (.rel sc) s (drainStores (modCur { s with stamp := s.stamp + 1 } fun t => { t with aq := { t.aq with
      stores := t.aq.stores ++ [.rel s.stamp sc.toNat] } }) s.cur)

/-- The state without what a prefetch may fill and what that costs: the L1 of the running core, its island's cache and
meter, the home slices, and the transactions of its walk. -/
def withoutFills (s : State) : State :=
  { modIsland (modCore s s.cur fun k => { k with l1 := [], ctx := { k.ctx with acct := { k.ctx.acct with jmem := 0 } } })
      (islandOf s.cur) (fun i => { i with cache := [], mmeter := 0 }) with
    home := Vector.replicate 64 []
    walkFills := 0 }

/-- 15 R419: PREF completes wherever its address points, faults at nothing, and changes nothing but caches and the cost
of filling them; with room in the L1 no byte of memory changes. -/
def PrefetchHasNoEffectOnData : Prop :=
  ∀ (s : State) (level : BitVec 5) (b : Fin 32) (size : BitVec 3) (e : BitVec 11), AReady s [b] →
    (curCore s).l1.length < 8192 →
    ∃ t, exec (.pref level b size e) s = .next t ∧ Moved s t .a (after s .a 4) ∧ OneCycle s t ∧ MemorySame s t ∧
      withoutFills (modCur t (blankWord .a)) = withoutFills (modCur s (blankWord .a))

/-- 15 R407 to R412: address words and append windows. -/
def Obligations.AddressWordsAndWindows : Prop :=
  AddressWordsComputeAddresses ∧ MovesAndWindows

/-- 15 R413 to R418; 08 R226: loads as they issue. -/
def Obligations.LoadWordsReserveTheirPlace : Prop :=
  LoadWordsIssueTheirLoad ∧ IssuedLoadsReserveTheirPlace ∧ AccessesAreCutAtLocations

/-- 15 R415 to R418; 08 R226 and R229: stores as they issue. -/
def Obligations.StoreWordsJoinTheStoreQueue : Prop :=
  StoreWordsIssueTheirStore ∧ IssuedStoresJoinTheQueue

/-- 02 R51 and R58; 07 R200 and R217; 08 R225, R226, R229 and R230; 12 R345; 15 R420: stores as they are performed, and
APPEND. -/
def Obligations.StoresReachMemory : Prop :=
  StorePerformedWritesItsBytes ∧ HeadPiecesLeaveTheQueue ∧ OwnPagesTakeTheirStores ∧ AppendStoresAtTheWindow

/-- 08 R226 to R231; 15 R419: the ordering words and PREF. -/
def Obligations.OrderingAndPrefetchWords : Prop :=
  OrderingWords ∧ PrefetchHasNoEffectOnData

/-! ### Atomics and monitors (15 R421 to R423; 08 R236; 09 R257) -/

/-- The location of an atomic or a WAITA of n bytes at A[b]: a multiple of n, below the window regions, allowed, and in
one piece p; u is the state after its translation (15 R423). -/
def AtomicAt (s : State) (b : Fin 32) (n : Nat) (k : WalkKind) (p : Part) (u : State) : Prop :=
  (aGet (curCtx s) b).toNat % n = 0 ∧ (aGet (curCtx s) b).toNat / 2 ^ 64 < 0xF0 ∧
  Resolves s k [(aGet (curCtx s) b, 0, n)] [p] u

/-- The low 32 or 64 bits of the offset of A[c]. -/
def operandOf (t : Ctx) (c : Fin 32) (wide : Bool) : Word :=
  if wide then (aGet t c).extractLsb' 0 64 else ((aGet t c).extractLsb' 0 32).setWidth 64

/-- u with the atomic a in both queues of the A-stream's core, as a MARK before and after it, and its register busy
(08 R226, R233). -/
def queued (u : State) (a : AtomicRec) : State :=
  drainStores (modCur { u with stamp := u.stamp + 1 } fun t => { t with
    aBusy := a.dest.toList ++ t.aBusy
    aq := { t.aq with lastMark := u.stamp + 1, stores := t.aq.stores ++ [.atomic a] } }) u.cur

/-- 15 R421 and R423: outside speculative mode AMO, ACAS and RED of an operation that is a word, at an aligned and
allowed location, issue one atomic with the operand from A[c], ACAS with the compared value of A[d]; in host memory only
those that the host port completes. An address that is no multiple of the size faults with MISALIGN, and a reserved
operation with ILLEGAL-WORD. -/
def AtomicWordsIssueTheirAtomic : Prop :=
  ∀ (s u : State) (d b c : Fin 32) (signal wide : Bool) (op : BitVec 4) (p : Part), roundOf (curCtx s) .a = none →
    let n := if wide then 8 else 4
    let t := curCtx s
    let made (op : BitVec 4) (cas : Bool) (cmp : Word) (dest : Option (Fin 32)) : AtomicRec :=
      { id := u.stamp, part := p, wide := wide, op := op, cas := cas, operand := operandOf t c wide, cmp := cmp
        signal := signal, dest := dest, sent := false }
    (AReady s [d, b, c] → AtomicAt s b n .atomic p u →
      (op.toNat < 9 ∨ (op = 9 ∧ wide = false) → (placeOf u p.pa = .host → op = 0 ∨ op = 4) →
        RetiresTo (.amo d b c signal wide op) s (queued u (made op false 0 (some d)))) ∧
      RetiresTo (.acas d b c signal wide) s (queued u (made 4 true (operandOf t d wide) (some d)))) ∧
    (AReady s [b, c] → AtomicAt s b n .atomic p u → op ≠ 4 → op.toNat < 9 ∨ (op = 9 ∧ wide = false) →
      (placeOf u p.pa = .host → op = 0) → RetiresTo (.red b c signal wide op) s (queued u (made op false 0 none))) ∧
    (AReady s [d, b, c] → 9 < op.toNat ∨ (op = 9 ∧ wide = true) →
      Traps (.amo d b c signal wide op) s .a .illegalWord 0 0 4) ∧
    (AReady s [b, c] → op = 4 ∨ 9 < op.toNat ∨ (op = 9 ∧ wide = true) →
      Traps (.red b c signal wide op) s .a .illegalWord 0 0 4) ∧
    ((aGet t b).toNat % n ≠ 0 →
      (AReady s [d, b, c] → Traps (.acas d b c signal wide) s .a .misalign 0 (aGet t b) 4) ∧
      (AReady s [d, b, c] → op.toNat < 9 ∨ (op = 9 ∧ wide = false) →
        Traps (.amo d b c signal wide op) s .a .misalign 0 (aGet t b) 4) ∧
      (AReady s [b, c] → op ≠ 4 → op.toNat < 9 ∨ (op = 9 ∧ wide = false) →
        Traps (.red b c signal wide op) s .a .misalign 0 (aGet t b) 4))

/-- Op of 15 R421 and R422 for values of w bits; operation 9 is the FP32 sum rounded to nearest, as VADD gives it. -/
def atomicResult (w : Nat) (op : BitVec 4) (old v : BitVec w) : BitVec w :=
  [old + v, old &&& v, old ||| v, old ^^^ v, v, if old.toInt ≤ v.toInt then old else v,
    if v.toInt ≤ old.toInt then old else v, if old.toNat ≤ v.toNat then old else v,
    if v.toNat ≤ old.toNat then old else v, BitVec.ofNat w (floatAdd 0 0 false false old.toNat v.toNat).1].getD op.toNat v

/-- What the atomic a, of n bytes, leaves at its location in place of old (15 R421). -/
def atomicLeaves (a : AtomicRec) (n : Nat) (old : BitVec (8 * n)) : BitVec (8 * n) :=
  let v := a.operand.setWidth (8 * n)
  if a.cas then (if old = a.cmp.setWidth (8 * n) then v else old) else atomicResult (8 * n) a.op old v

/-- The atomic a of core c, which was at the head of the store queue before q, is over: its old value of n bytes,
zero-extended, has reached its register, and it has left the queue. -/
def AtomicOver (s t : State) (c : CoreId) (a : AtomicRec) (q : List SqEntry) (n : Nat) (old : BitVec (8 * n)) : Prop :=
  OrderingLeft q (getCore t c).ctx.aq.stores ∧
  (∀ d, a.dest = some d → aGet (getCore t c).ctx d = (if d = 0 then 0 else old.setWidth 72) ∧
    (∀ e, e ≠ d → aGet (getCore t c).ctx e = aGet (getCore s c).ctx e) ∧
    (getCore t c).ctx.aBusy = (getCore s c).ctx.aBusy.erase d) ∧
  (a.dest = none → (getCore t c).ctx.a = (getCore s c).ctx.a)

/-- 08 R236; 15 R421 and R422; 02 R51 and R59: ATOMIC_PERFORMED of the atomic at the head of the store queue, whose line
the L1 of its core does not hold dirty, when it may be applied: the 4 or 8 bytes of the location in this card's memory, or
in host memory, to which the request goes out, hold Op of the old value and the operand (for ACAS the operand when the old
value equals the compared one), every other byte reads as before, the old value, zero-extended, reaches the register, and
the atomic has left the queue. (No byte of the location is an appended one, 08 R240.) An atomic in the peer's memory goes
out once as a request, and stays until the peer answers. One that may not be applied yet stays, and nothing changes. -/
def AtomicPerformedAppliesTheOperation : Prop :=
  ∀ (s : State) (c : CoreId) (a : AtomicRec) (q : List SqEntry), (getCore s c).ctx.aq.stores = .atomic a :: q →
    (mayApplyAtomic s c a = false → exec (.atomicPerformed c) s = .next s) ∧
    (mayApplyAtomic s c a = true → a.op.toNat < 10 →
      (∀ l ∈ (getCore s c).l1, l.tag = a.part.pa / 64 → l.dirty = false) →
      let n := if a.wide then 8 else 4
      let pa := a.part.pa
      let bus := busAddress s pa
      (placeOf s pa = .local → Memory.wf s.mem = true → (∀ e ∈ s.loose, e.pa < pa ∨ pa + 8 ≤ e.pa) →
        let old : BitVec (8 * n) := BitVec.ofNat (8 * n)
          (((List.range n).map fun i => (memRead s.mem (pa + i)).toNat * 256 ^ i).sum)
        ∃ t, exec (.atomicPerformed c) s = .next t ∧
          (∀ b, memRead t.mem b = if pa ≤ b ∧ b < pa + n then (atomicLeaves a n old).extractLsb' (8 * (b - pa)) 8
            else memRead s.mem b) ∧
          t.hostMem = s.hostMem ∧ AtomicOver s t c a q n old) ∧
      (placeOf s pa = .host → Memory.wf s.hostMem = true → (∀ e ∈ s.loose, e.pa < pa ∨ pa + 8 ≤ e.pa) →
        let old : BitVec (8 * n) := BitVec.ofNat (8 * n)
          (((List.range n).map fun i => (memRead s.hostMem (bus + i)).toNat * 256 ^ i).sum)
        ∃ t, exec (.atomicPerformed c) s = .next t ∧ t.mem = s.mem ∧
          (∀ b, memRead t.hostMem b = if bus ≤ b ∧ b < bus + n then (atomicLeaves a n old).extractLsb' (8 * (b - bus)) 8
            else memRead s.hostMem b) ∧
          .hostRequest (funcOf s c) true bus n ∈ t.sent ∧ AtomicOver s t c a q n old) ∧
      (placeOf s pa = .peer → a.sent = true → exec (.atomicPerformed c) s = .next s) ∧
      (placeOf s pa = .peer → a.sent = false → c.val < 64 → ∃ t, exec (.atomicPerformed c) s = .next t ∧ MemorySame s t ∧
        (getCore t c).ctx.aq.stores = .atomic { a with sent := true } :: q ∧
        ∃ m, t.sent = .bridgeAtomic a.id m :: s.sent ∧ m.pa = pa ∧ m.op = a.op ∧ m.cas = a.cas ∧ m.wide = a.wide ∧
          m.signal = a.signal ∧ m.operand = a.operand ∧ m.compare = a.cmp ∧ m.core.val = c.val ∧ m.watch = false))

/-- The waiters of the monitor entry of a line have been woken by what took s to t, those of the peer by the status of
their WAITA, and the entry is free; the entries of other lines are as they were (09 R257 to R259). -/
def WokenLine (s t : State) (line : Nat) : Prop :=
  (∀ e ∈ t.monitors, e.line ≠ line) ∧ (∀ e, e.line ≠ line → (e ∈ t.monitors ↔ e ∈ s.monitors)) ∧
  ∀ m, (s.monitors.find? fun m => m.line == line) = some m →
    (∀ c ∈ m.waiters, ∀ d, (getCore s c).ctx.aq.waita = .registered line d →
      (getCore t c).ctx.aq.waita = .woken d ∧ ∀ st, (getStream (getCore t c).ctx st).waiting = false) ∧
    ∀ c ∈ m.peers, .bridgeStatus c 1 ∈ t.sent

/-- 09 R258 and R259: a store or an atomic with SIGNAL wakes the waiters of its line as it is performed at the line's home
on this card, and so does a write by an engine whose job card marks it as signalling. -/
def SignalsWakeTheirWaiters : Prop :=
  ∀ (s : State) (c : CoreId),
    (∀ k r, (getCore s c).ctx.aq.inflight[k]? = some r → r.signal = true → 0 < r.part.len →
      r.part.pa / 8 = (r.part.pa + r.part.len - 1) / 8 → mayPerform s c r = true → placeOf s r.part.pa ≠ .host →
      ∃ t, exec (.storePerformed c k) s = .next t ∧ WokenLine s t (r.part.pa / 64)) ∧
    (∀ a q, (getCore s c).ctx.aq.stores = .atomic a :: q → a.signal = true → mayApplyAtomic s c a = true →
      placeOf s a.part.pa ≠ .host → placeOf s a.part.pa ≠ .peer →
      ∃ t, exec (.atomicPerformed c) s = .next t ∧ WokenLine s t (a.part.pa / 64)) ∧
    ∀ io u t w p data, 0 < p.len → p.pa / 64 = (p.pa + p.len - 1) / 64 → placeOf s p.pa ≠ .peer →
      engStorePart s io w c true p data = .ok () u t → WokenLine s t (p.pa / 64)

/-- u with the A-stream of the running core waiting at its word. -/
def waitingA (u : State) : State := modCur u fun c => modStream c .a fun x => { x with waiting := true }

/-- 09 R257 and R259: WAITA outside speculative mode: with no stores before its MARK left and the location in this
card's memory, a value that differs from A[c] completes with status 0; an equal value registers the core at the line's
monitor and the word waits, or with 64 other lines registered at the home slice completes with status 2; once the
monitor has woken it, it completes with status 1. At a location of the peer's memory the compare is asked of the peer,
whose answer is the status; a location of host memory faults with ACCESS. That the question goes out as a request of an
atomic with a mark is the model's choice (log entry 105). -/
def WaitaComparesAndWaits : Prop :=
  ∀ (s : State) (d b c : Fin 32) (wide : Bool), AReady s [d, b, c] → roundOf (curCtx s) .a = none →
    let i := Instr.waita d b c wide
    let n := if wide then 8 else 4
    let q := (curCtx s).aq
    let done (status : Nat) : Prop := Completes i s .a (after s .a 4)
      (fun c => hideA d { c with aq := { c.aq with waita := .none } }) fun t =>
        HoldsA t d (BitVec.ofNat 72 (status % 2 ^ 64)) ∧ (curCtx t).aq.waita = .none
    (∀ e, q.waita = .woken e → done 1) ∧
    (∀ e k, q.waita = .answered e k → done k) ∧
    (∀ l e, q.waita = .registered l e → Waits i s .a) ∧
    (∀ k pa e, q.waita = .asked k pa e → Waits i s .a) ∧
    ∀ p u, q.waita = .none → AtomicAt s b n .read p u →
      (placeOf u p.pa = .host → Traps i s .a .access 0 (aGet (curCtx s) b) 4) ∧
      (placeOf u p.pa ≠ .host → writesBefore u (curCtx u) (curCtx u).aq.lastMark = false →
        (placeOf u p.pa = .peer → ∃ t k, exec i s = .next (waitingA t) ∧ (curCtx t).aq.waita = .asked k p.pa d ∧
          t.monitors = u.monitors ∧ MemorySame u t) ∧
        ∀ v w, placeOf u p.pa ≠ .peer → homeValue u p = (v, w) →
          (v ≠ (operandOf (curCtx s) c wide).toNat → RetiresTo i s (modCur w fun t => aSet64 t d 0)) ∧
          (v = (operandOf (curCtx s) c wide).toNat →
            (addMonitor w (p.pa / 64) = none → RetiresTo i s (modCur w fun t => aSet64 t d 2)) ∧
            ∀ m, addMonitor w (p.pa / 64) = some m →
              exec i s = .next (waitingA (modCur m fun t =>
                { t with aq := { t.aq with waita := .registered (p.pa / 64) d } })) ∧
              ∃ e ∈ m.monitors, e.line = p.pa / 64 ∧ s.cur ∈ e.waiters))

/-- 09 R257 to R259; 15 R421: WAITA, and what wakes it. -/
def Obligations.WaitaWatchesItsLine : Prop :=
  WaitaComparesAndWaits ∧ SignalsWakeTheirWaiters

/-! ### Rings (09 R245 to R249) -/

/-- Fields of a ring descriptor (09 R245). -/
def ringField (d : Word) (lo w : Nat) : BitVec w := d.extractLsb' lo w

/-- A word names ring n of core c: its register has region 0 and an offset that with imm gives 32 c + n, and the ring is
the own core's or of a core with a resident task of the same ASID (15 R424; 07 R198). -/
def NamesRing (s : State) (b : Fin 32) (e : BitVec 11) (c : Fin 64) (n : Fin 32) : Prop :=
  (aGet (curCtx s) b).toNat + e.toNat = 32 * c.val + n.val ∧
  (c.val = s.cur.val ∨ (getCore s (tile c)).busy = true ∧ (getCore s (tile c)).ctx.asid = (curCtx s).asid)

/-- The state without ring n of core c. -/
def withoutRing (s : State) (c : Fin 64) (n : Fin 32) : State :=
  modCore s (tile c) fun k => { k with rings := k.rings.set n.val ⟨0, 0, []⟩ n.isLt }

/-- The instruction i, an A-word, completes at s, acquires at a scope, and changes nothing else but what hide takes out
of the task and ring n of core c. -/
def RingCompletes (i : Instr) (s : State) (acquires : Option Nat) (hide : Ctx → Ctx) (c : Fin 64) (n : Fin 32)
    (post : State → Prop) : Prop :=
  ∃ t, exec i s = .next t ∧ Moved s t .a (after s .a 4) ∧ OneCycle s t ∧ MemorySame s t ∧ post t ∧
    (match acquires with
      | none => withoutRing (modCur t fun x => hide (blankWord .a x)) c n =
          withoutRing (modCur s fun x => hide (blankWord .a x)) c n
      | some scope => Acquired (withoutRing (modCur s hide) c n) (withoutRing (modCur t hide) c n) scope)

/-- The address of slot k of a ring of core c with descriptor d (09 R247). -/
def slotOf (c : Fin 64) (d : Word) (k : Nat) : VAddr :=
  BitVec.ofNat 72 (0xFD * 2 ^ 64 + c.val * 2 ^ 20 + ((ringField d 0 20).toNat + k * 2 ^ ((ringField d 20 4).toNat + 6)))

/-- The descriptors d and e agree but for HEAD, TAIL and CLAIM, which are as given in e (09 R245, R247). -/
def RingMoves (d e : Word) (head tail claim : BitVec 9) : Prop :=
  e.extractLsb' 0 32 = d.extractLsb' 0 32 ∧ ringField e 32 9 = head ∧ ringField e 41 9 = tail ∧ ringField e 50 9 = claim

/-- s with the running A-stream waiting at ring n of core c (09 R249). -/
def waitingAt (s : State) (c : Fin 64) (n : Fin 32) : State :=
  waitingA (modCur s fun t => { t with aq := { t.aq with ringWait := some (tile c, n.val, false) } })

/-- 09 R247 and R249: the words of an enabled ring of 2^LCOUNT slots, outside speculative mode. RCLAIM with a slot free,
no earlier waiter and every load returned takes position CLAIM and acquires; RWAITF with TAIL ≠ HEAD gives the head slot
and acquires, and waits otherwise; RFREE with TAIL ≠ HEAD, once its release is complete, frees the head, and faults with
QUEUE otherwise; RPUB of a CLAIMED slot, once its release is complete, fills it, and TAIL passes every FILLED slot from
its old place on. RSTAT reads the descriptor. A word that waits at a ring which is disabled meanwhile faults with
ACCESS, as every word at a ring that is not enabled. -/
def RingWordsMoveTheRing : Prop :=
  ∀ (s : State) (d b : Fin 32) (e : BitVec 11) (c : Fin 64) (n : Fin 32), AReady s [d, b] →
    roundOf (curCtx s) .a = none → (curCtx s).aq.lost = [] → NamesRing s b e c n →
    let r := (getCore s (tile c)).rings.get n
    let w := r.desc
    let head := ringField w 32 9
    let tail := ringField w 41 9
    let claim := ringField w 50 9
    let count := 2 ^ (ringField w 24 4).toNat
    let scope := (ringField w 28 3).toNat
    let new (t : State) : Ring := (getCore t (tile c)).rings.get n
    let gone := ∃ at_ n, (curCtx s).aq.ringWait = some (at_, n, true)
    Completes (.rstatRead d b e) s .a (after s .a 4) (hideA d) (fun t => HoldsA t d (w.setWidth 72)) ∧
    (w.getLsbD 31 = false ∨ gone → Traps (.rclaim d b e) s .a .access 0 0 4 ∧ Traps (.rpub d b e) s .a .access 0 0 4 ∧
      Traps (.rwaitf d b e) s .a .access 0 0 4 ∧ Traps (.rfree b e) s .a .access 0 0 4) ∧
    (w.getLsbD 31 = true → ¬gone → (ringField w 24 4).toNat ≤ 8 →
      ((claim - head).toNat = count → exec (.rclaim d b e) s = .next (modCore (waitingAt s c n) (tile c) fun k =>
        { k with
        rings := k.rings.set n.val { r with
          waiters := if s.cur ∈ r.waiters then r.waiters else r.waiters ++ [s.cur] } n.isLt })) ∧
      ((r.waiters = [] ∨ r.waiters.head? = some s.cur) → (claim - head).toNat < count → readsDone s s.cur = true →
        RingCompletes (.rclaim d b e) s (some scope) (hideA d) c n fun t =>
          HoldsA t d (slotOf c w (claim.toNat % count)) ∧ RingMoves w (new t).desc head tail (claim + 1) ∧
          (new t).filled = r.filled ∧ (new t).waiters = r.waiters.filter (· != s.cur)) ∧
      (tail ≠ head → readsDone s s.cur = true → RingCompletes (.rwaitf d b e) s (some scope) (hideA d) c n fun t =>
        HoldsA t d (slotOf c w (head.toNat % count)) ∧ new t = r) ∧
      (tail = head → exec (.rwaitf d b e) s = .next (waitingAt s c n) ∧ Traps (.rfree b e) s .a .queue 0 0 4) ∧
      (tail ≠ head → releaseReady s s.cur scope = true → RingCompletes (.rfree b e) s none hideNone c n fun t =>
        RingMoves w (new t).desc (head + 1) tail claim ∧ (new t).filled = r.filled ∧ (new t).waiters = r.waiters) ∧
      ∀ k, k < count → aGet (curCtx s) d = slotOf c w k → (ringField w 0 20).toNat + k * 2 ^ ((ringField w 20 4).toNat + 6) < 2 ^ 20 →
        slotClaimed r k = true → releaseReady s s.cur scope = true →
        RingCompletes (.rpub d b e) s none hideNone c n fun t =>
          new t = advanceTail 256 { r with filled := setBit r.filled k true } ∧
          RingMoves w (new t).desc head (ringField (new t).desc 41 9) claim)

/-- The state without what waits at rings. -/
def withoutRingWaits (s : State) : State :=
  { s with cores := s.cores.map fun k => { k with ctx := { k.ctx with aq := { k.ctx.aq with ringWait := none } } } }

/-- 09 R245, R246 and R249: RSTAT sets a ring of its own core: a legal descriptor whose ring is not in use stores its
low 32 bits, clears HEAD, TAIL and CLAIM and frees every slot; with EN clear the words of other cores that wait at the
ring fault when they look again. An illegal descriptor, or a ring in use, faults with QUEUE; another core's ring faults
with ACCESS. -/
def RstatSetsItsOwnRing : Prop :=
  ∀ (s : State) (d b : Fin 32) (e : BitVec 11) (c : Fin 64) (n : Fin 32), AReady s [d, b] →
    roundOf (curCtx s) .a = none → (aGet (curCtx s) b).toNat + e.toNat = 32 * c.val + n.val →
    let v := (aGet (curCtx s) d).extractLsb' 0 64
    let r := (curCore s).rings.get n
    let size := 2 ^ ((ringField v 20 4).toNat + 6)
    let base := (ringField v 0 20).toNat
    let legal := v.getLsbD 31 = false ∨ ((ringField v 20 4).toNat ≤ 10 ∧ (ringField v 24 4).toNat ≤ 8 ∧
      (ringField v 28 3).toNat ≤ 2 ∧ base % size = 0 ∧ base + 2 ^ (ringField v 24 4).toNat * size ≤ 0x100000 ∧
      ringField v 59 5 = 0)
    let inUse := r.desc.getLsbD 31 = true ∧ ringField r.desc 50 9 ≠ ringField r.desc 32 9
    (c.val ≠ s.cur.val → Traps (.rstatSet d b e) s .a .access 0 0 4) ∧
    (c.val = s.cur.val → inUse ∨ ¬legal → Traps (.rstatSet d b e) s .a .queue 0 0 4) ∧
    (c.val = s.cur.val → ¬inUse → legal →
      ∃ t, exec (.rstatSet d b e) s = .next t ∧ Moved s t .a (after s .a 4) ∧ OneCycle s t ∧ MemorySame s t ∧
        withoutRing (withoutRingWaits (modCur t (blankWord .a))) c n =
          withoutRing (withoutRingWaits (modCur s (blankWord .a))) c n ∧
        (curCore t).rings.get n = { desc := (v.extractLsb' 0 32).setWidth 64, filled := 0
                                    waiters := if v.getLsbD 31 then r.waiters else [] } ∧
        ∀ k, k ≠ s.cur → (getCore t k).ctx.aq.ringWait = ((getCore s k).ctx.aq.ringWait.map fun x =>
          (x.1, x.2.1, x.2.2 || (!v.getLsbD 31 && x.1 == s.cur && x.2.1 == n.val))))

/-! ### Barriers (09 R251 to R253) -/

/-- 09 R252 and R253: with an operand below the depth of the task's group, BARR of a position that has no arrival of the
task and whose release is complete sets its ARRIVED bit, counts the arrival and then checks the barrier; BEXPECT adds a
count within its bound to PEND within its bound and checks; BWAIT acquires once the position is clear; BARR and BWAIT wait while it is not; BROT
rotates BBASE. An operand that is no barrier of the group, or a count or a PEND above 2^28 − 1, faults with
BARRIER-RANGE. -/
def BarrierWordsFollowTheirRule : Prop :=
  ∀ (s : State) (a : Fin 32) (b : Fin 16) (file first : Nat), AReady s [a] → roundOf (curCtx s) .a = none →
    (curCtx s).aq.lost = [] → (curCtx s).barFile = some (file, first) →
    let c := (curCtx s).csr
    let depth := c.bdepth.toNat
    let p := (c.bbase.toNat + b.val) % depth
    let x := barGet s file (first + p)
    let n : Nat := (aGet (curCtx s) a).toNat % 2 ^ 64
    (depth ≤ b.val → Traps (.barr b) s .a .barrierRange 0 0 4 ∧ Traps (.bwait b) s .a .barrierRange 0 0 4 ∧
      Traps (.bexpect a b) s .a .barrierRange 0 0 4) ∧
    (depth = 0 → Traps .brot s .a .barrierRange 0 0 4) ∧
    (b.val < depth →
      (c.arrived.getLsbD p = false → releaseReady s s.cur (groupScope s) = true →
        RetiresTo (.barr b) s (checkComplete (barSet (modCur s fun t => { t with
          csr := { t.csr with arrived := setBit t.csr.arrived p true } }) file (first + p) { x with arr := x.arr + 1 })
          file (first + p))) ∧
      (c.arrived.getLsbD p = true → Waits (.barr b) s .a ∧ Waits (.bwait b) s .a) ∧
      (c.arrived.getLsbD p = false → readsDone s s.cur = true → ∃ t, exec (.bwait b) s = .next t ∧
        Moved s t .a (after s .a 4) ∧ OneCycle s t ∧ MemorySame s t ∧ Acquired s t (groupScope s)) ∧
      (n > 2 ^ 28 - 1 ∨ x.pend + n > 2 ^ 28 - 1 → Traps (.bexpect a b) s .a .barrierRange 0 0 4) ∧
      (n = 0 → x.pend ≤ 2 ^ 28 - 1 → Completes (.bexpect a b) s .a (after s .a 4) hideNone fun _ => True) ∧
      (0 < n → n ≤ 2 ^ 28 - 1 → x.pend + n ≤ 2 ^ 28 - 1 → RetiresTo (.bexpect a b) s
        (checkComplete (barSet s file (first + p) { x with pend := x.pend + n }) file (first + p)))) ∧
    (0 < depth → depth ≤ 16 → Completes .brot s .a (after s .a 4)
      (fun c => { c with csr := { c.csr with bbase := 0 } }) fun t =>
        (curCtx t).csr.bbase.toNat = (c.bbase.toNat + 1) % depth)

/-- 09 R253, CheckComplete: a barrier in use whose arrivals equal its expected number, with no bytes pending, has its
arrivals cleared, and its bit of ARRIVED is cleared in every task of the group, resident or saved by the dispatcher or
by a yield; any other barrier is left as it is. -/
def CheckCompleteReleasesTheGroup : Prop :=
  ∀ (s : State) (file idx : Nat), let b := barGet s file idx
    (b.arr ≠ b.exp ∨ b.pend ≠ 0 ∨ b.used = false → checkComplete s file idx = s) ∧
    (b.arr = b.exp → b.pend = 0 → b.used = true → idx < 64 → file < 16 →
      let t := checkComplete s file idx
      barGet t file idx = { b with arr := 0 } ∧
      ∀ (c : CoreId) (first p : Nat), (getCore s c).busy = true → (getCore s c).ctx.barFile = some (file, first) →
        p < (getCore s c).ctx.csr.bdepth.toNat → p < 16 → (getCore t c).ctx.csr.arrived.getLsbD p =
          ((getCore s c).ctx.csr.arrived.getLsbD p && decide (first + p ≠ idx))) ∧
    (b.arr = b.exp → b.pend = 0 → b.used = true → ∀ (k : Nat) (v : SavedTask) (first p : Nat), p < 16 →
      v.ctx.barFile = some (file, first) → p < v.ctx.csr.bdepth.toNat →
      let left (w : SavedTask) : Prop := w.ctx.csr.arrived.getLsbD p =
        (v.ctx.csr.arrived.getLsbD p && decide (first + p ≠ idx))
      (s.disp.saved[k]? = some v → ∃ w, (checkComplete s file idx).disp.saved[k]? = some w ∧ left w) ∧
      (s.yields[k]? = some v → ∃ w, (checkComplete s file idx).yields[k]? = some w ∧ left w))

/-! ### Split counters (09 R260 to R266) -/

/-- A word names split counter n: its register has region 0 and an offset that with the immediate gives n, below 4,096;
the object x is bound to the task's ASID (09 R260; 15 R426). -/
def NamesCounter (s : State) (b : Fin 32) (e : BitVec 12) (n : Nat) (x : SplitCounter) : Prop :=
  (aGet (curCtx s) b).toNat + e.toNat = n ∧ n < 4096 ∧ tfind s.counters n = some x ∧ x.bound = some (curCtx s).asid

/-- The allowances of an object are listed once each, in ascending order of their holders. -/
def holdersOk (x : SplitCounter) : Prop := x.allow.Pairwise fun a b => a.1 < b.1

/-- T of 09 R260. -/
def totalOf (x : SplitCounter) : Nat := x.res + (x.allow.map fun e => e.2).sum

/-- The instruction i, an A-word, completes at s, gives status v to A[d], and leaves object n as post says. -/
def CounterCompletes (i : Instr) (s : State) (d : Fin 32) (v : Nat) (n : Nat) (post : SplitCounter → Prop) : Prop :=
  ∃ t y, exec i s = .next t ∧ Moved s t .a (after s .a 4) ∧ OneCycle s t ∧ MemorySame s t ∧
    HoldsA t d (BitVec.ofNat 72 (v % 2 ^ 64)) ∧ tfind t.counters n = some y ∧ post y

/-- 09 R260, R263, R265 and R266: the words of an object that no request waits for, outside speculative mode. With
1 ≤ n units: SCDEC.TRY and SCDEC.WAIT take them, and give 0, exactly when T covers them, and TRY gives 1 and leaves T
otherwise; SCDEC.RES takes them exactly when T − n is at least its floor; SCINC adds them, and gives 0, unless they do not
fit in the own allowance and the reserve, with the allowance above its hint, would pass 2^48 − 1, when it gives 3 and
leaves the object. SCRD gives RES and the own allowance; SCRDX gives T and
leaves it as the reserve with no allowance; 0 units change no object. -/
def SplitCountersKeepTheTotal : Prop :=
  ∀ (s : State) (d b : Fin 32) (e : BitVec 12) (obj : Nat) (x : SplitCounter), AReady s [d, b] →
    roundOf (curCtx s) .a = none → NamesCounter s b e obj x → holdersOk x → x.fifo = [] → s.cur.val < 64 →
    (curCtx s).aq.scWait = .none → (curCore s).scCache.length < 32 →
    (∀ h, tget x.allow h 0 < 2 ^ 32) → x.hints.Pairwise (fun a b => a.1 < b.1) →
    (∀ h ∈ x.allow.map (·.1), h ∈ x.hints.map (·.1)) →
    let v := (aGet (curCtx s) d).toNat % 2 ^ 64
    let n := v % 2 ^ 32
    let floor := v / 2 ^ 32
    (0 < n → n ≤ totalOf x →
      CounterCompletes (.scdecTry d b e) s d 0 obj (fun y => totalOf y + n = totalOf x ∧ y.fifo = []) ∧
      CounterCompletes (.scdecWait d b e) s d 0 obj fun y => totalOf y + n = totalOf x ∧ y.fifo = []) ∧
    (0 < n → totalOf x < n → CounterCompletes (.scdecTry d b e) s d 1 obj fun y =>
      totalOf y = totalOf x ∧ y.fifo = []) ∧
    (0 < n → n + floor ≤ totalOf x →
      CounterCompletes (.scdecRes d b e) s d 0 obj fun y => totalOf y + n = totalOf x ∧ y.fifo = []) ∧
    (0 < n → totalOf x < n + floor →
      CounterCompletes (.scdecRes d b e) s d 1 obj fun y => totalOf y = totalOf x ∧ y.fifo = []) ∧
    (0 < n → totalOf x + n ≤ 2 ^ 48 - 1 →
      CounterCompletes (.scinc d b e) s d 0 obj fun y => totalOf y = totalOf x + n ∧ y.fifo = []) ∧
    (0 < n → (∀ h, tfind x.hints s.cur.val = some h → min (2 * h) (2 ^ 32 - 1) < tget x.allow s.cur.val 0 + n) →
      2 ^ 48 - 1 < x.res + n + ((tfind x.hints s.cur.val).map fun h => tget x.allow s.cur.val 0 - h).getD 0 →
      CounterCompletes (.scinc d b e) s d 3 obj fun y => y = x) ∧
    (n = 0 → CounterCompletes (.scdecTry d b e) s d 0 obj (fun y => y = x) ∧
      CounterCompletes (.scdecWait d b e) s d 0 obj (fun y => y = x) ∧
      CounterCompletes (.scdecRes d b e) s d 0 obj (fun y => y = x) ∧
      CounterCompletes (.scinc d b e) s d 0 obj fun y => y = x) ∧
    CounterCompletes (.scrd d b e) s d (x.res + tget x.allow s.cur.val 0) obj (fun y => y = x) ∧
    CounterCompletes (.scrdx d b e) s d (totalOf x) obj fun y =>
      y.res = totalOf x ∧ y.allow = [] ∧ y.hints = [] ∧ y.fifo = []

/-- 09 R260, R261 and 15 R426: SCINIT of an object that is not bound to another ASID, with at most 2^48 − 1 units, binds
it to the task's ASID with all units in reserve, and gives 0; more units, or an object of another ASID, fault with ACCESS.
The other words of an object that is bound to another ASID or of none, and every word with an object number above 4,095,
fault with ACCESS. A SCDEC.WAIT that its object has ended gives
the status; one that is queued still waits. -/
def ScinitBindsAndOthersFault : Prop :=
  ∀ (s : State) (d b : Fin 32) (e : BitVec 12), AReady s [d, b] → roundOf (curCtx s) .a = none →
    let t := curCtx s
    let obj := (aGet t b).toNat + e.toNat
    let x := tget s.counters obj ⟨0, none, [], [], [], 0⟩
    let v := (aGet t d).toNat % 2 ^ 64
    (obj < 4096 → (x.bound = none ∨ x.bound = some t.asid) → v ≤ 2 ^ 48 - 1 → x.fifo = [] →
      CounterCompletes (.scinit d b e) s d 0 obj fun y =>
        y.bound = some t.asid ∧ y.res = v ∧ y.allow = [] ∧ y.fifo = []) ∧
    (obj < 4096 → ((∃ o, x.bound = some o ∧ o ≠ t.asid) ∨ 2 ^ 48 - 1 < v) →
      Traps (.scinit d b e) s .a .access 0 0 4) ∧
    (4096 ≤ obj → (∀ i, i ∈ [Instr.scdecTry d b e, .scdecRes d b e, .scinc d b e, .scrd d b e, .scrdx d b e,
      .scinit d b e] → Traps i s .a .access 0 0 4) ∧
      (t.aq.scWait = .none → Traps (.scdecWait d b e) s .a .access 0 0 4)) ∧
    (obj < 4096 → x.bound ≠ some t.asid →
      (∀ i, i ∈ [Instr.scdecTry d b e, .scdecRes d b e, .scinc d b e, .scrd d b e, .scrdx d b e] →
        Traps i s .a .access 0 0 4) ∧
      (t.aq.scWait = .none → Traps (.scdecWait d b e) s .a .access 0 0 4)) ∧
    (∀ r status, t.aq.scWait = .ended r status → Completes (.scdecWait d b e) s .a (after s .a 4)
      (fun c => hideA d { c with aq := { c.aq with scWait := .none } }) fun t =>
        HoldsA t d (BitVec.ofNat 72 (status % 2 ^ 64))) ∧
    ∀ n r, t.aq.scWait = .queued n r → Waits (.scdecWait d b e) s .a

/-! ### Jobs and sample requests (15 R427, R436, R437; 12 R328, R330) -/

/-- 15 R427 to R429 and R436: with the card or descriptor at a multiple of 64 read behind every earlier write, and fewer
than 32 jobs of the core, or 8 requests of the task, outstanding, JOB submits one job with the card and SAMPLE one request, each as
the newest; a job whose card is legal, names no barrier and is no collective waits for its start as the last in dispatch
order. What the read of a descriptor costs is the request's (04 R114). At the limit the word waits; another address
faults with MISALIGN. -/
def JobAndSampleSubmit : Prop :=
  ∀ (s : State) (b : Fin 32), AReady s [b] →
    let t := curCtx s
    let a := aGet t b
    (a.toNat % 64 ≠ 0 → (roundOf t .a = none → Traps (.job b) s .a .misalign 0 a 4) ∧
      Traps (.sample b) s .a .misalign 0 a 4) ∧
    (a.toNat % 64 = 0 → roundOf t .a = none → 32 ≤ jobsAt s s.cur →
      Waits (.job b) s .a) ∧
    (a.toNat % 64 = 0 → 8 ≤ (s.samples.filter fun r => r.task == t.task).length → Waits (.sample b) s .a) ∧
    ∀ card u, a.toNat % 64 = 0 → readCard s a = .ok (card, u) →
      (roundOf t .a = none → jobsAt s s.cur < 32 → cardOk card = true →
        card.getLsbD 9 = false → card.extractLsb' 0 8 ≠ 3 →
        ∃ j : Job, RetiresTo (.job b) s { u with
            nextJob := u.nextJob + 1
            jobs := u.jobs ++ [j]
            disp := { u.disp with order := u.disp.order ++ [(true, u.nextJob)] } } ∧
          j.num = u.nextJob ∧ j.task = (curCtx u).task ∧ j.core = u.cur ∧ j.card = card ∧ j.cardVa = a ∧ j.phase = .waiting ∧
          j.fence = u.stamp ∧ j.bar = none ∧ j.moved = 0) ∧
      (roundOf t .a = none → jobsAt s s.cur < 32 → cardOk card = false →
        ∃ j : Job, RetiresTo (.job b) s { u with nextJob := u.nextJob + 1, jobs := u.jobs ++ [j] } ∧ j.num = u.nextJob ∧
          j.phase = .done ∧ j.status = 12) ∧
      ((s.samples.filter fun r => r.task == t.task).length < 8 →
        let unmetered (x : State) : State := modIsland (modCur x fun t =>
          { t with acct := ⟨0, 0, 0, 0, 0⟩ }) (islandOf s.cur)
          fun i => { i with mmeter := 0 }
        ∃ (r : Sample) (w : State),
          RetiresTo (.sample b) s { w with nextJob := w.nextJob + 1, samples := w.samples ++ [r] } ∧
          unmetered w = unmetered u ∧ (curCtx w).acct = t.acct ∧ r.num = u.nextJob ∧
          r.task = t.task ∧ r.desc = card ∧ r.cardVa = a ∧ r.drawn = 0 ∧ r.bad = false ∧ r.decided = none ∧
          r.specN = (roundOf t .a).map fun r => r.n)

/-- 15 R437: SRPOP takes the oldest reply of the sampler into A[d], zero-extended, and with F also pushes it to the
queue A to S when that has room; it waits for a reply, and for the room. -/
def SrpopTakesAReply : Prop :=
  ∀ (s : State) (d : Fin 32), AReady s [d] → let c := curCtx s
    (c.q.reply = [] → Waits (.srpop d false) s .a ∧ Waits (.srpop d true) s .a) ∧
    ∀ e r, c.q.reply = e :: r →
      Completes (.srpop d false) s .a (after s .a 4) (fun c =>
        hideA d { c with q := { c.q with reply := [] } }) (fun t =>
        HoldsA t d (e.val.setWidth 72) ∧ (curCtx t).q.reply = r) ∧
      (c.q.qas.length < 32 → Completes (.srpop d true) s .a (after s .a 4)
        (fun c => hideA d { c with q := { c.q with reply := [], qas := [] } }) fun t =>
          HoldsA t d (e.val.setWidth 72) ∧ (curCtx t).q.reply = r ∧
          ∃ x, (curCtx t).q.qas = c.q.qas ++ [x] ∧ x.val = some (e.val.setWidth 2048)) ∧
      (32 ≤ c.q.qas.length → Waits (.srpop d true) s .a)

/-- 08 R236; 15 R421 to R423: atomics as they issue and as they are performed. -/
def Obligations.AtomicsApplyTheirOperation : Prop :=
  AtomicWordsIssueTheirAtomic ∧ AtomicPerformedAppliesTheOperation

/-- 09 R245 to R250; 15 R424: the ring words. -/
def Obligations.RingWordsFollowTheirProtocol : Prop :=
  RingWordsMoveTheRing ∧ RstatSetsItsOwnRing

/-- 09 R251 to R256; 15 R425: the barrier words and the completion of a barrier. -/
def Obligations.BarriersCompleteTogether : Prop :=
  BarrierWordsFollowTheirRule ∧ CheckCompleteReleasesTheGroup

/-- 09 R260 to R267; 15 R426: split counters. -/
def Obligations.SplitCountersBalance : Prop :=
  SplitCountersKeepTheTotal ∧ ScinitBindsAndOthersFault

/-- 15 R427 to R437: JOB, SAMPLE and SRPOP. -/
def Obligations.JobsAndSamplesAreSubmitted : Prop :=
  JobAndSampleSubmit ∧ SrpopTakesAReply

/-! ### The V-stream: how a word issues (16 R440 to R444; 06 R181, R184) -/

/-- The word's sources, its destination, its qb entry, its free values and the tag of its results, as it issues. -/
def argsOf (s : State) (u : VUse) : VArgs :=
  ⟨u.srcs.map (vSource (curCtx s)), vDest (curCtx s) u.dst, qbHead (curCtx s), s.freeCtr,
    issueTag (landMasks (curCore s) u.masks).ctx .v s.freeCtr⟩

/-- The core as the first segment issues: every earlier word has written the masks that the word reads, and the entries
that it pops have left their queues (16 R441, R443). -/
def issueCore (s : State) (u : VUse) : Core :=
  { landMasks (curCore s) u.masks with ctx := vPop (landMasks (curCore s) u.masks).ctx u }

/-- The choices that a word may meet, while an M-word runs or results are on their way, use up one number of free values
(06 R177, R185). -/
def countRace (s t : State) : State :=
  if (curCtx s).m.cmd.isSome ∨ (curCtx s).vpend ≠ [] then { t with freeCtr := t.freeCtr + 1 } else t

/-- A V-word that may issue: a task runs, no operand faults, and its queues are ready (16 R441). -/
def MayIssue (s : State) (u : VUse) : Prop :=
  runs s = true ∧ vFaults (curCtx s) u = .ok () ∧ vQueuesReady (curCtx s) u = true

/-- The word i issues n segments, one each cycle from the V-stream's cycle on (06 R184): before segment j the core is
at_ j, where every result due by then has landed; the results out j then join those on their way; and the word retires
with the core as last makes it, the n segments charged at the word's class (04 R112). -/
def Issues (i : Instr) (s : State) (u : VUse) (n : Nat) (out : (Nat → Core) → Nat → List Pending) (last : Core → Core) :
    Prop :=
  ∃ at_ : Nat → Core,
    at_ 0 = vAdvance (issueCore s u) (issueCore s u).ctx.vcyc ∧
    (∀ j, j < n → at_ (j + 1) = vAdvance ((out at_ j).foldl pushPending (at_ j)) ((issueCore s u).ctx.vcyc + (j + 1))) ∧
    exec i s = .next (retire (charge (countRace s (setCore s s.cur (last (at_ n)))) s.cur u.cls.cost n) .v 12)

/-- The cycle at which segment j issues. -/
def issueAt (s : State) (u : VUse) (j : Nat) : Nat := (issueCore s u).ctx.vcyc + j

/-- The segments of a word in state s. -/
def countIn (s : State) (f : VFields) : Nat := sweepCount (curCtx s).csr f

/-- The operands of a word of the format f.fmt whose sources and destination sweep n segments. -/
def plainUse (f : VFields) (cls : VClass) (srcs : List (VFields → Nat → Nat → VOp)) (masks : List (BitVec 3)) (n : Nat) :
    VUse :=
  { srcs := srcs.map fun g => g f f.fmt.toNat n, dst := some (opD f f.fmt.toNat n), masks := masks, push2 := 0, segs := n
    cls := cls }

/-- Elements of a segment of the word's format. -/
def sizeOf_ (f : VFields) : Nat := elemsPerSeg f.fmt.toNat
/-- Bits of an element of the word's format. -/
def widthOf (f : VFields) : Nat := fmtBits f.fmt.toNat
/-- A value modulo 2^w. -/
def low (w : Nat) (v : Int) : Nat := (v % 2 ^ w).toNat

/-! ### Elementwise words (16 R446 to R449, R461; 11 R317 to R321) -/

/-- The integer result of 11 R320: its low bits, or with SAT the nearest value of the format and SATF. -/
def fit (fmt : Nat) (sat : Bool) (v : Int) : Nat × BitVec 7 :=
  let lo := (intRange fmt).1
  let hi := (intRange fmt).2
  let w := intBits fmt
  if sat && (v < lo || hi < v) then (low w (if v < lo then lo else hi), 32) else (low w v, 0)

/-- The words that compute each element from those of the same index: their class, their sources, and the result and
flags of an element. -/
def elementTable (f : VFields) :
    List (Instr × VClass × List (VFields → Nat → Nat → VOp) × (Nat → Nat → Nat → Nat × BitVec 7)) :=
  let m := f.fmt.toNat
  let r := f.rnd.toNat
  let w := widthOf f
  let int (x : Nat) : Int := decodeInt m x
  let count (y : Nat) : Nat := (if f.imm = 0 then y else f.imm.toNat % 32) % w
  let shiftSrcs := if f.imm = 0 then [opA, opB] else [opA]
  [(.vadd f, classAdd, [opA, opB], fun x y _ => floatAdd m r f.sat false x y),
    (.vsub f, classAdd, [opA, opB], fun x y _ => floatAdd m r f.sat true x y),
    (.vmul f, classMul, [opA, opB], fun x y _ => floatMul m r f.sat x y),
    (.vfma f, classMul, [opA, opB, opD], fun x y z => floatFma m r f.sat false false x y z),
    (.vfms f, classMul, [opA, opB, opD], fun x y z => floatFma m r f.sat false true x y z),
    (.vnfma f, classMul, [opA, opB, opD], fun x y z => floatFma m r f.sat true false x y z),
    (.vdiv f, classDiv, [opA, opB], fun x y _ => floatDiv m r f.sat x y),
    (.vsqrt f, classDiv, [opA], fun x _ _ => floatFunc .sqrt m r f.sat x),
    (.vrcp f, classDiv, [opA], fun x _ _ => floatFunc .rcp m r f.sat x),
    (.vrsq f, classDiv, [opA], fun x _ _ => floatFunc .rsq m r f.sat x),
    (.vexp2 f, classDiv, [opA], fun x _ _ => floatFunc .exp2 m r f.sat x),
    (.vlog2 f, classDiv, [opA], fun x _ _ => floatFunc .log2 m r f.sat x),
    (.vtanh f, classDiv, [opA], fun x _ _ => floatFunc .tanh m r f.sat x),
    (.vmin f, classAdd, [opA, opB], fun x y _ => minMax m false x y),
    (.vmax f, classAdd, [opA, opB], fun x y _ => minMax m true x y),
    (.vabs f, classAdd, [opA], fun x _ _ => (x % 2 ^ (w - 1), 0)),
    (.vneg f, classAdd, [opA], fun x _ _ => (x ^^^ 2 ^ (w - 1), 0)),
    (.viadd f, classAdd, [opA, opB], fun x y _ => fit m f.sat (int x + int y)),
    (.visub f, classAdd, [opA, opB], fun x y _ => fit m f.sat (int x - int y)),
    (.vimul f, classMul, [opA, opB], fun x y _ => fit m f.sat (int x * int y)),
    (.vimad f, classMul, [opA, opB, opD], fun x y z => fit m f.sat (int x * int y + int z)),
    (.vand f, classAdd, [opA, opB], fun x y _ => (x &&& y, 0)),
    (.vor f, classAdd, [opA, opB], fun x y _ => (x ||| y, 0)),
    (.vxor f, classAdd, [opA, opB], fun x y _ => (x ^^^ y, 0)),
    (.vnot f, classAdd, [opA], fun x _ _ => (2 ^ w - 1 - x, 0)),
    (.vshl f, classAdd, shiftSrcs, fun x y _ => (x * 2 ^ count y % 2 ^ w, 0)),
    (.vshr f, classAdd, shiftSrcs, fun x y _ => (x / 2 ^ count y, 0)),
    (.vsra f, classAdd, shiftSrcs, fun x y _ => (low w ((x : Int) - (if 2 ^ (w - 1) ≤ x then 2 ^ w
      else 0) |>.fdiv (2 ^ count y)), 0)),
    (.vmov f, classAdd, [opA], fun x _ _ => (x, 0))]

/-- 16 R440, R442, R446 to R449 and R461: every elementwise word that may issue issues its segments one each cycle and
retires; element e of segment j, unless the mask disables it, gets the value and the flags of the table from elements e
of segment j of the sources as that segment issues; it lands after the latency of the word's class. -/
def Obligations.ElementwiseWordsComputeTheirTable : Prop :=
  ∀ (f : VFields) i cls srcs op, (i, cls, srcs, op) ∈ elementTable f → ∀ s : State,
    let n := countIn s f
    let u := plainUse f cls srcs (if f.masked then [f.k] else []) n
    let a := argsOf s u
    let elem (k : Core) (x j e : Nat) : Nat := ((a.arg x).read f.fmt.toNat a.free k j).getD e 0
    MayIssue s u → a.src.length = srcs.length → Issues i s u n (fun at_ j =>
      [segResult a (issueAt s u j + cls.latency) (widthOf f) j ((List.range (sizeOf_ f)).map fun e =>
        if f.masked = false ∨ (maskNow f (at_ j)).getLsbD ((j * sizeOf_ f + e) % 256) = true then
          some (op (elem (at_ j) 0 j e)
            (if 1 < srcs.length then elem (at_ j) 1 j e else 0) (if 2 < srcs.length then elem (at_ j) 2 j e else 0))
        else none)]) id

/-- The value of a finite number, as a rational. -/
def rational : FVal → ℚ
  | .num neg m e => (if neg then -1 else 1) * m * (2 : ℚ) ^ e
  | _ => 0

/-- v is a finite number. -/
def IsNumber (v : FVal) : Prop := ∃ neg m e, v = .num neg m e

/-- b is r rounded once to layout F in a mode: the nearest of the layout's finite values, with a tie to the even one;
toward zero; down; up (11 R317). -/
def RoundsTo (F : FFmt) (mode : Nat) (r : ℚ) (b : Nat) : Prop :=
  let v := rational (decodeFloat F b)
  IsNumber (decodeFloat F b) ∧
  ∀ y, y < 2 ^ (1 + F.ebits + F.fbits) → IsNumber (decodeFloat F y) →
    let x := rational (decodeFloat F y)
    match mode with
    | 0 => |v - r| ≤ |x - r| ∧ (|v - r| = |x - r| → x ≠ v → b % 2 = 0)
    | 1 => |v| ≤ |r| ∧ 0 ≤ v * r ∧ (0 ≤ x * r → |x| ≤ |r| → |x| ≤ |v|)
    | 2 => v ≤ r ∧ (x ≤ r → x ≤ v)
    | _ => r ≤ v ∧ (r ≤ x → v ≤ x)

/-- 11 R317 and R318 for FP32, BF16, FP16 and ACC96: the sum, the difference, the product, the fused forms and the
quotient of elements that are finite numbers are the exact rational value rounded once in the word's mode, when that
value does not exceed the greatest finite one and, in ACC96, is no less than the least normal one; NX tells that
rounding changed the value, and DZ, OF and NV stay clear. -/
def Obligations.FloatWordsRoundTheExactValueOnce : Prop :=
  ∀ (m mode : Nat) (sat : Bool) (x y z : Nat) (r : ℚ) (out : Nat × BitVec 7), m ∈ [0, 1, 8, 13] → mode < 4 →
    let F := floatFmt m
    let val (x : Nat) : ℚ := rational (decodeElem m x)
    IsNumber (decodeElem m x) → IsNumber (decodeElem m y) → IsNumber (decodeElem m z) →
    (r, out) ∈ [(val x + val y, floatAdd m mode sat false x y), (val x - val y, floatAdd m mode sat true x y),
      (val x * val y, floatMul m mode sat x y), (val x * val y + val z, floatFma m mode sat false false x y z),
      (val x * val y - val z, floatFma m mode sat false true x y z),
      (val z - val x * val y, floatFma m mode sat true false x y z)] ++
      (if val y = 0 then [] else [(val x / val y, floatDiv m mode sat x y)]) →
    |r| ≤ F.top * (2 : ℚ) ^ F.topExp → (F.sub = true ∨ r = 0 ∨ (2 : ℚ) ^ (1 - F.bias : Int) ≤ |r|) →
    RoundsTo F mode r out.1 ∧ (out.2.getLsbD 4 = true ↔ rational (decodeFloat F out.1) ≠ r) ∧
    out.2.getLsbD 0 = false ∧ out.2.getLsbD 1 = false ∧ out.2.getLsbD 2 = false

/-! ### Words that move elements or change their format (16 R451, R453 to R458, R461, R462) -/

/-- A word with one result for each segment: its operands in n segments, the counts that it takes, the bits of an
element of the result, and the result of segment j with its flags. -/
structure SegmentWord where
  word  : Instr
  use   : Nat → VUse
  takes : Nat → Prop
  width : Nat
  value : VArgs → Core → Nat → List (Option (Nat × BitVec 7))

/-- The words of 16 R451, R453, R457, R458, R461 and R462. -/
def segmentTable (f : VFields) : List SegmentWord :=
  let m := f.fmt.toNat
  let m2 := f.fmt2.toNat
  let on (size : Nat) (k : Core) (j e : Nat) : Bool := !f.masked || (maskNow f k).getLsbD ((j * size + e) % 256)
  let masks := if f.masked then [f.k] else []
  let elem (a : VArgs) (k : Core) (x j e : Nat) : Nat := ((a.arg x).read m a.free k j).getD e 0
  let move (i : Instr) (srcs : List (VFields → Nat → Nat → VOp)) (pick : VArgs → Core → Nat → Nat → Nat) : SegmentWord :=
    ⟨i, plainUse f classAdd srcs masks, fun _ => True, widthOf f, fun a k j => (List.range (sizeOf_ f)).map fun e =>
      if on (sizeOf_ f) k j e then some (pick a k j e, 0) else none⟩
  let size := min (elemsPerSeg m) (elemsPerSeg m2)
  let kind := f.imm.toNat % 8
  let half := sizeOf_ f / 2
  [⟨.vsel f, plainUse f classAdd [opA, opB] [f.k], fun _ => True, widthOf f, fun a k j =>
      (List.range (sizeOf_ f)).map fun e =>
        some (elem a k (if (maskNow f k).getLsbD ((j * sizeOf_ f + e) % 256) then 0 else 1) j e, 0)⟩,
    move (.vbcast f) [opA] fun a k j _ => elem a k 0 j f.imm.toNat,
    ⟨.viota f, plainUse f classAdd [] masks, fun _ => True, widthOf f, fun _ k j =>
      (List.range (sizeOf_ f)).map fun e =>
      if on (sizeOf_ f) k j e then some (fit m f.sat (f.imm.toInt + (j * sizeOf_ f + e : Nat))) else none⟩,
    move (.vperm f) [opA, opB] fun a k j e =>
      elem a k 0 j ((joinElems (widthOf f) ((a.arg 1).read m a.free k j) / 2 ^ (8 * e) % 256) % sizeOf_ f),
    move (.vshuf f) (if kind < 4 then [opA, opB] else [opA]) fun a k j e =>
      match kind with
      | 0 => elem a k (e % 2) j (e / 2)
      | 1 => elem a k (e % 2) j (half + e / 2)
      | 2 => elem a k (e / half) j (2 * (e % half))
      | 3 => elem a k (e / half) j (2 * (e % half) + 1)
      | 4 => elem a k 0 j (sizeOf_ f - 1 - e)
      | _ => elem a k 0 j ((e + f.imm.toNat / 8) % sizeOf_ f),
    ⟨.vcvt f, fun n => { srcs := [opA f m2 n], dst := some (opD f m n), masks := masks, push2 := 0, segs := n, cls := classCvt },
      fun _ => True, widthOf f, fun a k j => (List.range size).map fun e =>
        if on size k j e then some (convert m m2 f.rnd.toNat f.sat (((a.arg 0).read m2 a.free k j).getD e 0))
          else none⟩,
    ⟨.vunpack f, fun n => { srcs := [opA f 8 (n / 2)], dst := some (opD f 11 n), masks := [], push2 := 0, segs := n, cls := classCvt },
      fun n => n % 2 = 0, 8, fun a k j => (List.range 256).map fun e =>
        some (((a.arg 0).readCodes 4 8 a.free k (j / 2)).getD (256 * (j % 2) + e) 0, 0)⟩,
    ⟨.vdq f, fun n =>
        let per := if m2 = 7 then 4 else 8
        let scales := if m2 = 6 then 1 else 2
        { srcs := [opA f 8 (n / per), opB f 8 (ceilDiv (scales * n) 256)], dst := some (opD f 8 n), masks := [], push2 := 0
          segs := n, cls := classCvt, qb := m2 == 6 },
      fun n => n % (if m2 = 7 then 4 else 8) = 0, 32, fun a k j => (List.range 64).map fun e =>
        let w := if m2 = 7 then 8 else 4
        let code := ((a.arg 0).readCodes w 8 a.free k (64 * j * w / 2048)).getD ((64 * j + e) % (2048 / w)) 0
        let at_ := if m2 = 6 then j else 2 * j + e / 32
        let scale := ((a.arg 1).readCodes 8 8 a.free k (at_ / 256)).getD (at_ % 256) 0
        some (roundFloat fmtFP32 f.rnd.toNat false
          (if m2 = 6 then cb4Value (decodeElem 8 (a.qb.toNat % 2 ^ 32)) scale code else mxValue m2 scale code))⟩]

/-- 16 R451, R453, R457, R458, R461 and R462: VSEL, VBCAST, VIOTA, VPERM, VSHUF, VCVT, VUNPACK and VDQ that may issue
give each segment the elements of the table; a count that is no whole number of groups faults with OPERAND-RANGE. -/
def SegmentWordsComputeTheirTable : Prop :=
  ∀ (f : VFields) (w : SegmentWord), w ∈ segmentTable f → ∀ s : State,
    let n := countIn s f
    let u := w.use n
    (MayIssue s u → w.takes n → Issues w.word s u n (fun at_ j =>
      [segResult (argsOf s u) (issueAt s u j + u.cls.latency) w.width j (w.value (argsOf s u) (at_ j) j)]) id) ∧
    (runs s = true → ¬w.takes n → Traps w.word s .v .operandRange 0 0 12)

/-- The results of a packing word for segment j: with pack giving the codes, the scale bytes and the flags of a source
segment, a code segment goes out with the last of the per segments that fill it, and the scale bytes of each segment go
to their place in the scale stream, with the last source segment of their scale segment (16 R454). -/
def packingOut (f : VFields) (s : State) (u : VUse) (srcFmt per scales n : Nat)
    (pack : Word → List Nat → List Byte × List Byte × BitVec 7) (at_ : Nat → Core) (j : Nat) : List Pending :=
  let a := argsOf s u
  let part (i : Nat) := pack a.qb ((a.arg 0).read srcFmt a.free (at_ i) i)
  let group := (List.range per).map fun i => part (j / per * per + i)
  (if (j + 1) % per = 0 then
    [Pending.put { Pending.none (issueAt s u j + 8) a.tag with flags := group.foldl (fun g p => g ||| p.2.2) 0 } a.dst 8
      (j / per) ((group.flatMap fun p => p.1).map fun (b : Byte) => some b.toNat)] else []) ++
  (if scales = 0 then [] else
    let c := scales * j
    let last := min n (256 / scales * (c / 256 + 1)) - 1
    [{ Pending.none (issueAt s u last + 8) a.tag with
        regs := [((segAddr (curCtx s).csr.vwv f.vb.toNat f.sb (c / 256)).toNat + c % 256, (part j).2.1)] }])

/-- 16 R454 to R456: VPACK and VQCB that may issue, with a count that makes whole code segments, put out their codes and
their scale bytes; another count faults with OPERAND-RANGE. -/
def PackingWords : Prop :=
  ∀ (f : VFields) (s : State),
    let n := countIn s f
    let m := f.fmt.toNat
    let bytes (w : Nat) (l : List Nat) : List Byte := natToBytes (w * l.length / 8) (joinElems w l)
    let check (i : Instr) (u : VUse) (srcFmt per scales : Nat) (pack : Word → List Nat → List Byte × List Byte × BitVec 7) :=
      (MayIssue s u → n % per = 0 → Issues i s u n (packingOut f s u srcFmt per scales n pack) id) ∧
      (runs s = true → n % per ≠ 0 → Traps i s .v .operandRange 0 0 12)
    let use (srcFmt per scales : Nat) (qb : Bool) : VUse :=
      { srcs := [opA f srcFmt n], dst := some (opD f 8 (n / per)), masks := [], push2 := 0, segs := n, cls := classCvt
        more := if scales = 0 then [] else [opB f 8 (ceilDiv (scales * n) 256)], qb := qb }
    (f.fmt2 = 8 → let per := if m = 5 then 8 else 4
      check (.vpack f) (use 8 per 2 false) 8 per 2 fun _ l =>
        let b := [packMx m f.rnd.toNat (l.take 32), packMx m f.rnd.toNat ((l.drop 32).take 32)]
        (b.flatMap (fun b => bytes (fmtBits m) b.1), b.map (fun b => BitVec.ofNat 8 b.2.1),
          b.foldl (fun g b => g ||| b.2.2) 0)) ∧
    (f.fmt2 ≠ 8 → check (.vpack f) (use 11 2 0 false) 11 2 0 fun _ l => (bytes 4 (l.map fun x => x % 16), [], 0)) ∧
    check (.vqcb f) (use 8 8 1 true) 8 8 1 fun qb l =>
      let c := packCb4 (qb.toNat % 2 ^ 32) l
      (bytes 4 c.1, [BitVec.ofNat 8 c.2.1], c.2.2)

/-! ### Reductions, scans, transposes and transfers (16 R459, R460, R463 to R465; 12 R346) -/

/-- Elements 0 to E·n − 1 of va, each with its index, as the segments issue from at_. -/
def elementsOf (f : VFields) (a : VArgs) (at_ : Nat → Core) (n : Nat) : List (Nat × Nat) :=
  (List.range n).flatMap fun j => ((a.arg 0).read f.fmt.toNat a.free (at_ j) j).zipIdx.map fun e =>
    (j * sizeOf_ f + e.2, e.1)

/-- Those that the mask leaves enabled as their segment issues. -/
def takingPart (f : VFields) (at_ : Nat → Core) (l : List (Nat × Nat)) : List (Nat × Nat) :=
  l.filter fun e => !f.masked || (maskNow f (at_ (e.1 / sizeOf_ f))).getLsbD (e.1 % 256)

/-- 16 R459: the reductions of the elements that take part write one element with the last segment. -/
def ReductionWords : Prop :=
  ∀ (f : VFields) (s : State),
    let n := countIn s f
    let m := f.fmt.toNat
    let words : List (Instr × Nat × (List (Nat × Nat) → Nat × BitVec 7)) :=
      [(.vrsum f, m, fun l => sumElems m f.rnd.toNat f.sat (l.map Prod.snd)),
        (.vrmax f, m, fun l => extremeElems m true (l.map Prod.snd)),
        (.vrmin f, m, fun l => extremeElems m false (l.map Prod.snd)),
        (.vargmax f, 9, argMax m)]
    ∀ i dst red, (i, dst, red) ∈ words →
      let u : VUse := { srcs := [opA f m n], dst := some (opD f dst 1), masks := if f.masked then [f.k] else [], push2 := 0
                        segs := n, cls := classAdd }
      MayIssue s u → (∀ k j, (((argsOf s u).arg 0).read m s.freeCtr k j).length = sizeOf_ f) → 0 < sizeOf_ f →
      Issues i s u n (fun at_ j => if j + 1 = n then
        [segResult (argsOf s u) (issueAt s u j + 4) (fmtBits dst) 0
          [some (red (takingPart f at_ (elementsOf f (argsOf s u) at_ n)))]] else []) id

/-- 16 R460 and R463: VTRANS of E segments transposes, and faults with OPERAND-RANGE on another count; both it and VSCAN
write nothing before 4 cycles after the last segment. -/
def TransposeWords : Prop :=
  ∀ (f : VFields) (s : State),
    let n := countIn s f
    let m := f.fmt.toNat
    let u : VUse := { srcs := [{ opA f m n with tile := true }], dst := some { opD f m n with tile := true }, masks := []
                      push2 := 0, segs := n, cls := classAdd }
    (MayIssue s u → n = sizeOf_ f → Issues (.vtrans f) s u n (fun at_ j => if j + 1 = n then
      (List.range n).map fun i => segResult (argsOf s u) (issueAt s u j + 4) (widthOf f) i
        ((List.range n).map fun r => some ((((argsOf s u).arg 0).read m s.freeCtr (at_ r) r).getD i 0, 0))
          else []) id) ∧
    (runs s = true → n ≠ sizeOf_ f → Traps (.vtrans f) s .v .operandRange 0 0 12)

/-- The running sum of 16 R460 before element e of the list. -/
def scanBefore (fmt mode : Nat) (sat : Bool) (on : Nat → Bool) (l : List Nat) (e : Nat) : Nat :=
  (List.range e).foldl (fun acc i => if on i then (scanStep fmt mode sat acc (l.getD i 0)).1 else acc) 0

/-- 16 R460: VSCAN gives each enabled element the sum of those up to it, rounded at every step. -/
def ScanWord : Prop :=
  ∀ (f : VFields) (s : State),
    let n := countIn s f
    let m := f.fmt.toNat
    let u : VUse := { srcs := [opA f m n], dst := some (opD f m n), masks := if f.masked then [f.k] else [], push2 := 0
                      segs := n, cls := classAdd }
    MayIssue s u → (∀ k j, (((argsOf s u).arg 0).read m s.freeCtr k j).length = sizeOf_ f) → 0 < sizeOf_ f →
    Issues (.vscan f) s u n (fun at_ j => if j + 1 = n then
      let l := (elementsOf f (argsOf s u) at_ n).map Prod.snd
      let on (e : Nat) : Bool := !f.masked || (maskNow f (at_ (e / sizeOf_ f))).getLsbD (e % 256)
      (List.range n).map fun i => segResult (argsOf s u) (issueAt s u j + 4) (widthOf f) i ((List.range (sizeOf_ f)).map fun e =>
        let x := i * sizeOf_ f + e
        if on x then some (scanStep m f.rnd.toNat f.sat (scanBefore m f.rnd.toNat f.sat on l x) (l.getD x 0))
          else none) else []) id

/-- 16 R454 to R456, R459, R460 and R463: the words that gather over their sweep. -/
def GatheringWordsComputeTheirResult : Prop := PackingWords ∧ ReductionWords ∧ TransposeWords ∧ ScanWord

/-- The relation of 16 R450 for elements that are no NaN. -/
def related (cc : Nat) (c : Int) : Bool :=
  [decide (c = 0), decide (c ≠ 0), decide (c < 0), decide (0 ≤ c), decide (c ≤ 0), decide (0 < c), false].getD cc false

/-- 16 R450 and R452: VCMP writes the bits of its mask that its sweep reaches, a disabled element as 0, and the mask
words write all of theirs, four cycles after their segment; KPOP pushes the number of set bits to queue 2. -/
def MaskWordsWriteTheirMask : Prop :=
  ∀ (f : VFields) (s : State),
    let n := countIn s f
    let m := f.fmt.toNat
    let num (b : BitVec 9) : Fin 8 := Fin.ofNat 8 b.toNat
    let u : VUse := { srcs := [opA f m n, opB f m n], dst := none, masks := if f.masked then [f.k] else [], push2 := 0, segs := n
                      cls := classAdd }
    let tag (u : VUse) : IssueTag := (argsOf s u).tag
    (MayIssue s u → sizeOf_ f ≤ 256 → f.imm.toNat ≤ 6 → ∃ (which value : (Nat → Core) → Nat → BitVec 256) (flags : (Nat → Core) → Nat → BitVec 7),
      Issues (.vcmp f) s u n (fun at_ j =>
        [{ Pending.none (issueAt s u j + 4) (tag u) with masks := [(f.vd.toNat % 8, which at_ j, value at_ j)], flags := flags at_ j }]) id ∧
      ∀ at_ j e, e < sizeOf_ f →
        let x := ((argsOf s u).arg 0).read m s.freeCtr (at_ j) j
        let y := ((argsOf s u).arg 1).read m s.freeCtr (at_ j) j
        let b := (j * sizeOf_ f + e) % 256
        x.length = sizeOf_ f → y.length = sizeOf_ f →
        (which at_ j).getLsbD b = true ∧
        (value at_ j).getLsbD b = ((!f.masked || (maskNow f (at_ j)).getLsbD b) &&
          if elemNaN m (x.getD e 0) || elemNaN m (y.getD e 0) then decide (f.imm = 1 ∨ f.imm = 6)
          else related f.imm.toNat (elemCompare m false (x.getD e 0) (y.getD e 0))) ∧
        ∀ b', (which at_ j).getLsbD b' = true → ∃ e', e' < sizeOf_ f ∧ b' = (j * sizeOf_ f + e') % 256) ∧
    let mask (masks : List (BitVec 9)) (push2 : Nat) : VUse :=
      { srcs := [], dst := none, masks := masks.map fun b => b.setWidth 3, push2 := push2, segs := 1, cls := classAdd }
    let val (b : BitVec 9) (at_ : Nat → Core) : BitVec 256 := (at_ 0).ctx.k.get (num b)
    let writes (i : Instr) (l : List (BitVec 9)) (op : (Nat → Core) → BitVec 256) : Prop :=
      MayIssue s (mask l 0) → Issues i s (mask l 0) 1 (fun at_ _ =>
        [{ Pending.none (issueAt s (mask l 0) 0 + 4) (tag (mask l 0)) with
            masks := [(f.vd.toNat % 8, BitVec.allOnes 256, op at_)] }]) id
    writes (.kand f) [f.va, f.vb] (fun k => val f.va k &&& val f.vb k) ∧
    writes (.kor f) [f.va, f.vb] (fun k => val f.va k ||| val f.vb k) ∧
    writes (.kxor f) [f.va, f.vb] (fun k => val f.va k ^^^ val f.vb k) ∧
    writes (.knot f) [f.va] (fun k => ~~~val f.va k) ∧
    (MayIssue s (mask [f.va] 1) → Issues (.kpop f) s (mask [f.va] 1) 1 (fun at_ _ =>
      [{ Pending.none (issueAt s (mask [f.va] 1) 0 + 4) (tag (mask [f.va] 1)) with
          qvs := [BitVec.ofNat 64 ((List.range 256).filter fun b => (val f.va at_).getLsbD b).length] }]) id)

/-- L of 12 R346 before the stop set: the first iteration whose output is not the next carry, at most n. -/
def accepted (c d : List Nat) (n : Nat) : Nat :=
  ((List.range n).takeWhile fun l => d.getD l 0 == c.getD (l + 1) 0).length

/-- 16 R464, R465 and 12 R346: VSQ pushes one element of each segment; VSETVLC sets VLC at once, and pushes it with
PUSH; VACCEPT in a round of SpecN + 1 segments pushes its two results with the last, faults with SPEC-ILLEGAL outside
speculative mode and with OPERAND-RANGE on another count. The carry vector is read with the first segment. -/
def TransferWordsPushToQueue2 : Prop :=
  ∀ (f : VFields) (s : State),
    let n := countIn s f
    let m := f.fmt.toNat
    let tag (u : VUse) : IssueTag := (argsOf s u).tag
    let use (push2 : Nat) : VUse :=
      { srcs := [opA f m n], dst := none, masks := [], push2 := push2, segs := n, cls := classAdd }
    (MayIssue s (use n) → Issues (.vsq f) s (use n) n (fun at_ j =>
      let e := (((argsOf s (use n)).arg 0).read m s.freeCtr (at_ j) j).getD f.imm.toNat 0
      [{ Pending.none (issueAt s (use n) j + 4) (tag (use n)) with
          qvs := [if m = 4 ∨ m = 9 ∨ m = 10 then BitVec.ofInt 64 (decodeInt m e) else BitVec.ofNat 64 e] }]) id) ∧
    (let push := f.imm = 1
     let u : VUse := { srcs := [], dst := none, masks := [], push2 := if push then 1 else 0, segs := 1, cls := classAdd
                       qb := f.count = 0 }
     let v := if f.count = 0 then max 1 (min 4095 (qbHead (curCtx s)).toNat) else f.count.toNat
     MayIssue s u → Issues (.vsetvlc f) s u 1 (fun _ _ =>
       [{ Pending.none (issueAt s u 0 + 4) (tag u) with qvs := if push then [BitVec.ofNat 64 v] else [] }])
       fun k => { k with ctx := { k.ctx with csr := { k.ctx.csr with vlc := BitVec.ofNat 12 v } } }) ∧
    (runs s = true → roundOf (curCtx s) .v = none → Traps (.vaccept f) s .v .specIllegal 0 0 12) ∧
    ∀ r, roundOf (curCtx s) .v = some r →
      (runs s = true → n ≠ r.n + 1 → Traps (.vaccept f) s .v .operandRange 0 0 12) ∧
      (MayIssue s (use 2) → n = r.n + 1 → Issues (.vaccept f) s (use 2) n (fun at_ j => if j + 1 = n then
        let c := placeCodes 32 (4 * n) r.cv s.freeCtr (issueCore s (use 2)) n
        let d := (List.range n).map fun i => (((argsOf s (use 2)).arg 0).read m s.freeCtr (at_ i) i).getD 0 0
        let run := accepted c d r.n
        let hit (j : Nat) : List Nat := (r.stops.filter fun e => e.2.toNat == d.getD j 0).map Prod.fst
        [{ Pending.none (issueAt s (use 2) j + 4) (tag (use 2)) with
            qvs := match (List.range (run + 1)).find? fun j => !(hit j).isEmpty with
              | some j => [BitVec.ofNat 64 (j + 16 + 32 * (hit j).headD 0), BitVec.ofNat 64 (d.getD j 0)]
              | none => [BitVec.ofNat 64 run, BitVec.ofNat 64 (d.getD run 0)] }] else []) id)

/-! ### Operands, results and what stops a V-word (06 R181, R184, R185; 16 R441) -/

/-- 06 R181: an operand of n segments lies in its view. -/
def InView (w : Word) (num : Nat) (step : BitVec 7) (n fmt : Nat) : Prop :=
  let base : Int := (w.extractLsb' 0 23).toNat
  let stride : Int := (w.extractLsb' 32 12).toNat
  let count : Int := (w.extractLsb' 48 13).toNat
  ∀ j : Nat, j < n →
    let a := base + 32 * stride * num + 32 * step.toInt * j
    let seg : Int := if fmt = 13 then 768 else 256
    base ≤ a ∧ a + seg ≤ base + 32 * stride * count ∧ a + seg ≤ 0x440000 ∧
      if fmt = 13 then a % 12 = 0 ∧ a + seg ≤ 0x3FFFFC else 0x400000 ≤ a

/-- 06 R181 and 16 R441 on VMOV, whose checks are those of every V-word: an operand outside its view, or a queue operand
of more than 16 segments, faults with OPERAND-RANGE and has no other effect; with no fault, the word waits while a load
queue lacks entries, a store queue lacks room, or qb is empty. Element e of segment j of a register operand is read from
its place, while no M-word runs and the V-stream has not stalled since the results on their way were issued; of a load
queue, from entry j of the queue; and of qb it is the entry's low bits (06 R180). -/
def VectorOperandsAreChecked : Prop :=
  ∀ (f : VFields) (s : State), runs s = true →
    let n := countIn s f
    let m := f.fmt.toNat
    let u := plainUse f classAdd [opA] (if f.masked then [f.k] else []) n
    let view := if m = 13 then (curCtx s).csr.vwa else (curCtx s).csr.vwv
    ((f.va.toNat < 320 ∧ ¬InView view f.va.toNat f.sa n m) ∨ (f.vd.toNat < 320 ∧ ¬InView view f.vd.toNat f.sd n m) →
      Traps (.vmov f) s .v .operandRange 0 0 12) ∧
    (16 < n → f.va.toNat / 8 = 40 ∨ f.vd.toNat / 4 = 82 → Traps (.vmov f) s .v .operandRange 0 0 12) ∧
    (vFaults (curCtx s) u = .ok () →
      ((∃ q : Fin 8, f.va.toNat = 320 + q.val ∧ ((curCtx s).q.ql.get q).length < n) ∨
        (∃ q : Fin 4, f.vd.toNat = 328 + q.val ∧ 16 < ((curCtx s).q.qs.get q).length + n) ∨
        (f.va.toNat = 332 ∧ (curCtx s).q.qb = [])) → Waits (.vmov f) s .v) ∧
    let w := fmtBits m
    let element (v e : Nat) : Nat := v / 2 ^ (w * e) % 2 ^ w
    let reads (k : Core) (j e v : Nat) : Prop := ((vSource (curCtx s) (opA f m n)).read m s.freeCtr k j).getD e 0 = v
    ∀ k j e, j < n → e < 8 * segBytes m / w →
      (f.va.toNat < 320 → InView view f.va.toNat f.sa n m → k.ctx.m.cmd = none →
        (∀ p ∈ k.ctx.vpend, p.tag.stalls = k.ctx.vstall) →
        reads k j e (element (bytesToNat (regRead k (segAddr view f.va.toNat f.sa j).toNat (segBytes m))) e)) ∧
      (∀ (q : Fin 8) en v, f.va.toNat = 320 + q.val → ((curCtx s).q.ql.get q)[j]? = some en → en.val = some v →
        reads k j e (element v.toNat e)) ∧
      (f.va.toNat = 332 → reads k j e ((qbHead (curCtx s)).toNat % 2 ^ w))

/-- 06 R184 and R185: advancing the V-stream's cycle lands the results due by then, in the order of their cycles, and
changes nothing but register space, the banks, the masks, the flags and the queues that they write and what waits on
those; a result's bytes then read as it wrote them. A result joins those on their way unchanged while the V-stream has
not stalled since they were issued. (How a result of another stall joins them is the model's, log entry 119.) -/
def ResultsLandInOrder : Prop :=
  (∀ (k : Core) (cycle : Nat),
    (vAdvance k cycle).ctx.vcyc = cycle ∧
    ((∀ p ∈ k.ctx.vpend, cycle < p.due) → vAdvance k cycle = { k with ctx := { k.ctx with vcyc := cycle } }) ∧
    (∀ p r, k.ctx.vpend = p :: r → p.due ≤ cycle →
      vAdvance k cycle = vAdvance (applyPending { k with ctx := { k.ctx with vpend := r, vcyc := cycle } } p) cycle)) ∧
  (∀ (p : Pending) (l : List Pending), (l.Pairwise fun a b => a.due ≤ b.due) →
    ((addPending p l).Pairwise fun a b => a.due ≤ b.due) ∧ (addPending p l).Perm (p :: l)) ∧
  (∀ (k : Core) (p : Pending), (∀ q ∈ k.ctx.vpend, q.tag.stalls = p.tag.stalls) →
    pushPending k p = { k with ctx := { k.ctx with vpend := addPending p k.ctx.vpend } }) ∧
  ∀ (k : Core) (p : Pending) (a : Nat) (v : List Byte), p.regs = [(a, v)] → p.banks = [] → a + v.length ≤ 0x440000 →
    Memory.wf k.regs = true →
    let t := applyPending k p
    (∀ b, b < 0x440000 → b < 0x3FFFFC ∨ 0x400000 ≤ b →
      regRead t b 1 = if a ≤ b ∧ b < a + v.length then [v.getD (b - a) 0] else regRead k b 1) ∧
    t.banks = k.banks ∧ t.freshBanks = k.freshBanks ∧ t.ctx.csr.vflags = k.ctx.csr.vflags ||| p.flags ∧
    t.ctx.x = k.ctx.x ∧ t.ctx.a = k.ctx.a ∧ t.ctx.slm = k.ctx.slm ∧
    t.ctx.q.qvs.map (·.val) = k.ctx.q.qvs.map (·.val) ++ p.qvs

/-- 16 R453 to R463: conversions, packing, permutes, reductions, scans and transposes. -/
def Obligations.SegmentWordsComputeTheirResult : Prop :=
  SegmentWordsComputeTheirTable ∧ GatheringWordsComputeTheirResult

/-- 12 R346; 16 R449 to R452 and R464: mask words and transfers. -/
def Obligations.MaskAndTransferWords : Prop :=
  MaskWordsWriteTheirMask ∧ TransferWordsPushToQueue2

/-- 06 R180, R184 and R185; 16 R438 to R444: the operands of V-words, and where their results land. -/
def Obligations.VectorOperandsAndLanding : Prop :=
  VectorOperandsAreChecked ∧ ResultsLandInOrder

/-! ### The M-stream (17 R467 to R486; 11 R324; 10 R301, R304) -/

/-- An M-word may begin: a task runs and every earlier M-word has completed (17 R467). -/
def MReady (s : State) : Prop := runs s = true ∧ (curCtx s).m.cmd = none ∧ (curCtx s).m.mtest = none

/-- No ARRAY-SUSPECT waits, and no nest entry stands at the head of queue 4. -/
def FormatReady (s : State) (w : Word) (r : List (QEntry FmtEntry)) : Prop :=
  MReady s ∧ (curCtx s).m.suspect = none ∧ ∃ e : QEntry FmtEntry, e.val = .format w ∧ (curCtx s).q.fmt = e :: r

/-- The word i begins a command x at u and retires. -/
def Starts (i : Instr) (s u : State) (x : TileCmd) : Prop :=
  exec i s = .next (retire (modCur u fun t => { t with m := { t.m with cmd := some x } }) .m 24)

/-- What every command records of its word. -/
structure CommandOf (s : State) (f : MFields) (x : TileCmd) : Prop where
  token  : x.token = if f.sig then some (Fin.ofNat 16 f.tok.toNat) else none
  place  : x.pc = (getStream (curCtx s) .m).pc ∧ x.cidx = (getStream (curCtx s) .m).cidx
  since  : x.since = (curCtx s).csr.cycle
  begins : x.landed = false

/-- The rows of a C tile that RMASK leaves (17 R474, R482). -/
def rowsOf (s : State) (f : MFields) : List Nat :=
  (List.range (f.mt.toNat + 1)).filter fun i => !(f.rmask && (curCtx s).m.rm.getLsbD i)

/-- Element (i, j) of the C tile at ci as it stands: 12 bytes (17 R473; 06 R178). -/
def cElement (s : State) (f : MFields) (ci i j : Nat) : Nat :=
  bytesToNat (regRead (curCore s) (12 * (ci + i * f.cStr.toNat + j)) 12)

/-- The command writes exactly the elements of the rows that RMASK leaves, element (i, j) of the C tile at ci being
v i j (17 R473, R474). -/
def WritesTile (s : State) (f : MFields) (ci : Nat) (x : TileCmd) (v : Nat → Nat → Nat) : Prop :=
  x.regs.length = (rowsOf s f).length ∧ ∀ n i : Nat, (rowsOf s f)[n]? = some i →
    ∃ b : List Byte, x.regs[n]? = some (12 * (ci + i * f.cStr.toNat), b) ∧ b.length = 12 * (f.nt.toNat + 1) ∧
      ∀ j, j ≤ f.nt.toNat → bytesToNat ((b.drop (12 * j)).take 12) = v i j % 2 ^ 96

/-- The C tile lies in the accumulator region (17 R473). -/
def TileFits (f : MFields) (ci : Int) : Prop :=
  0 ≤ ci ∧ ci + f.mt.toNat * f.cStr.toNat + f.nt.toNat ≤ 349524 ∧ (0 < f.mt.toNat → f.nt.toNat + 1 ≤ f.cStr.toNat)

/-- The first byte that VWV register N names (17 R479). -/
def vwvAt (s : State) (n : BitVec 16) : Nat :=
  ((curCtx s).csr.vwv.extractLsb' 0 23).toNat + 32 * ((curCtx s).csr.vwv.extractLsb' 32 12).toNat * n.toNat

/-- The end of the view VWV, and len bytes from register N on within it and the general region (17 R479). -/
def InVwv (s : State) (n : BitVec 16) (len : Nat) : Prop :=
  vwvAt s n + len ≤ ((curCtx s).csr.vwv.extractLsb' 0 23).toNat +
    32 * ((curCtx s).csr.vwv.extractLsb' 32 12).toNat * ((curCtx s).csr.vwv.extractLsb' 48 13).toNat ∧
  0x400000 ≤ vwvAt s n ∧ vwvAt s n + len ≤ 0x440000

/-- The FP32 number at a byte of register space. -/
def fp32At (s : State) (a : Nat) : FVal := decodeFloat fmtFP32 (bytesToNat (regRead (curCore s) a 4))

/-- 17 R479 and R486: MZERO gives +0, and MSCALE the product with its row and column factors rounded once, to every
element of the C tile that RMASK leaves; MSTAT writes its 32 bytes, and MROWMASK runs as a command that reads its 24. A
tile outside the accumulator region, or a vector outside the view, faults with OPERAND-RANGE. MSCALE, MSTAT and MROWMASK
wait for the V-words before them that have still to write what they use (17 R487). -/
def AccumulatorWordsWriteTheirTile : Prop :=
  ∀ (s : State) (f : MFields), MReady s →
    let ci := f.cIdx.toNat
    let mt := f.mt.toNat + 1
    let nt := f.nt.toNat + 1
    let plain (x : TileCmd) : Prop := CommandOf s f x ∧ x.tile = false ∧ x.stage = [] ∧ x.unpin = [] ∧ x.array = 0
    let tile := (List.range mt).map fun i => (12 * (ci + i * f.cStr.toNat), 12 * nt)
    (TileFits f ci → ∃ x, Starts (.mzero f) s s x ∧ plain x ∧ WritesTile s f ci x fun _ _ => 0) ∧
    (¬TileFits f ci → Traps (.mzero f) s .m .operandRange 0 0 24 ∧ Traps (.mscale f) s .m .operandRange 0 0 24) ∧
    (TileFits f ci → InVwv s f.aOff (4 * mt) → InVwv s f.bOff (4 * nt) →
      let l := (vwvAt s f.aOff, 4 * mt) :: (vwvAt s f.bOff, 4 * nt) :: tile
      (vWillWrite s s.cur l = true → Waits (.mscale f) s .m) ∧
      (vWillWrite s s.cur l = false → ∃ x, Starts (.mscale f) s s x ∧ plain x ∧ WritesTile s f ci x fun i j =>
        (roundFloat fmtACC96 0 false (fMul (fMul (decodeFloat fmtACC96 (cElement s f ci i j))
          (fp32At s (vwvAt s f.aOff + 4 * i))) (fp32At s (vwvAt s f.bOff + 4 * j)))).1)) ∧
    (TileFits f ci → ¬(InVwv s f.aOff (4 * mt) ∧ InVwv s f.bOff (4 * nt)) → Traps (.mscale f) s .m .operandRange 0 0 24) ∧
    (InVwv s f.aOff 32 → vWillWrite s s.cur [(vwvAt s f.aOff, 32)] = true → Waits (.mstat f) s .m) ∧
    (InVwv s f.aOff 32 → vWillWrite s s.cur [(vwvAt s f.aOff, 32)] = false → ∃ x, Starts (.mstat f) s s x ∧ plain x ∧
      x.regs = [(vwvAt s f.aOff, natToBytes 8 (getStream (curCtx s) .m).cidx.toNat ++
        natToBytes 4 (curCtx s).m.sinceTest ++ [0, 0, 0, 0] ++
        [BitVec.ofNat 8 (arrayMode (curCore s).fence), (curCore s).fence.setWidth 8,
          BitVec.ofNat 8 (curCtx s).m.pins.length, if (curCore s).fence = 15 then 1 else 0, 0, 0, 0, 0] ++
        natToBytes 8 (curCtx s).m.ran)]) ∧
    (¬InVwv s f.aOff 32 → Traps (.mstat f) s .m .operandRange 0 0 24) ∧
    (InVwv s f.aOff 24 → vWillWrite s s.cur [(vwvAt s f.aOff, 24)] = true → Waits (.mrowmask f) s .m) ∧
    (InVwv s f.aOff 24 → vWillWrite s s.cur [(vwvAt s f.aOff, 24)] = false →
      ∃ x, Starts (.mrowmask f) s s x ∧ plain x ∧ x.regs = [] ∧ x.work = .rowMask (vwvAt s f.aOff)) ∧
    (¬InVwv s f.aOff 24 → Traps (.mrowmask f) s .m .operandRange 0 0 24)

/-- The pin that an MPIN names (17 R483). -/
def pinNamed (f : MFields) : Pin := ⟨f.aSlice.toNat, 32 * f.aOff.toNat, 32 * f.aLd.toNat⟩

/-- 17 R467, R483, R485 and 10 R304: while an M-word or a test by MTEST runs, every word of the M-stream but a tile
command waits; then MSIG signals its token, and waits at 255, MWAIT takes a unit, and waits for one, MFENCE retires,
and with SIG signals as a command that ends, MTEST begins a test unless one runs, and faults with ARRAY-SUSPECT, DETAIL 2,
without an array, MPIN of a slice of the ASID adds its region where the core has fewer than eight, and faults with QUEUE
otherwise, and MPIN.UNPIN removes the oldest like it. -/
def MatrixWordsRunInTurn : Prop :=
  ∀ (s : State) (f : MFields), runs s = true →
    let tok := Fin.ofNat 16 f.tok.toNat
    let n := (curCtx s).tokens.get tok
    let p := pinNamed f
    (¬MReady s → ∀ i, i ∈ [Instr.mzero f, .mscale f, .mrowmask f, .mtest f, .mfence f, .msig f, .mwait f, .mpin f,
      .mpinUnpin f, .mstat f] → Waits i s .m) ∧
    (MReady s →
      (n ≠ 255 → Completes (.msig f) s .m (after s .m 24)
        (fun c => { c with tokens := c.tokens.set tok.val 0 tok.isLt }) fun t => (curCtx t).tokens.get tok = n + 1) ∧
      (n = 255 → Waits (.msig f) s .m) ∧
      (n ≠ 0 → Completes (.mwait f) s .m (after s .m 24)
        (fun c => { c with tokens := c.tokens.set tok.val 0 tok.isLt }) fun t => (curCtx t).tokens.get tok = n - 1) ∧
      (n = 0 → Waits (.mwait f) s .m) ∧
      (f.sig = false → Completes (.mfence f) s .m (after s .m 24) hideNone fun _ => True) ∧
      (f.sig = true → ∃ x, Starts (.mfence f) s s x ∧ CommandOf s f x ∧ x.tile = false ∧ x.work = .none ∧ x.regs = [] ∧
        x.stage = [] ∧ x.unpin = [] ∧ x.array = 0) ∧
      ((curCore s).fence = 15 → Traps (.mtest f) s .m .arraySuspect 2 0 24) ∧
      ((curCore s).fence ≠ 15 → (curCtx s).m.testing = true → Waits (.mtest f) s .m) ∧
      ((curCore s).fence ≠ 15 → (curCtx s).m.testing = false → ∃ x : TileCmd,
        x.token = (if f.sig then some tok else none) ∧ x.landed = true ∧ x.tile = false ∧ x.regs = [] ∧ x.stage = [] ∧
        x.reads = [] ∧ x.unpin = [] ∧ exec (.mtest f) s = .next (retire (modCur s fun t =>
          { t with m := { t.m with
            testing := true
            testAt := t.csr.cycle
            testDue := false
            mtest := some x } }) .m 24)) ∧
      (0x1FFFFF < p.off + p.len - 1 → Traps (.mpin f) s .m .operandRange 0 0 24) ∧
      (p.off + p.len ≤ 0x200000 → 8 ≤ (curCtx s).m.pins.length → Traps (.mpin f) s .m .queue 0 0 24) ∧
      (p.off + p.len ≤ 0x200000 → (curCtx s).m.pins.length < 8 → ∀ u, claimSlices s 0 [p.slice] = .ok u →
        exec (.mpin f) s = .next (retire (modCur u fun t =>
          { t with m := { t.m with pins := t.m.pins ++ [p] } }) .m 24)) ∧
      Completes (.mpinUnpin f) s .m (after s .m 24) (fun c => { c with m := { c.m with pins := [] } }) fun t =>
        (curCtx t).m.pins = (curCtx s).m.pins.erase p)

/-- The number of 4, 8 or 16 bits that position x of a line of a format holds, with the line from byte o of a slice on
(17 R471). -/
def codeAt (s : State) (slice fmt o x : Nat) : Nat :=
  let w := fmtBits fmt
  stageNat s slice (o + x * w / 8) (if w = 16 then 2 else 1) / 2 ^ (x * w % 8) % 2 ^ w

/-- The value of position x of the line at byte o (11 R309, R311, R313; 17 R472). -/
def valueAt (s : State) (slice fmt : Nat) (scales : Option (Nat × Nat)) (o x : Nat) : FVal :=
  let code := codeAt s slice fmt o x
  if fmt = 5 ∨ fmt = 7 then
    mxValue fmt (match scales with
      | none => 127
      | some (z, base) => stageNat s z (base + (o + x / 32 * (if fmt = 5 then 16 else 32)) / (if fmt = 5 then 16
        else 32)) 1) code
  else if fmt = 6 then
    match scales with
    | none => cb4Value (fInt 1) 255 code
    | some (z, base) =>
      let g := (o + x / 64 * 32) / 32
      cb4Value (decodeElem 8 (stageNat s z (base + 288 * (g / 256)) 4)) (stageNat s z (base + 288 * (g / 256) + 32 + g % 256) 1) code
  else decodeElem fmt code

/-- Value(A[i][k]) and Value(B[k][j]) of a tile command at offsets ao and bo (17 R471, R472). -/
def valueA (s : State) (w : Word) (f : MFields) (ao i k : Nat) : FVal :=
  let scales := if (w.extractLsb' 8 4).toNat = 1 then none
    else some ((w.extractLsb' 20 6).toNat, 32 * (w.extractLsb' 26 16).toNat)
  let fmt := (w.extractLsb' 0 4).toNat
  if f.aCol then valueAt s f.aSlice.toNat fmt scales (32 * ao + 32 * f.aLd.toNat * k) i
  else valueAt s f.aSlice.toNat fmt scales (32 * ao + 32 * f.aLd.toNat * i) k
/-- Value(B[k][j]). -/
def valueB (s : State) (w : Word) (f : MFields) (bo k j : Nat) : FVal :=
  let scales := if (w.extractLsb' 8 4).toNat = 1 then none
    else some ((w.extractLsb' 42 6).toNat, 32 * (w.extractLsb' 48 16).toNat)
  let fmt := (w.extractLsb' 4 4).toNat
  if f.bLay then valueAt s f.bSlice.toNat fmt scales (32 * bo + 32 * f.bLd.toNat * k) j
  else valueAt s f.bSlice.toNat fmt scales (32 * bo + 32 * f.bLd.toNat * j) k

/-- TileElement of 11 R324: from ACC96 bits, group by group of depth d, the exact sum of the products added with one
rounding; TileElement640 of R327 with the QK-640 rules. -/
def tileValue (s : State) (w : Word) (f : MFields) (x : StepAt) (i j : Nat) : Nat :=
  let kt := f.kt.toNat + 1
  let a (k : Nat) := valueA s w f x.ao.toNat i k
  let b (k : Nat) := valueB s w f x.bo.toNat k j
  let start := if x.acc then cElement s f x.ci.toNat i j else 0
  let depth (fmt : Nat) : Nat := if fmt ≤ 1 then 1 else if fmt = 5 ∨ fmt = 6 then 4 else 2
  let rules := (w.extractLsb' 16 4).toNat
  if (rules = 0 ∧ (curCtx s).csr.nbv = true) ∨ rules = 2 then
    roundAcc (tileElement640 ((kt + 31) / 32) (via32 (decodeFloat fmtACC96 start)) ((List.range kt).map a) ((List.range kt).map b))
  else
    let d := min (depth (w.extractLsb' 0 4).toNat) (depth (w.extractLsb' 4 4).toNat)
    (List.range ((kt + d - 1) / d)).foldl (fun acc g =>
      let terms := ((List.range kt).filter fun k => k / d = g).map fun k => fMul (a k) (b k)
      match terms.reverse with
      | [] => acc
      | t :: r => roundAcc (fAdd false (decodeFloat fmtACC96 acc) (r.foldl (fun v t => fAdd false t v) t))) start

/-- A step of a tile command may begin: its slices are the ASID's, the self-test is done, and with ACC no V-word before
it has still to write its C tile; u is s with the slices claimed (07 R198; 10 R301; 17 R487). -/
def StepReady (s : State) (w : Word) (f : MFields) (x : StepAt) (u : State) : Prop :=
  claimSlices s 0 (tileSlices w f) = .ok u ∧ ((curCtx s).m.tested = true ∧ (curCtx s).m.testDue = false ∧ (curCtx s).m.testing = false) ∧
  (x.acc = true → vWillWrite s s.cur ((List.range (f.mt.toNat + 1)).map fun i =>
    (12 * (x.ci.toNat + i * f.cStr.toNat), 12 * (f.nt.toNat + 1))) = false)

/-- W of 17 R474. -/
def workOf (w : Word) (f : MFields) : Nat :=
  let depth (fmt : Nat) : Nat := if fmt ≤ 1 then 1 else if fmt = 5 ∨ fmt = 6 then 4 else 2
  let d := min (depth (w.extractLsb' 0 4).toNat) (depth (w.extractLsb' 4 4).toNat)
  ((f.mt.toNat + 64) / 64) * ((f.nt.toNat + 128) / 128) * ((f.kt.toNat + d) / d)

/-- 17 R474: with a legal format word at the head of queue 4, its checks passed, its operands its own and its test done,
MSTEP takes the format word, begins one tile command that writes TileElement of every element that RMASK leaves, reads
what R471 and R472 name, holds the array for W cycles times the mode's factor, and charges its multiply-adds and its
granules; nothing else changes but the owners of unowned slices. -/
def Obligations.MstepComputesItsTile : Prop :=
  ∀ (s u : State) (f : MFields) (w : Word) (r : List (QEntry FmtEntry)), FormatReady s w r →
    let x := mstepAt f
    formatOk w = true → layoutOk w f = true → tileChecks s w f [x] = .ok () → StepReady s w f x u →
    ∃ c, Starts (.mstep f) s (charge (charge (modCur u fun t => { t with q := { t.q with fmt := r } }) s.cur
        (max (macCost (fwA w)) (macCost (fwB w))) ((rowsOf s f).length * (f.nt.toNat + 1) * (f.kt.toNat + 1)))
        s.cur costStaging ((linesA w f x.ao).granules (scaleBase w false) + (linesB w f x.bo).granules (scaleBase w true))) c ∧
      CommandOf s f c ∧ c.tile = true ∧ c.stage = [] ∧ c.step = 0xFFFFFFFF ∧ c.rerun = !f.acc ∧
      c.array = workOf w f * (match arrayMode (curCore s).fence with | 0 => 1 | 1 => 2 | 2 => 2 | _ => 4) ∧
      (f.unpin = false → c.unpin = []) ∧
      WritesTile s f f.cIdx.toNat c (tileValue u w f x)

/-- 17 R468, R469, R473, R474 and 10 R304: an MSTEP or MNEST at an illegal format word faults with ILLEGAL-WORD, with
too much work or its C tile out of range with OPERAND-RANGE, and without an array with ARRAY-SUSPECT, DETAIL 2; MSTEP,
MNEST and MDRAIN at an empty queue that the S-stream has passed fault with FORMAT-UNDERFLOW; the queue keeps its word.
While an earlier M-word runs, or the queue is empty, they wait. -/
def FormatWordsAreChecked : Prop :=
  ∀ (s : State) (f : MFields) (w : Word) (r : List (QEntry FmtEntry)), (curCtx s).m.suspect = none →
    (curCtx s).m.nest = none →
    (FormatReady s w r → (formatOk w = false ∨ layoutOk w f = false) →
      Traps (.mstep f) s .m .illegalWord 0 0 24 ∧ Traps (.mnest f) s .m .illegalWord 0 0 24) ∧
    (FormatReady s w r → formatOk w = false → f.bLay = true → Traps (.mdrain f) s .m .illegalWord 0 0 24) ∧
    (FormatReady s w r → formatOk w = true → layoutOk w f = true →
      (1152 < workOf w f → Traps (.mstep f) s .m .operandRange 0 0 24 ∧ Traps (.mnest f) s .m .operandRange 0 0 24) ∧
      (¬TileFits f f.cIdx.toNat → Traps (.mstep f) s .m .operandRange 0 0 24) ∧
      (tileChecks (modCore s s.cur fun k => { k with fence := 0 }) w f [mstepAt f] = .ok () → (curCore s).fence = 15 →
        Traps (.mstep f) s .m .arraySuspect 2 0 24)) ∧
    (MReady s → (curCtx s).q.fmt = [] → f.bLay = true →
      if (curCtx s).steer.length > (getStream (curCtx s) .m).popped ∨
          ((curCtx s).steer.length = (getStream (curCtx s) .m).popped ∧
            (getStream (curCtx s) .s).pc.toNat > (getStream (curCtx s) .m).pc.toNat) then
        Traps (.mstep f) s .m .formatUnderflow 0 0 24 ∧ Traps (.mnest f) s .m .formatUnderflow 0 0 24 ∧
          Traps (.mdrain f) s .m .formatUnderflow 0 0 24
      else Waits (.mstep f) s .m ∧ Waits (.mnest f) s .m ∧ Waits (.mdrain f) s .m) ∧
    (runs s = true → ¬MReady s → f.bLay = true → Waits (.mstep f) s .m ∧ Waits (.mnest f) s .m ∧ Waits (.mdrain f) s .m)

/-- Σ i_l × stride_l over the levels of a nest table (17 R477). -/
def nestSum (n : Vector NestLevel 6) (i : Nat → Nat) (stride : NestLevel → BitVec 32) : Int :=
  ((List.range 6).map fun l => (i l : Int) * (match n[l]? with | some v => (stride v).toInt | none => 0)).sum

/-- N_l: the count of level l, 0 counting as 1. -/
def nestCount (n : Vector NestLevel 6) (l : Nat) : Nat := match n[l]? with | some v => max v.count.toNat 1 | none => 1

/-- The linear index of a step (17 R478). -/
def linearIndex (n : Vector NestLevel 6) (i : Nat → Nat) : Nat :=
  (List.range 6).foldr (fun l acc => i l + nestCount n l * acc) 0

/-- The step of an MNEST at counters i (17 R477). -/
def stepOf (f : MFields) (n : Vector NestLevel 6) (i : Nat → Nat) : StepAt :=
  { ao := f.aOff.toNat + nestSum n i fun l => l.sa
    bo := f.bOff.toNat + nestSum n i fun l => l.sb
    ci := f.cIdx.toNat + nestSum n i fun l => l.sc
    acc := f.acc || (List.range 6).any fun l => (match n[l]? with | some v => decide (v.sc = 0) | none => false)
      && decide (0 < i l) }

/-- 17 R477 and R478; 10 R304: the steps of an MNEST. Without an array a step of an MNEST that has begun faults with
ARRAY-SUSPECT, DETAIL 2. The word begins with the shadow table as the active one and the step at
counters 0, and later goes on with the step whose linear index follows; each step writes TileElement at its offsets, and
the word retires with the last, whose linear index is one less than the product of the counts. -/
def MnestRunsItsSteps : Prop :=
  ∀ (s u : State) (f : MFields) (w : Word) (i : Nat → Nat) (n : Vector NestLevel 6),
    (∀ l, l < 6 → i l < nestCount n l) → (curCtx s).m.suspect = none →
    (MReady s → (curCtx s).m.nest ≠ none → (curCore s).fence = 15 → Traps (.mnest f) s .m .arraySuspect 2 0 24) ∧
    let k := linearIndex n i
    let x := stepOf f n i
    let last : Bool := decide (k + 1 = ((List.range 6).map (nestCount n)).prod)
    StepReady (if k = 0 then modCur s fun t => { t with
        q := { t.q with fmt := t.q.fmt.tail }
        m := { t.m with active := n } } else s) w f x u →
    (k = 0 → (∃ r, FormatReady s w r) ∧ (curCtx s).m.nest = none ∧ n = (curCtx s).m.shadow ∧ formatOk w = true ∧
      layoutOk w f = true ∧ tileChecks s w f (nestBounds f n) = .ok ()) →
    (0 < k → MReady s ∧ (curCore s).fence ≠ 15 ∧ n = (curCtx s).m.active ∧ ∃ q,
      (curCtx s).m.nest = some q ∧ q.format = w ∧ q.linear + 1 = k ∧
      linearIndex n (fun l => ((q.counters.toList.getD l 0).toNat)) = q.linear ∧
      ∀ l, l < 6 → (q.counters.toList.getD l 0).toNat < nestCount n l) →
    ∃ c q, exec (.mnest f) s = .next (
        let v := charge (charge u s.cur (max (macCost (fwA w)) (macCost (fwB w)))
          ((rowsOf s f).length * (f.nt.toNat + 1) * (f.kt.toNat + 1))) s.cur costStaging
          ((linesA w f x.ao).granules (scaleBase w false) + (linesB w f x.bo).granules (scaleBase w true))
        let v := modCur v fun t => { t with m := { t.m with cmd := some c, nest := q } }
        if last then retire v .m 24 else activeCycle (modCur v fun t => modStream t .m fun y =>
          { y with waiting := false }) s.cur) ∧
      c.tile = true ∧ c.stage = [] ∧ c.step = BitVec.ofNat 32 k ∧ c.rerun = !x.acc ∧
      c.token = (if last ∧ f.sig = true then some (Fin.ofNat 16 f.tok.toNat) else none) ∧
      WritesTile s f x.ci.toNat c (tileValue u w f x) ∧
      if last then q = none else ∃ z : NestRun, q = some z ∧ z.linear = k ∧ z.format = w ∧
        ∀ l, l < 6 → (z.counters.toList.getD l 0).toNat = i l

/-- The byte of element (i, j) of a drain in its destination, from the destination's start (17 R480). -/
def drainAt (f : MFields) (size i j : Nat) : Nat :=
  if f.bLay then 32 * f.bLd.toNat * i + size * j
  else if f.aCol then 32 * f.aLd.toNat * j + size * i else 32 * f.aLd.toNat * i + size * j

/-- A drained value: ACC96 bits as they are, INT32 rounded to nearest and clamped, or a float rounded once (17 R480). -/
def drained (out v : Nat) : Nat :=
  if out = 13 then v else if out = 9 then (floatToInt 9 0 (decodeFloat fmtACC96 v)).1
  else (roundFloat (floatFmt out) 0 false (decodeFloat fmtACC96 v)).1

/-- The byte at a of what a command writes, the last write of it standing. -/
def writtenAt (l : List (Nat × List Byte)) (a : Nat) : Option Byte :=
  (l.reverse.find? fun w => decide (w.1 ≤ a) && decide (a < w.1 + w.2.length)).map fun w => w.2.getD (a - w.1) 0

/-- The command writes element (i, j) of every row that RMASK leaves, converted, at its place from base on, and no other
byte. -/
def DrainsTo (s : State) (f : MFields) (out base : Nat) (l : List (Nat × List Byte)) : Prop :=
  let size := fmtBits out / 8
  (∀ i j b, i ∈ rowsOf s f → j ≤ f.nt.toNat → b < size →
    writtenAt l (base + drainAt f size i j + b) =
      some (BitVec.ofNat 8 (drained out (cElement s f f.cIdx.toNat i j) / 256 ^ b))) ∧
  ∀ a, (∀ i j b, i ∈ rowsOf s f → j ≤ f.nt.toNat → b < size → a ≠ base + drainAt f size i j + b) → writtenAt l a = none

/-- 17 R480: MDRAIN of a C tile in range, at a legal format word and with no V-word before it still to write the tile,
takes the word and begins a command that writes the converted elements: to register space through VWT, or, outside
speculative mode, to a slice of the ASID that no pin of the core meets. A pitch below a line, and a destination out of
range, fault with OPERAND-RANGE, a drain to staging in speculative mode with SPEC-ILLEGAL, and one into a pinned region
with ACCESS. A drain that passes these checks waits for the V-words before it that have still to write the tile (17
R487). -/
def Obligations.MdrainConvertsItsTile : Prop :=
  ∀ (s : State) (f : MFields) (w : Word) (r : List (QEntry FmtEntry)), FormatReady s w r → formatOk w = true →
    let out := (w.extractLsb' 12 4).toNat
    let size := fmtBits out / 8
    let mt := f.mt.toNat + 1
    let nt := f.nt.toNat + 1
    let line := if f.bLay then size * nt ≤ 32 * f.bLd.toNat else if f.aCol then size * mt ≤ 32 * f.aLd.toNat
      else size * nt ≤ 32 * f.aLd.toNat
    let last := drainAt f size f.mt.toNat f.nt.toNat + size
    let vwt := (curCtx s).csr.vwt
    let base := (vwt.extractLsb' 0 23).toNat + 32 * (vwt.extractLsb' 32 12).toNat * f.bOff.toNat
    let fits := f.bOff.toNat < 512 ∧ 0x400000 ≤ base ∧ base + last ≤ 0x440000 ∧
      base + last ≤ (vwt.extractLsb' 0 23).toNat + 32 * (vwt.extractLsb' 32 12).toNat * (vwt.extractLsb' 48 13).toNat
    let ready := vWillWrite s s.cur ((List.range mt).map fun i =>
      (12 * (f.cIdx.toNat + i * f.cStr.toNat), 12 * nt)) = false
    let popped (t : State) : State := modCur t fun t => { t with q := { t.q with fmt := r } }
    (f.bLay = true → TileFits f f.cIdx.toNat → line → fits → ready →
      ∃ c, Starts (.mdrain f) s (popped s) c ∧ CommandOf s f c ∧ c.tile = false ∧ c.stage = [] ∧ DrainsTo s f out base c.regs) ∧
    (f.bLay = true → TileFits f f.cIdx.toNat → line → fits → ¬ready → Waits (.mdrain f) s .m) ∧
    (f.bLay = true ∨ inSpec (curCtx s) .m = false → ¬TileFits f f.cIdx.toNat ∨ ¬line ∨ (f.bLay = true ∧ ¬fits) ∨
      (f.bLay = false ∧ 0x200000 < 32 * f.aOff.toNat + last) → Traps (.mdrain f) s .m .operandRange 0 0 24) ∧
    (f.bLay = false → inSpec (curCtx s) .m = true → Traps (.mdrain f) s .m .specIllegal 0 0 24) ∧
    (f.bLay = false → inSpec (curCtx s) .m = false → TileFits f f.cIdx.toNat → line →
      32 * f.aOff.toNat + last ≤ 0x200000 →
      ((∃ p ∈ (curCtx s).m.pins, p.slice = f.aSlice.toNat ∧ ∃ i j b, i ∈ rowsOf s f ∧ j ≤ f.nt.toNat ∧ b < size ∧
          p.off ≤ 32 * f.aOff.toNat + drainAt f size i j + b ∧ 32 * f.aOff.toNat + drainAt f size i j + b < p.off + p.len) →
        Traps (.mdrain f) s .m .access 1 0 24) ∧
      ((∀ p ∈ (curCtx s).m.pins, p.slice ≠ f.aSlice.toNat) → ¬ready → ∀ u, claimSlices s 1 [f.aSlice.toNat] = .ok u →
        Waits (.mdrain f) s .m) ∧
      ((∀ p ∈ (curCtx s).m.pins, p.slice ≠ f.aSlice.toNat) → ready → ∀ u, claimSlices s 1 [f.aSlice.toNat] = .ok u →
        ∃ c g, Starts (.mdrain f) s (popped (charge u s.cur costStaging g)) c ∧ CommandOf s f c ∧ c.tile = false ∧ c.regs = [] ∧
          DrainsTo s f out (stagingBase + f.aSlice.toNat * 0x200000 + 32 * f.aOff.toNat) c.stage))

/-- 17 R466 to R486: the words of the matrix stream. -/
def Obligations.MatrixWordsWriteTheirTile : Prop :=
  AccumulatorWordsWriteTheirTile ∧ MatrixWordsRunInTurn

/-- 17 R470 to R479: format words and MNEST. -/
def Obligations.FormatAndNestWords : Prop :=
  FormatWordsAreChecked ∧ MnestRunsItsSteps

/-! ### The P-stream (18 R489 to R501; 13 R363) -/

/-- A binary tree. -/
inductive Shape
  | leaf
  | node (left right : Shape)

/-- The bits of a tree in preorder, 1 for an internal node (13 R363). -/
def Shape.code : Shape → List Bool
  | .leaf => [false]
  | .node l r => true :: (l.code ++ r.code)

/-- Its internal nodes. -/
def Shape.inner : Shape → Nat
  | .leaf => 0
  | .node l r => 1 + l.inner + r.inner

/-- The tree with its internal nodes numbered in preorder from i and its leaves from l. -/
def Shape.numbered : Shape → Nat → Nat → PTree
  | .leaf, _, l => .leaf l
  | .node a b, i, l => .node i (a.numbered (i + 1) l) (b.numbered (i + 1 + a.inner) (l + a.inner + 1))

/-- 18 R494: DecodeTree of a shape field that holds the code of a tree of at most 7 internal nodes from its top bit down
gives that tree, numbered in preorder, with its internal nodes and its leaves. -/
def ShapeFieldsHoldTheirTree : Prop :=
  ∀ (t : Shape) (f : PFields), t.inner ≤ 7 → (∀ n, n < t.code.length → f.shape.getLsbD (14 - n) = t.code.getD n false) →
    (treeOf f).tree = t.numbered 0 0 ∧ (treeOf f).i = t.inner ∧ (treeOf f).l = t.inner + 1 ∧
    (treeOf f).left + t.code.length = 15

/-- Entry ref of a plane: bank [12:9], entry [8:0] (18 R489). -/
def entryAt (plane : Nat) (ref : BitVec 13) : Nat :=
  32768 * plane + 2048 * (ref.extractLsb' 9 4).toNat + 4 * (ref.extractLsb' 0 9).toNat

/-- The bits of an entry, a fresh one reading as zero. -/
def entryIn (s : State) (plane : Nat) (ref : BitVec 13) : Nat := bytesToNat (bankRead (curCore s) (entryAt plane ref) 4)

/-- The value of 32 bits in the value format (18 R490). -/
def valueOf (fmt : BitVec 4) (v : Nat) : FVal :=
  if fmt = 14 then decodePs32 v else if fmt = 8 then decodeFloat fmtFP32 (v % 2 ^ 32)
    else decodeFloat fmtBF16 (v % 2 ^ 16)

/-- The P-word i issues a result that writes these entries, as plane, reference and bits, and sets these flags, counts
nodes sum-product nodes, and retires (18 R491, R493). -/
def PIssues (i : Instr) (s : State) (nodes : Nat) (writes : List (Nat × BitVec 13 × Nat)) (flags : BitVec 7) : Prop :=
  exec i s = .next (retire (charge (modCur s fun t => { t with ppend := t.ppend ++
    [{ Pending.none 0 (issueTag t .p 0) with
      banks := writes.map fun w => (entryAt w.1 w.2.1, natToBytes 4 w.2.2)
      flags := flags }] }) s.cur costNode nodes) .p 24)

/-- No issued P-word has still to write entry ref of a plane (18 R491). -/
def Landed (s : State) (plane : Nat) (ref : BitVec 13) : Prop :=
  ∀ p ∈ (curCtx s).ppend, ∀ w ∈ p.banks, w.1 + w.2.length ≤ entryAt plane ref ∨ entryAt plane ref + 4 ≤ w.1

/-- Entry i after ref in its bank. -/
def plus (ref : BitVec 13) (i : Nat) : BitVec 13 :=
  ref.extractLsb' 9 4 ++ BitVec.ofNat 9 ((ref.extractLsb' 0 9).toNat + i)

/-- RoundP in the value format: the bits, with flags from PS32 only (18 R495). -/
def roundTo (fmt : BitVec 4) (v : FVal) : Nat × BitVec 7 :=
  if fmt = 14 then ps32Result v
  else ((roundFloat (if fmt = 8 then fmtFP32 else fmtBF16) 0 false v).1, 0)

/-- The number of weighted-sum nodes before internal node i (18 R495). -/
def weightedBefore (f : PFields) (i : Nat) : Nat := ((List.range i).filter fun n => !f.ops.getLsbD n).length

/-- NodeValue of 18 R495, as bits and the flags that the roundings set. V gives the bits of a value-plane entry. -/
def valueOfNode (f : PFields) (fmt : BitVec 4) (max : Bool) (V : BitVec 13 → Nat) : PTree → Nat × BitVec 7
  | .leaf j => (V (f.leaf j), 0)
  | .node i l r =>
    let a := valueOfNode f fmt max V l
    let b := valueOfNode f fmt max V r
    let w (n : Nat) := valueOf fmt (V (plus f.wb (2 * weightedBefore f i + n)))
    let x := valueOf fmt a.1
    let y := valueOf fmt b.1
    let out := roundTo fmt (if f.ops.getLsbD i then fMul x y
      else if max then pMax (fMul (w 0) x) (fMul (w 1) y) else fAdd false (fMul (w 0) x) (fMul (w 1) y))
    (out.1, a.2 ||| b.2 ||| out.2)

/-- 18 R495 to R497: a tree word whose weights lie in their bank and whose entries have landed issues one result: PSUB
and PMAXP the root's value, rounded, to the destination of the value plane; each node is rounded once. An entry that an
earlier word has still to write makes it wait, and weights past entry 511 fault with OPERAND-RANGE. -/
def TreeWordsEvaluateTheirTree : Prop :=
  ∀ (s : State) (f : PFields) (max : Bool), runs s = true →
    let i := if max then Instr.pmaxp f else .psub f
    let t := treeOf f
    let fmt := (curCtx s).pmode
    let m := weightedBefore f t.i
    let refs := (List.range t.l).map f.leaf ++ (List.range (2 * m)).map (plus f.wb)
    let root := valueOfNode f fmt max (entryIn s 0) t.tree
    let out := roundTo fmt (valueOf fmt root.1)
    (fmt = 14 ∨ fmt = 8 ∨ fmt = 0) → t.i ≤ 7 →
    (m = 0 ∨ (f.wb.extractLsb' 0 9).toNat + 2 * m ≤ 512 →
      ((∀ r ∈ refs, Landed s 0 r) → PIssues i s t.i [(0, f.dst, out.1)] (root.2 ||| out.2)) ∧
      ((∃ r ∈ refs, ¬Landed s 0 r) → Waits i s .p)) ∧
    (0 < m → 512 < (f.wb.extractLsb' 0 9).toNat + 2 * m → Traps i s .p .operandRange 0 0 24 ∧ Traps (.psubd f) s .p .operandRange 0 0 24)

/-- The g of each leaf of 18 R497, with the flags of its roundings, in leaf order. -/
def leafGs (f : PFields) (fmt : BitVec 4) (V : BitVec 13 → Nat) : PTree → Nat × BitVec 7 → List (Nat × Nat × BitVec 7)
  | .leaf j, g => [(j, g)]
  | .node i l r, g =>
    let w (n : Nat) := valueOf fmt (V (plus f.wb (2 * weightedBefore f i + n)))
    let v (t : PTree) := valueOf fmt (valueOfNode f fmt false V t).1
    let down (x : FVal) := let o := roundTo fmt (fMul (valueOf fmt g.1) x); (o.1, g.2 ||| o.2)
    leafGs f fmt V l (down (if f.ops.getLsbD i then v r else w 0)) ++
      leafGs f fmt V r (down (if f.ops.getLsbD i then v l else w 1))

/-- The derivative plane after the additions of 18 R497 in leaf order, and the flags. -/
def derivatives (f : PFields) (fmt : BitVec 4) (D : BitVec 13 → Nat) (l : List (Nat × Nat × BitVec 7)) :
    (BitVec 13 → Nat) × BitVec 7 :=
  l.foldl (fun acc x =>
    let o := roundTo fmt (fAdd false (valueOf fmt (acc.1 (f.leaf x.1))) (valueOf fmt x.2.1))
    (fun r => if r = f.leaf x.1 then o.1 else acc.1 r, acc.2 ||| x.2.2 ||| o.2)) (D, 0)

/-- 18 R497: PSUBD adds to the derivative of every leaf its g, in leaf order, each addition rounded; its result writes
exactly the leaves' entries of the derivative plane, with the sums, and sets the flags of the roundings of g and of the
additions only. -/
def Obligations.DownwardPassAddsToTheLeaves : Prop :=
  ∀ (s : State) (f : PFields), runs s = true →
    let t := treeOf f
    let fmt := (curCtx s).pmode
    let m := weightedBefore f t.i
    let leaves := (List.range t.l).map f.leaf
    let d := derivatives f fmt (entryIn s 1) (leafGs f fmt (entryIn s 0) t.tree (entryIn s 1 f.dst, 0))
    (fmt = 14 ∨ fmt = 8 ∨ fmt = 0) → t.i ≤ 7 → t.l = t.i + 1 → m = 0 ∨ (f.wb.extractLsb' 0 9).toNat + 2 * m ≤ 512 →
    (∀ r ∈ leaves ++ (List.range (2 * m)).map (plus f.wb), Landed s 0 r) → (∀ r ∈ f.dst :: leaves, Landed s 1 r) →
    ∃ writes, PIssues (.psubd f) s t.i writes d.2 ∧ (∀ w ∈ writes, w.1 = 1 ∧ w.2.1 ∈ leaves ∧ w.2.2 = d.1 w.2.1) ∧
      ∀ r ∈ leaves, ∃ w ∈ writes, w.2.1 = r

/-- 18 R496, R499 and R500: over n leaves whose entries have landed, PSUM writes the exact sum, or weighted sum, rounded
once; PNORM writes the rounded sum and each leaf over it; PCVT writes the converted leaves to consecutive entries.
Weights or destinations past entry 511 fault with OPERAND-RANGE. -/
def Obligations.FlatWordsSumNormaliseAndConvert : Prop :=
  ∀ (s : State) (f : PFields), runs s = true →
    let n := f.count
    let fmt := (curCtx s).pmode
    let v (r : BitVec 13) := valueOf fmt (entryIn s 0 r)
    let leaves := (List.range n).map f.leaf
    let exact (l : List FVal) : FVal := match l with | [] => fZero | a :: r => r.foldl (fAdd false) a
    (fmt = 14 ∨ fmt = 8 ∨ fmt = 0) → (∀ r ∈ leaves, Landed s 0 r) →
    (f.mode ≠ 1 → let o := roundTo fmt (exact (leaves.map v)); PIssues (.psum f) s (n - 1) [(0, f.dst, o.1)] o.2) ∧
    (f.mode = 1 → (f.wb.extractLsb' 0 9).toNat + n ≤ 512 → (∀ i, i < n → Landed s 0 (plus f.wb i)) →
      let o := roundTo fmt (exact ((List.range n).map fun i => fMul (v (plus f.wb i)) (v (f.leaf i))))
      PIssues (.psum f) s (n - 1) [(0, f.dst, o.1)] o.2) ∧
    (f.mode = 1 → 512 < (f.wb.extractLsb' 0 9).toNat + n → Traps (.psum f) s .p .operandRange 0 0 24) ∧
    (let sum := roundTo fmt (exact (leaves.map v))
     let share (r : BitVec 13) : Nat × BitVec 7 :=
       let o := roundTo fmt (fDiv (v r) (valueOf fmt sum.1))
       (o.1, if fmt = 14 ∧ isZero (v r) = true ∧ isZero (valueOf fmt sum.1) = true then o.2 ||| 1 else o.2)
     PIssues (.pnorm f) s (n - 1) ((0, f.dst, sum.1) :: leaves.map fun r => (0, r, (share r).1))
       ((leaves.map share).foldl (fun g o => g ||| o.2) sum.2)) ∧
    (f.mode = 14 ∨ f.mode = 8 ∨ f.mode = 0 → (f.dst.extractLsb' 0 9).toNat + n ≤ 512 →
      let conv (r : BitVec 13) : Nat × BitVec 7 := if fmt ≠ f.mode ∧ f.mode = 14 then toPs32 (v r)
        else roundTo f.mode (v r)
      PIssues (.pcvt f) s 0 ((List.range n).map fun i => (0, plus f.dst i, (conv (f.leaf i)).1))
        ((leaves.map conv).foldl (fun g o => g ||| o.2) 0)) ∧
    (512 < (f.dst.extractLsb' 0 9).toNat + n → Traps (.pcvt f) s .p .operandRange 0 0 24)

/-- 18 R498, R490 and R501: PLOAD takes the oldest entry of qap, once it has arrived, into 64 entries, PSTORE puts 64
landed entries on their way to qpa, in order; both need the first entry at 448 or below and the A-stream enabled, and
wait otherwise. PMODE sets the value format; PLOAD, PSIG, PWAIT and PFENCE wait until every issued word has landed (18
R491: words take effect in order), PSIG then signals and waits at 255; PWAIT takes a unit and waits for one. -/
def Obligations.BankMovesAndFences : Prop :=
  ∀ (s : State) (f : PFields), runs s = true →
    let c := curCtx s
    let at_ := entryAt f.mode.toNat f.dst
    let none' : Pending := Pending.none 0 (issueTag c .p 0)
    let issues (i : Instr) (p : Pending) (hide : Ctx → Ctx) (post : State → Prop) : Prop :=
      Completes i s .p (after s .p 24) (fun c => hide { c with ppend := [] }) fun t =>
        (curCtx t).ppend = c.ppend ++ [p] ∧ post t
    let tok := Fin.ofNat 16 (f.shape.extractLsb' 11 4).toNat
    let n := c.tokens.get tok
    let hideTok (c : Ctx) : Ctx := { c with tokens := c.tokens.set tok.val 0 tok.isLt }
    (448 < (f.dst.extractLsb' 0 9).toNat → Traps (.pload f) s .p .operandRange 0 0 24 ∧ Traps (.pstore f) s .p .operandRange 0 0 24) ∧
    ((f.dst.extractLsb' 0 9).toNat ≤ 448 →
      ((getStream c .a).enabled = false → Traps (.pload f) s .p .queue 0 0 24 ∧ Traps (.pstore f) s .p .queue 0 0 24) ∧
      ((getStream c .a).enabled = true →
        ((∀ v, headSlot c.q.qap ≠ some v) ∨ c.ppend ≠ [] → Waits (.pload f) s .p) ∧
        (∀ v, headSlot c.q.qap = some v → c.ppend = [] → issues (.pload f)
          { none' with banks := [(at_, (List.range 256).map fun b => v.extractLsb' (8 * b) 8)] }
          (fun c => { c with q := { c.q with qap := [] } }) fun t => (curCtx t).q.qap = c.q.qap.tail) ∧
        ((∃ i, i < 64 ∧ ¬Landed s f.mode.toNat (plus f.dst i)) → Waits (.pstore f) s .p) ∧
        ((∀ i, i < 64 → Landed s f.mode.toNat (plus f.dst i)) →
          c.q.qpa.length + (c.ppend.map fun p => p.qpa.length).sum < 16 → ∃ v : BitVec 2048,
            (∀ b, b < 256 → v.extractLsb' (8 * b) 8 = (bankRead (curCore s) (at_ + b) 1).headD 0) ∧
            issues (.pstore f) { none' with qpa := [v] } id fun _ => True))) ∧
    Completes (.pmode f) s .p (after s .p 24) (fun c => { c with pmode := 0 }) (fun t => (curCtx t).pmode = f.mode) ∧
    (c.ppend ≠ [] → Waits (.psig f) s .p ∧ Waits (.pfence f) s .p ∧ Waits (.pwait f) s .p) ∧
    (c.ppend = [] → Completes (.pfence f) s .p (after s .p 24) hideNone (fun _ => True) ∧
      (n ≠ 255 → Completes (.psig f) s .p (after s .p 24) hideTok fun t => (curCtx t).tokens.get tok = n + 1) ∧
      (n = 255 → Waits (.psig f) s .p)) ∧
    (c.ppend = [] → n ≠ 0 → Completes (.pwait f) s .p (after s .p 24) hideTok fun t => (curCtx t).tokens.get tok = n - 1) ∧
    (n = 0 → Waits (.pwait f) s .p)

/-- 13 R363; 18 R490 to R495: the trees of the sum-product words. -/
def Obligations.TreeWordsEvaluateTheirShape : Prop :=
  ShapeFieldsHoldTheirTree ∧ TreeWordsEvaluateTheirTree

/-! ### Command windows, packets, contexts and completions (02 R42 to R52, R63; 03 R69 to R92) -/

/-- A window of a function's BAR 0 shows context x: of the physical function its number, of another the place among the
enabled contexts of that function in ascending order (02 R43, R44). -/
def Shows (s : State) (f : FuncId) (window : Nat) (x : ContextId) : Prop :=
  contextLive (getContext s x.val) = true ∧ (getContext s x.val).func.toNat = f.val ∧
  if f.val = 0 then window = x.val
  else window < 64 ∧ ((s.contexts.filter fun e => e.2.enable
    && e.2.func.toNat == f.val).map Prod.fst)[window]? = some x.val

/-- s with MISROUTE of function f set and counted, up to 65,535 (02 R44). -/
def misrouted (s : State) (f : FuncId) : State :=
  { s with links := { s.links with
    misroute := s.links.misroute.set f.val true f.isLt
    misroutes := s.links.misroutes.set f.val (BitVec.ofNat 16 (min 65535 ((s.links.misroutes.get f).toNat + 1))) f.isLt } }

/-- What latching packet p for context x does: a halted device answers NOT-READY, a full FIFO discards the packet, sets
OVERRUN and counts it, and any other takes it as the newest (01 R36; 02 R45, R47). -/
def latched (s : State) (x : ContextId) (p : BitVec 512) : State :=
  let c := getContext s x.val
  if s.pkg.cause ≠ 0 then complete s x (pktCommand p) 8
  else if 64 ≤ c.fifo.length then
    modContext s x.val fun c => { c with overrun := true, discards := BitVec.ofNat 16 (min 65535 (c.discards.toNat + 1)) }
  else modContext s x.val fun c => { c with fifo := c.fifo ++ [p] }

/-- 02 R43 to R47 and R63: a write inside a window stages its bytes, and with bytes 56 to 63 all written the 64 staged
bytes are latched and staging is empty again; a write to a window that shows no context changes only MISROUTE.
OVERRUN_CLEAR and MISROUTE_CLEAR clear their bit and its count, on a device that has not halted (01 R36); a packet that
the peer forwards is latched for its context, or misrouted. -/
def Obligations.CommandWindowsLatchTheirPacket : Prop :=
  ∀ (s : State) (f : FuncId) (window : Nat) (x : ContextId) (p : BitVec 512),
    ((∀ y, ¬Shows s f window y) → ∀ off data, exec (.commandWindowWrite f window off data) s = .next (misrouted s f)) ∧
    (Shows s f window x → ∀ (off : Nat) (data : List Byte), data ≠ [] → off + data.length ≤ 64 →
      ∃ (stage : BitVec 512) (mask : BitVec 64),
        (∀ b, b < 64 → stage.extractLsb' (8 * b) 8 = if off ≤ b ∧ b < off + data.length then data.getD (b - off) 0
          else (getContext s x.val).stage.extractLsb' (8 * b) 8) ∧
        (∀ b, b < 64 → mask.getLsbD b = ((getContext s x.val).mask.getLsbD b
          || decide (off ≤ b ∧ b < off + data.length))) ∧
        exec (.commandWindowWrite f window off data) s = .next (
          if mask.extractLsb' 56 8 = 255 then latched (modContext s x.val fun c =>
            { c with stage := 0, mask := 0 }) x stage
          else modContext s x.val fun c => { c with stage := stage, mask := mask })) ∧
    (s.pkg.cause = 0 → (Shows s f window x → exec (.overrunClear f window) s =
        .next (modContext s x.val fun c => { c with overrun := false, discards := 0 })) ∧
      exec (.misrouteClear f) s = .next { s with links := { s.links with
        misroute := s.links.misroute.set f.val false f.isLt
        misroutes := s.links.misroutes.set f.val 0 f.isLt } }) ∧
    (s.pkg.cause ≠ 0 → exec (.overrunClear f window) s = .next s ∧ exec (.misrouteClear f) s = .next s) ∧
    (let y : ContextId := Fin.ofNat 1024 (p.extractLsb' 96 10).toNat
     exec (.forwardedCommandPacket p) s =
       .next (if contextLive (getContext s y.val) then latched s y p else misrouted s 0))

/-- Packet p stands at the head of context x, whose packets the front end handles; u is s as it handles p under the next
number n, without p in the FIFO and, unless p is a FENCE, with p pending. -/
def AtHead (s u : State) (x : ContextId) (p : BitVec 512) (n : Nat) : Prop :=
  ∃ r, (getContext s x.val).fifo = p :: r ∧ frontReady s x = true ∧ n = s.nextCmd + 1 ∧
    u = modContext { s with nextCmd := n, disp := { s.disp with front := x.val } } x.val fun c => { c with
      fifo := r, pendingCmds := if p.extractLsb' 0 8 = 5 ∧ packetOk p = true then c.pendingCmds
        else c.pendingCmds ++ [n] }

/-- The launch record that LAUNCH and ARM make of a template: the queue of the packet with QOVR, the context's ASID and
the packet's cookie (03 R80). -/
def madeRecord (p : BitVec 512) (template : BitVec 2048) (asid : BitVec 16) (r : BitVec 2048) : Prop :=
  (∀ i, i < 256 → ¬(4 ≤ i ∧ i < 12) → r.extractLsb' (8 * i) 8 = template.extractLsb' (8 * i) 8) ∧
  r.extractLsb' 32 12 = (if p.getLsbD 63 then p.extractLsb' 48 12 else template.extractLsb' 32 12) ∧
  r.extractLsb' 44 4 = template.extractLsb' 44 4 ∧
  r.extractLsb' 48 16 = asid ∧ r.extractLsb' 64 32 = p.extractLsb' 64 32

/-- u with the reference count of a slot moved by d. -/
def refMoved (u : State) (n : Fin 64) (d : BitVec 16) : State :=
  { u with slots := u.slots.set n.val { u.slots.get n with refs := (u.slots.get n).refs + d } n.isLt }

/-- The launch record h goes on from u: to the dispatcher at once without a class, or with every island at its operating
point or above; else as the governor grants, which the spec leaves open (log entries 13 and 28), it is held for its point
or goes on at once (03 R85, R86). -/
def PassesOn (i : Instr) (s u : State) (fclass : BitVec 2) (h : Handed) : Prop :=
  let point : BitVec 4 := s.fclassOp.extractLsb' (4 * (fclass.toNat - 1)) 4
  let asked : State := { u with freeCtr := u.freeCtr + 1 }
  (fclass = 0 ∨ (∀ n : Fin 16, point ≤ (s.islands.get n).op) → exec i s = .next (handOver u h).2) ∧
  (fclass ≠ 0 → (∃ n : Fin 16, (s.islands.get n).op < point) → exec i s = .next (handOver asked h).2 ∨
    exec i s = .next { asked with disp := { u.disp with holds := u.disp.holds ++ [{ h with op := some point }] } })

/-- 03 R70 and R80 to R84: what the packet at the head of a context does. A malformed packet completes with BAD-PACKET.
LAUNCH and ARM of a slot that is not resident, or another function's, complete with NOT-RESIDENT, and where the template
cannot be read with FAULTED; LAUNCH passes the made record on, through the hold of its class; ARM keeps it, unless its
tag is armed or 1,024 are; FIRE passes an armed record on, with REL0 as argument word 0 where its count is 1, through the
hold of the armed class, and REARM keeps it; DISARM ends the armed launch with DISARMED; FENCE completes at once with
nothing pending, and else waits. A FIRE or DISARM without an armed launch completes with NO-ARMED. (That NOT-RESIDENT and
FAULTED come before TAG-BUSY and that before ARM-FULL, and an armed launch's record before its DISARM's, are the model's
own choices, log entries 90 and 91.) -/
def PacketsHaveTheirEffect : Prop :=
  ∀ (s u : State) (x : ContextId) (p : BitVec 512) (num : Nat), AtHead s u x p num →
    let c := getContext s x.val
    let cmd := pktCommand p
    let n : Fin 64 := Fin.ofNat 64 (p.extractLsb' 8 6).toNat
    let slot := s.slots.get n
    let pa := slot.template.toNat * 256
    let op := (p.extractLsb' 0 8).toNat
    let key (a : Armed) : Bool := a.context == x && a.tag == p.extractLsb' 32 16
    let readable := placeOf s pa = .local ∧ placeOf s (pa + 255) = .local
    let handed (slot : Fin 64) (r : BitVec 2048) (rl : Vector VAddr 8) (cmd : Command) : Handed :=
      { kernel := s.disp.nextKernel, record := r, rl := rl, slot := slot, context := x
        origin := .packet x cmd num, op := none, relocOk := true }
    let ends (i : Instr) (status : Nat) : Prop := exec i s = .next (completeCmd u x cmd num status)
    (packetOk p = false → ∀ i, (i, op) ∈ [(Instr.armPacket x, 2), (.disarmPacket x, 3), (.firePacket x, 4),
      (.fencePacket x, 5)] ∨
        (i = .launchPacket x ∧ (op < 2 ∨ 5 < op)) → ends i 2) ∧
    (packetOk p = true →
      (∀ i, (i, op) ∈ [(Instr.launchPacket x, 1), (.armPacket x, 2)] →
        (slot.resident = false ∨ slot.owner ≠ c.func → ends i 1) ∧
        (slot.resident = true → slot.owner = c.func → ¬readable → ends i 4)) ∧
      (op = 1 → slot.resident = true → slot.owner = c.func → readable → ∃ r,
        madeRecord p (ofBytes 2048 (physRead s pa 256)) c.asid r ∧
        PassesOn (.launchPacket x) s (refMoved u n 1) (p.extractLsb' 14 2) (handed n r (pktRelocs p) cmd)) ∧
      (op = 2 → slot.resident = true → slot.owner = c.func → readable →
        (s.armed.any key = true → ends (.armPacket x) 5) ∧
        (s.armed.any key = false → 1024 ≤ s.armed.length → ends (.armPacket x) 6) ∧
        (s.armed.any key = false → s.armed.length < 1024 → ∃ a : Armed,
          madeRecord p (ofBytes 2048 (physRead s pa 256)) c.asid a.record ∧
          a.context = x ∧ a.tag = p.extractLsb' 32 16 ∧ a.rl = pktRelocs p ∧ a.fclass = p.extractLsb' 14 2 ∧
          a.rearm = p.getLsbD 21 ∧ a.cmd = cmd ∧
          exec (.armPacket x) s = .next (completeCmd { refMoved u n 1 with armed := s.armed ++ [a] } x cmd num 0))) ∧
      (op = 3 → (s.armed.any key = false → ends (.disarmPacket x) 7) ∧
        ∀ a, s.armed.find? key = some a → exec (.disarmPacket x) s = .next (completeCmd
          (completeCmd (refMoved { u with armed := s.armed.filter fun b => !key b } (Fin.ofNat 64 a.cmd.slot.toNat) (-1))
            x a.cmd 0 10) x cmd num 0)) ∧
      (op = 4 → (s.armed.any key = false → ends (.firePacket x) 7) ∧
        ∀ a, s.armed.find? key = some a → ∃ r : BitVec 2048,
          let z : Fin 64 := Fin.ofNat 64 a.cmd.slot.toNat
          (∀ i, i < 256 → ¬(208 ≤ i ∧ i < 216) → r.extractLsb' (8 * i) 8 = a.record.extractLsb' (8 * i) 8) ∧
          r.extractLsb' 1664 64 = (if p.extractLsb' 16 4 = 1 then (p.extractLsb' 128 48).setWidth 64
            else a.record.extractLsb' 1664 64) ∧
          PassesOn (.firePacket x) s (if a.rearm then refMoved u z 1
            else { u with armed := s.armed.filter fun b => !key b }) a.fclass
            (handed z r a.rl { cmd with slot := a.cmd.slot, tag := a.tag })) ∧
      (op = 5 → c.fences = [] → c.held = [] →
        (c.pendingCmds = [] → exec (.fencePacket x) s = .next (completeCmd
          (modContext u x.val fun c => { c with pendingCmds := [num] }) x cmd num 0)) ∧
        (c.pendingCmds ≠ [] → (∀ k ∈ c.pendingCmds, k ≤ s.nextCmd) → exec (.fencePacket x) s =
          .next (modContext u x.val fun c => { c with fences := [(num, cmd)] }))))

/-- 03 R87 to R89: a command that completes, on a live device, of a context that holds no record and whose ring in this
card's memory has room, writes its 32-byte record to the next place of the ring, advances CPROD, takes the next device
sequence number, is pending no more, and, with NOTIFY, sends the context's message; nothing else changes. -/
def CompletionsReachTheirRing : Prop :=
  ∀ (s : State) (x : ContextId) (cmd : Command) (num status : Nat),
    let c := getContext s x.val
    let size := 2 ^ c.log2size.toNat
    let at_ := c.cbase.toNat * 4096 + 32 * (c.cprod.toNat % size)
    s.pkg.cause = 0 → s.disp.takeover = false → c.held = [] → c.fences = [] → c.disabling = false →
    (c.cprod - c.ccons).toNat ≠ size → placeOf s at_ = .local → Memory.wf s.mem = true →
    ∃ m, completeCmd s x cmd num status =
        { modContext s x.val fun c => { c with cprod := c.cprod + 1, pendingCmds := c.pendingCmds.filter (· != num) } with
          seq := s.seq + 1
          mem := m
          loose := s.loose.filter fun e => e.pa < at_ || at_ + 32 ≤ e.pa
          sent := if cmd.notify then .msix c.func c.vector :: s.sent else s.sent } ∧
      ∀ b, memRead m b = if at_ ≤ b ∧ b < at_ + 32 then
          (natToBytes 4 s.seq.toNat ++ natToBytes 4 cmd.cookie.toNat ++ natToBytes 2 status ++ [cmd.opcode, cmd.slot] ++
            natToBytes 2 x.val ++ natToBytes 2 cmd.tag.toNat ++ List.replicate 16 0).getD (b - at_) 0
        else memRead s.mem b

/-- 03 R74, R75, R79, R86, R88 and R89, and 02 R52: CONTEXT_ENABLE enables a context whose ring lies in memory, with at
least 16 records, and whose function shows fewer than 64, and else sets ASSIGNFAIL; CONTEXT_DISABLE of one with nothing
in progress ends with ENABLE 0, and of one that is not enabled stores its function and ASID; SLOT_RESIDENT_CLEAR of a
resident slot that no armed launch names clears RESIDENT alone, and of another slot stores its owner and window size;
CCONS moves within what the ring holds, and a record that was held is then written; none of these does anything on a
device that has halted (01 R36). A hold that ends hands its record over; a kernel that is done leaves the dispatcher,
frees its barriers and completes with its status, its energy and its number of tasks; a function level reset and a link
loss empty the FIFO and the window of every context that they reach, and disarm its launches. -/
def Obligations.ContextsSlotsAndKernels : Prop :=
  ∀ (s : State) (x : ContextId) (v : Word),
    let c := getContext s x.val
    let func := (v.extractLsb' 2 4)
    let asid := (v.extractLsb' 16 16)
    let ring := placeOf s (c.cbase.toNat * 4096)
    let fits := (ring = .local ∨ ring = .peer ∨ ring = .host) ∧ 4 ≤ c.log2size.toNat ∧
      (func = 0 ∨ (s.contexts.filter fun e => e.2.enable && e.2.func == func).length < 64)
    (s.pkg.cause ≠ 0 → ∀ (slot : Fin 64) (w : BitVec 16),
      ∀ i ∈ [Instr.contextEnable x v, .contextDisable x v, .slotResidentClear slot v, .cconsWrite x w],
        exec i s = .next s) ∧
    (s.pkg.cause = 0 →
      (c.enable = false → fits → exec (.contextEnable x v) s = .next (modContext s x.val fun c => { c with
        func := func, asid := asid, enable := true, assignFail := false, cprod := 0, ccons := 0, held :=
          [], disabling := false })) ∧
      (c.enable = false → ¬fits → exec (.contextEnable x v) s =
        .next (modContext s x.val fun c => { c with func := func, asid := asid, assignFail := true })) ∧
      (c.enable = false → exec (.contextDisable x v) s =
        .next (modContext s x.val fun c => { c with func := func, asid := asid })) ∧
      (c.enable = true → c.disabling = false → c.pendingCmds = [] → c.fences = [] → c.held = [] → c.fifo = [] →
        s.disp.kernels = [] → s.disp.holds = [] → s.disp.handed = [] → s.disp.heldDone = [] → s.armed = [] →
        exec (.contextDisable x v) s = .next (modContext s x.val fun c => { c with
          enable := false, disabling := false, stage := 0, mask := 0, overrun := false, discards := 0 })) ∧
      (∀ slot : Fin 64, ((s.slots.get slot).resident = true → (∀ a ∈ s.armed, a.cmd.slot.toNat % 64 ≠ slot.val) →
          exec (.slotResidentClear slot v) s =
            .next { s with slots := s.slots.set slot.val { s.slots.get slot with resident := false } slot.isLt }) ∧
        ((s.slots.get slot).resident = false → exec (.slotResidentClear slot v) s =
          .next { s with slots := s.slots.set slot.val { s.slots.get slot with
            owner := v.extractLsb' 1 4, wsize := v.extractLsb' 32 20 } slot.isLt })) ∧
      ∀ w : BitVec 16, ((c.cprod - c.ccons).toNat < (w - c.ccons).toNat → exec (.cconsWrite x w) s = .next s) ∧
        ((w - c.ccons).toNat ≤ (c.cprod - c.ccons).toNat → c.fences = [] → c.disabling = false →
          (c.held = [] → exec (.cconsWrite x w) s = .next (firmwareWork (modContext s x.val fun c =>
            { c with ccons := w }))) ∧
          ∀ r, c.held = [r] → (c.cprod - w).toNat ≠ 2 ^ c.log2size.toNat → exec (.cconsWrite x w) s =
            .next (firmwareWork (writeRecord (modContext s x.val fun c => { c with ccons := w, held := [] }) x r)))) ∧
    (∀ k h y cmd num, s.disp.holds[k]? = some h → h.origin = .packet y cmd num → exec (.frequencyClassHoldEnd k) s =
      .next (handOver { s with disp := { s.disp with holds := s.disp.holds.eraseIdx k } } h).2) ∧
    (∀ k y cmd num, findKernel s k.num = some k → kernelDone s k = true → k.origin = .packet y cmd num →
      let u := { refMoved (freeBarriers s k) k.slot (-1) with disp := { s.disp with
        kernels := s.disp.kernels.filter fun o => o.num != k.num
        order := s.disp.order.filter fun e => e != (false, k.num.toNat) } }
      let t := completeKernel u y cmd num (k.status.getD 0) k.joules k.ran
      exec (.kernelCompletion k.num.toNat) s = .next (firmwareWork (if k.fatal then
        { t with disp := { t.disp with thaw := t.disp.thaw ++ [(k.hwq, y, s.seq)] } } else t))) ∧
    (∀ f : FuncId, ∀ i ∈ [Instr.functionLevelReset f, .hostLinkDown], ∃ t, exec i s = .next t ∧
      ((s.contexts.map Prod.fst).Pairwise (· < ·) → (∀ e ∈ s.contexts, e.1 < 1024) →
        ∀ y : ContextId, (getContext s y.val).enable = true →
          i = .hostLinkDown ∨ f.val = 0 ∨ (getContext s y.val).func.toNat = f.val →
          (getContext t y.val).fifo = [] ∧ (getContext t y.val).stage = 0 ∧ (getContext t y.val).mask = 0 ∧
          (∀ a ∈ t.armed, a.context ≠ y)) ∧
      (∀ y : ContextId, (getContext s y.val).enable = false → (getContext t y.val).fifo = (getContext s y.val).fifo ∧
        (getContext t y.val).enable = false) ∧
      ∀ d, (getCore t d).ctx.x = (getCore s d).ctx.x)

/-- 03 R70 to R91: packets and their completions. -/
def Obligations.PacketsAndCompletions : Prop :=
  PacketsHaveTheirEffect ∧ CompletionsReachTheirRing

/-! ### The host's accesses and the bridge (02 R38 to R64) -/

/-- s with the bytes from pa on replaced and the lines that they touch written or read at their home slices. -/
def served (s : State) (pa n : Nat) (write : Bool) (data : List Byte) (t : State) : Prop :=
  t = { s with mem := t.mem, home := (touchLines s pa n write).home } ∧
  ∀ a, memRead t.mem a = if pa ≤ a ∧ a < pa + data.length then data.getD (a - pa) 0 else memRead s.mem a

/-- No append that nothing orders wrote one of n bytes from pa on (08 R240). -/
def Settled (s : State) (pa n : Nat) : Prop := ∀ e ∈ s.loose, e.pa < pa ∨ pa + n ≤ e.pa

/-- The n bytes from pa on. -/
def bytesFrom (s : State) (pa n : Nat) : List Byte := (List.range n).map fun i => memRead s.mem (pa + i)

/-- The value that an AtomicOp of n bytes leaves (02 R39). -/
def atomicNew (op : HostAtomicOp) (n old v w : Nat) : Nat :=
  match op with
  | .fetchAdd => (old + v) % 256 ^ n
  | .swap => v
  | .cas => if old = w then v else old

/-- 02 R39, R42 and R49: within the size of BAR 2 a host write replaces its bytes of card memory, a host read sends
them, and an aligned AtomicOp replaces its location and sends the old value, each with no other effect. (That outside
BAR 2 a write is dropped and a read or AtomicOp fails, as a misaligned AtomicOp does, is the model's own choice, log
entry 95.) 02 R51: a mailbox request to the host that times out ends with result 5. -/
def Obligations.HostAccessesReachCardMemory : Prop :=
  ∀ (s : State) (off : Nat), Memory.wf s.mem = true → s.links.bar2 ≤ 39 →
    let size := 2 ^ s.links.bar2
    let pa := (if s.links.paired ∧ s.links.card then 2 ^ 39 else 0) + off
    (∀ data relaxed, data ≠ [] → off + data.length ≤ size → Settled s pa data.length →
      ∃ t, exec (.hostMemoryWrite off data relaxed) s = .next t ∧ served s pa data.length true data t) ∧
    (∀ data relaxed, size < off + data.length → exec (.hostMemoryWrite off data relaxed) s = .next s) ∧
    (∀ n, off + n ≤ size → Settled s pa n → ∃ t,
      exec (.hostMemoryRead off n) s = .next { t with sent := .readData (bytesFrom s pa n) :: s.sent } ∧
      served s pa n false [] t) ∧
    (∀ n, size < off + n → exec (.hostMemoryRead off n) s = .next { s with sent := .readFailed :: s.sent }) ∧
    (∀ op wide v w, let n := if wide then 8 else 4
      (off % n ≠ 0 ∨ size < off + n → exec (.hostAtomic op off wide v w) s = .next { s with sent := .readFailed :: s.sent }) ∧
      (off % n = 0 → off + n ≤ size → Settled s pa n → let old := bytesToNat (bytesFrom s pa n)
        ∃ t, exec (.hostAtomic op off wide v w) s = .next { t with sent := .atomicOld (BitVec.ofNat 64 old) :: s.sent } ∧
          served s pa n true (natToBytes n (atomicNew op n old (v.toNat % 256 ^ n) (w.toNat % 256 ^ n))) t)) ∧
    (∀ o, s.pkg.umop = some o → exec (.hostCompletionTimeout .mailbox) s =
      .next { s with pkg := { s.pkg with umop := some { o with write := none, result := 5 } } })

/-- A message of the peer for n bytes at pa is served: n bytes of this card's memory, in no page that an agent has
claimed and none of them appended; u is s with no transaction of a walk uncharged. -/
def Serves (s u : State) (pa n : Nat) : Prop :=
  0 < n ∧ s.links.paired = true ∧ placeOf s pa = .local ∧ placeOf s (pa + n - 1) = .local ∧ Settled s pa n ∧
  (∀ o ∈ s.owned, o.pa / 2 ^ o.bits ≠ pa / 2 ^ o.bits) ∧ u = { s with walkFills := 0 }

/-- 02 R54, R56, R59 and R60; 09 R257: a load of the peer is answered with the bytes of this card's memory, a store is
performed and acknowledged, and an atomic applied and its old value sent, each with no other effect, and with SIGNAL each
wakes the waiters of its line; a WAITA of the peer whose value differs is told status 0, one whose value is equal waits
in the line's monitor, and one that is withdrawn waits there no more (09 R259). The answers of the peer
to this card's own requests reach who asked: a line the load that asked for it, a status the WAITA, an acknowledgement
the write of its number, and an old value the atomic that the head of its store queue has sent. (That a message for
anything else is answered with an error is the model's own choice, log entry 96; so is the form of the messages by which
a WAITA reaches the peer, with a mark and a status, log entry 105, and that an old value without such an atomic answers a
journal's, log entry 129.) -/
def BridgeMessagesAreServed : Prop :=
  ∀ (s u : State) (pa n : Nat), Memory.wf s.mem = true →
    (Serves s u pa n → ∃ t,
      exec (.bridgeLoadRequest pa n) s = .next { t with sent := .bridgeReply (bytesFrom s pa n) :: s.sent } ∧
      served u pa n false [] t) ∧
    (∀ m : BridgeAtomic, let k := if m.wide then 8 else 4
      m.pa = pa → m.watch = true → m.withdraw = false → Serves s u pa k → (s.monitors.all fun e => e.line ≠ pa / 64) = true →
      (s.monitors.filter fun e => homeSlice (e.line * 64) == homeSlice (pa / 64 * 64)).length < 64 → ∃ t,
      exec (.bridgeAtomicRequest m) s = .next (
        if bytesToNat (bytesFrom s pa k) = m.compare.toNat % 256 ^ k then
          { t with monitors := s.monitors ++ [⟨pa / 64, [], [m.core]⟩] }
        else { t with sent := .bridgeStatus m.core 0 :: s.sent }) ∧ served u pa k false [] t) ∧
    (∀ m : BridgeAtomic, m.pa = pa → m.watch = true → m.withdraw = true →
      (∀ e ∈ s.monitors, e.waiters ≠ [] ∨ e.peers ≠ []) → ∃ t, exec (.bridgeAtomicRequest m) s = .next t ∧
      t = { s with monitors := t.monitors } ∧ (∀ e, e.line ≠ pa / 64 → (e ∈ t.monitors ↔ e ∈ s.monitors)) ∧
      (∀ e ∈ t.monitors, e.line = pa / 64 → m.core ∉ e.peers ∧ (e.waiters ≠ [] ∨ e.peers ≠ [])) ∧
      ∀ e ∈ s.monitors, e.line = pa / 64 → ∀ d ∈ e.peers, d ≠ m.core → ∃ f ∈ t.monitors, f.line = pa / 64 ∧ d ∈ f.peers) ∧
    (∀ (c : Fin 64) data, Serves s u pa data.length → pa / 64 = (pa + data.length - 1) / 64 →
      ∃ t, exec (.bridgeStore c pa data true) s = .next t ∧ WokenLine s t (pa / 64)) ∧
    (∀ m : BridgeAtomic, m.pa = pa → m.watch = false → m.signal = true → pa % 8 = 0 →
      Serves s u pa (if m.wide then 8 else 4) → ∃ t, exec (.bridgeAtomicRequest m) s = .next t ∧ WokenLine s t (pa / 64)) ∧
    (∀ (c : Fin 64) data, Serves s u pa data.length →
      ∃ t, exec (.bridgeStore c pa data false) s = .next { t with sent := .bridgeAck :: s.sent } ∧ served u pa data.length true data t) ∧
    (∀ m : BridgeAtomic, let k := if m.wide then 8 else 4
      m.pa = pa → m.watch = false → Serves s u pa k → m.signal = false → m.op = 0 → let old := bytesToNat (bytesFrom s pa k)
      ∃ t, exec (.bridgeAtomicRequest m) s = .next { t with sent := .bridgeOld (BitVec.ofNat 64 old) :: s.sent } ∧
        served u pa k true (natToBytes k (if m.cas then
          (if old = m.compare.toNat % 256 ^ k then m.operand.toNat % 256 ^ k else old)
          else (old + m.operand.toNat % 256 ^ k) % 256 ^ k)) t) ∧
    (n = 0 ∨ s.links.paired = false ∨ placeOf s pa ≠ .local ∨ placeOf s (pa + n - 1) ≠ .local →
      exec (.bridgeLoadRequest pa n) s = .next { s with sent := .bridgeError :: s.sent }) ∧
    (∀ c k data e, (∀ j ∈ s.jobs, ∀ e ∈ j.io.ask, e.1 ≠ k) → (∀ r ∈ s.samples, ∀ e ∈ r.io.ask, e.1 ≠ k) →
      s.jwrites = [] → (∀ e ∈ (getCore s c).jio.ask, e.1 ≠ k) →
      (getCore s c).ctx.aq.ask = [] → (getCore s c).ctx.aq.waita = .none →
      ∀ l, (getCore s c).ctx.aq.loads = [l] → l.ask = [e] → e.num = k → e.data = none →
      exec (.bridgeLoadReply c k data) s = .next (modCtx s c fun t => clearWaits { t with aq := { t.aq with
        loads := [{ l with ask := [{ e with data := some (ofBytes 512 data) }] }] } })) ∧
    (∀ c k d status, (∀ j ∈ s.jobs, ∀ e ∈ j.io.ask, e.1 ≠ k) → (∀ r ∈ s.samples, ∀ e ∈ r.io.ask, e.1 ≠ k) →
      s.jwrites = [] → (∀ e ∈ (getCore s c).jio.ask, e.1 ≠ k) →
      (getCore s c).ctx.aq.ask = [] → (getCore s c).ctx.aq.loads = [] → (getCore s c).ctx.aq.waita = .asked k pa d →
      exec (.bridgeLoadReply c k [BitVec.ofNat 8 status]) s = .next (modCtx s c fun t =>
        clearWaits { t with aq := { t.aq with
        waita := .answered d (status % 256) } })) ∧
    (∀ c k r, (getCore s c).ctx.aq.inflight = [r] → r.left = k → placeOf s r.part.pa = .peer →
      (∀ j ∈ s.jobs, ∀ e ∈ j.io.out, e.1 ≠ k) → (∀ r ∈ s.samples, ∀ e ∈ r.io.out, e.1 ≠ k) → s.jwrites = [] →
      exec (.bridgeStoreAck c k) s =
        .next (drainStores (modCtx s c fun t => clearWaits { t with aq := { t.aq with inflight := [] } }) c)) ∧
    (∀ c a r old, (getCore s c).ctx.aq.stores = .atomic a :: r → a.sent = true → exec (.bridgeAtomicReply c old) s =
      .next (finishAtomic (modIsland (dropShared s c (a.part.pa / 64)) (islandOf c) fun i =>
        { i with fills := i.fills + 1 }) c a old.toNat)) ∧
    (∀ c old, (∀ a r, (getCore s c).ctx.aq.stores = .atomic a :: r → a.sent = false) → (getCore s c).jio.atoms = [] →
      (∀ r ∈ s.samples, r.core = c → r.io.atoms = []) → (∀ j ∈ s.jwrites, j.core = c → j.io.atoms = []) →
      exec (.bridgeAtomicReply c old) s = .next s)

/-- The task of core d faults with ACCESS as the bridge goes down: its handler starts for the address pa, with the kind of
the access in DETAIL (02 R61; 10 R278, R284). -/
def FaultsAway (s : State) (d : CoreId) (pa kind : Nat) : Prop :=
  ∃ t h, exec .bridgeDown s = .next t ∧ (getCore t d).ctx.handling = some h ∧ (getCore t d).ctx.csr.inHandler = true ∧
    h.info.cause = .access ∧ h.info.detail = kind ∧ h.info.faddr.toNat = pa

/-- 02 R61: when the bridge goes down, the one task on a core that has a load, an atomic or a WAITA pending at the peer,
or a release at DEVICE, PAIR or SYSTEM scope that waits for a store to the peer, faults with ACCESS at the address there,
which its handler, if it would take a user trap, takes. -/
def BridgeDownFaultsTheTask : Prop :=
  ∀ (s : State) (d : CoreId), s.links.paired = true → s.links.up = true → s.jwrites = [] →
    (∀ e, e ≠ d → (getCore s e).busy = false) → Handled s d → Quiet (modCtx s d fun t => { t with
      aq := { t.aq with loads := [], stores := [], inflight := [], waita := .none } }) d →
    let q := (getCore s d).ctx.aq
    (∀ l p, q.loads = [l] → l.parts = [p] → placeOf s p.pa = .peer → q.stores = [] → q.inflight = [] → q.waita = .none →
      FaultsAway s d p.pa 0) ∧
    (∀ a, q.loads = [] → q.stores = [.atomic a] → placeOf s a.part.pa = .peer → q.inflight = [] → q.waita = .none →
      FaultsAway s d a.part.pa 2) ∧
    (∀ n pa x, q.loads = [] → q.stores = [] → q.inflight = [] → q.waita = .asked n pa x → FaultsAway s d pa 0) ∧
    (∀ r n sc, q.loads = [] → q.stores = [.rel n sc] → 2 ≤ sc → sc ≤ 4 → q.inflight = [r] → q.lost = [] → q.ask = [] →
      q.waita = .none → placeOf s r.part.pa = .peer → FaultsAway s d r.part.pa 1)

/-- 02 R53, R57 and R61 to R64: BRIDGE_TRAINED of a bridge that is not up pairs the cards, the lower serial number being
card 0, and of one that is up again only sets TRAINED and the width; where the card number changes, the card's memory
keeps its bytes at its new addresses, and translations, caches and the page directory are empty (log entry 58, the
model's choice); BRIDGE_RETRAIN clears TRAINED, so that UP reads 0 (log entry 59, an inference); FLIT_REPLAY counts, up
to 65,535; BRIDGE_DOWN clears the link of a paired card, drops latched and forwarded doorbell packets, and ends every
pending collective job with status 8, every other job staying as it was but for its waits; DOORBELL_FORWARD sends the
oldest latched packet of a core on a trained bridge once the core's writes to the peer are acknowledged, and an
acknowledgement takes it off. -/
def BridgeEventsKeepTheirState : Prop :=
  ∀ (s : State) (wide : Bool) (serial : Nat) (c : Fin 64),
    let card : Bool := decide (serial < s.pkg.serial.toNat)
    (s.links.up = true → exec (.bridgeTrained wide serial) s = .next { s with links := { s.links with
      trained := true, paired := true, wide := wide } }) ∧
    (s.links.up = false → card = decide (cardOf s = 1) → exec (.bridgeTrained wide serial) s = .next { s with links := { s.links with
      up := true, trained := true, paired := true, wide := wide, card := card } }) ∧
    (s.links.up = false → card ≠ decide (cardOf s = 1) → Memory.wf s.mem = true → (∀ d, (getCore s d).l1 = []) →
      (∀ e ∈ s.mem, e.1 < 2 ^ 40 → cardBase s ≤ e.1 ∧ e.1 < cardBase s + 2 ^ 39) → ∃ t,
      exec (.bridgeTrained wide serial) s = .next t ∧
      t.links = { s.links with up := true, trained := true, paired := true, wide := wide, card := card } ∧
      (∀ a, a < 2 ^ 39 → memRead t.mem ((if card then 2 ^ 39 else 0) + a) = memRead s.mem (cardBase s + a)) ∧
      (∀ a, 2 ^ 40 ≤ a → memRead t.mem a = memRead s.mem a) ∧ t.owned = [] ∧
      (∀ i, (t.islands.get i).cache = [] ∧ (t.islands.get i).tlb = []) ∧
      ∀ d, (getCore t d).tlb = [] ∧ (getCore t d).itlb = [] ∧ (getCore t d).regs = (getCore s d).regs ∧
        (getCore t d).ctx.x = (getCore s d).ctx.x) ∧
    exec .bridgeRetrain s = .next { s with links := { s.links with trained := false } } ∧
    exec .flitReplay s = .next { s with links := { s.links with replays := BitVec.ofNat 16 (min 65535 (s.links.replays.toNat + 1)) } } ∧
    (¬(s.links.paired = true ∧ s.links.up = true) → exec .bridgeDown s = .next s) ∧
    (s.links.paired = true → s.links.up = true → s.jwrites = [] → (∀ d, (getCore s d).busy = false) → ∃ t, exec .bridgeDown s = .next t ∧
      t.links = { s.links with up := false, trained := false, peerColl := [], chunks := [] } ∧
      (∀ d, (getCore t d).dbOut = [] ∧ (getCore t d).dbSent = []) ∧
      (∀ j ∈ s.jobs, (j.card.extractLsb' 0 8 = 3 ∧ (j.phase = .waiting ∨ j.phase = .running ∨ j.phase = .stalled) →
          ∃ k ∈ t.jobs, k.num = j.num ∧ k.phase = .done ∧ k.status = if j.status = 0 then 8 else j.status) ∧
        (j.card.extractLsb' 0 8 ≠ 3 → { j with io := { j.io with ask := [], out := [] } } ∈ t.jobs)) ∧
      (∀ d, (getCore t d).regs = (getCore s d).regs ∧ (getCore t d).ctx.x = (getCore s d).ctx.x) ∧ MemorySame s t) ∧
    (∀ p r, (getCore s (tile c)).dbOut = p :: r →
      ((s.links.paired = false ∨ s.links.trained = false ∨ awayWrites s (tile c) = true) →
        exec (.doorbellForward c) s = .next s) ∧
      (s.links.paired = true → s.links.trained = true → awayWrites s (tile c) = false → exec (.doorbellForward c) s =
        .next { modCore s (tile c) fun k => { k with dbOut := r, dbSent := k.dbSent ++ [p] } with
          sent := .packet (tile c) p :: s.sent })) ∧
    exec (.forwardedPacketAcknowledged c) s = .next (modCore s (tile c) fun k => { k with dbSent := k.dbSent.tail })

/-- 02 R53 to R68: the bridge. -/
def Obligations.BridgeServesAndSignals : Prop :=
  BridgeMessagesAreServed ∧ BridgeDownFaultsTheTask ∧ BridgeEventsKeepTheirState

/-! ### Jobs, collectives and the sampler (02 R65 to R68; 05 R139; 12 R329; 15 R430 to R434) -/

/-- What ENGINE_JOB_START does to job j, number n, by what its engine's access r comes to: with a result as done says; a
location of the access alone is done, the job waits for lines of the peer, or for a pinned line, or stops at a page fault;
and any other fault ends it with status 2 (15 R430, R434; 07 R211). A cancelled job ends with status 1 in place of a stop
(10 R275). -/
def EngineStep {α : Type} (s : State) (n : Nat) (j : Job) (r : Eng α) (done : α → EngIo → State → State) : Prop :=
  let i := Instr.engineJobStart n
  (∀ x io u, r = .ok x io u → exec i s = .next (done x io u)) ∧
  (∀ io u, r = .again io u → exec i s = .next (setJob u { j with io := io })) ∧
  (∀ lines, r = .need lines → let (io, u) := askLines s j.core j.io lines
    exec i s = .next (setJob u { j with io := io })) ∧
  (r = .wait → exec i s = .next (setJob s j)) ∧
  (r = .fail → exec i s = .next (setJob s { j with phase := .done, status := 2 })) ∧
  ∀ va k, r = .page va k →
    (j.ending = true → exec i s =
      .next (setJob s { j with phase := .done, status := if j.status = 0 then 1 else j.status })) ∧
    (j.ending = false → ∃ t, exec i s = .next t ∧ ∃ o ∈ t.jobs, o.num = n ∧ o.phase = .stalled ∧ o.replay ≠ none)

/-- 15 R430 and R434; 08 R237: a waiting copy or gather job whose orderings are met takes the lowest-numbered free engine
of its kind once the writes before it are performed at the scope of its row, and then goes on as one that runs. One that
runs is done once its last row has moved, or with no bytes to move; it ends with status 1 where it was cancelled, and
waits while it may not begin a chunk. A gather job first reads its index array, once. Then the job moves its next chunk
of at most 4,096 bytes: it reads the source row of the card, or of the index, and writes the destination row, and counts
the bytes, which also leave the barrier's PEND (09 R254); an address out of range ends it with status 2. (That the chunks
and their locations come in ascending order, the spec giving none, is the model's own choice, log entry 130.) -/
def JobsMoveTheirRows : Prop :=
  ∀ (s : State) (n : Nat),
    (findJob s n = none → exec (.engineJobStart n) s = .next s) ∧
    ∀ j, findJob s n = some j →
      let c := j.card
      let type := (c.extractLsb' 0 8).toNat
      let len := (c.extractLsb' 224 32).toNat
      let rows := (c.extractLsb' 256 32).toNat
      let done (status : Nat) : Job := { j with phase := .done, status := if j.status = 0 then status else j.status }
      (j.phase = .done → exec (.engineJobStart n) s = .next s) ∧
      (j.phase = .waiting → jobMayStart s j = false ∨ (freeEngine s type = none ∧ type ≠ 4) →
        exec (.engineJobStart n) s = .next s) ∧
      (j.phase = .waiting → jobMayStart s j = true → type = 1 ∨ type = 2 → ∀ e, freeEngine s type = some e →
        let o := { j with engine := e, phase := .running }
        (jobFenceDone s o = false → exec (.engineJobStart n) s = .next s) ∧
        (jobFenceDone s o = true → exec (.engineJobStart n) s = exec (.engineJobStart n) (setJob s o))) ∧
      (j.phase = .running → type = 1 ∨ type = 2 →
        (len = 0 ∨ rows ≤ j.row → exec (.engineJobStart n) s = .next (setJob s (done 0))) ∧
        let idle := j.io.seen = [] ∧ j.io.put = 0
        (0 < len → j.row < rows →
          (idle → j.ending = true → exec (.engineJobStart n) s = .next (setJob s (done 1))) ∧
          (idle → j.ending = false → holdsChunk s j = true ∨ jobFenceDone s j = false →
            exec (.engineJobStart n) s = .next (setJob s j)) ∧
          (¬idle ∨ (j.ending = false ∧ holdsChunk s j = false ∧ jobFenceDone s j = true) →
            let a : Acc0 := ⟨j.engine, j.asid, j.core.val, (getContext s j.context.val).func⟩
            let index := (c.extractLsb' 448 64).toNat
            (type = 2 → j.buf.length < 4 * rows → index + 4 * rows ≤ 2 ^ 64 →
              EngineStep s n j (engRead s j.io a (c.extractLsb' 200 8 ++ c.extractLsb' 448 64) (4 * rows))
                fun b io u => setJob u { j with buf := b, io := io.fresh }) ∧
            (type = 1 ∨ 4 * rows ≤ j.buf.length →
              let row : Int := if type = 1 then j.row else
                (BitVec.ofNat 32 (bytesToNat ((j.buf.drop (4 * j.row)).take 4))).toInt
              let src : Int := (c.extractLsb' 64 64).toNat + row * (c.extractLsb' 320 64).toInt
              let dst : Int := (c.extractLsb' 128 64).toNat + j.row * (c.extractLsb' 384 64).toInt
              let size := min 4096 (len - j.col)
              (src < 0 ∨ dst < 0 ∨ 2 ^ 64 ≤ src + j.col ∨ 2 ^ 64 ≤ dst + j.col →
                exec (.engineJobStart n) s = .next (setJob s { j with phase := .done, status := 2 })) ∧
              ∀ x y : BitVec 64, src + j.col = x.toNat → dst + j.col = y.toNat → 0 ≤ src → 0 ≤ dst →
                EngineStep s n j ((engRead s j.io a (c.extractLsb' 24 8 ++ x) size).andThen fun data io u =>
                    engWrite u io a j.core (c.getLsbD 8) (c.extractLsb' 192 8 ++ y) data)
                  fun _ io u =>
                    let landed := landBytes u j.bar (size - (outBytes io.out - outBytes j.io.out))
                    let full := len ≤ j.col + size
                    let row := if full then j.row + 1 else j.row
                    setJob landed.2 { j with
                      io := io.fresh, moved := j.moved + size, row := row, col := if full then 0 else j.col + size
                      phase := if rows ≤ row then .done else .running
                      status := if landed.1 then 3 else j.status }))))

/-- 08 R224 and R237: an engine's transfer of a location of this card's memory: the read takes its bytes, once, and the
transfer then goes on with them; the write of the location replaces its bytes alone. -/
def EnginesMoveLocations : Prop :=
  ∀ (s u : State) (io io1 : EngIo) (a : Acc0) (va : VAddr) (p : Part), placeOf u p.pa = .local → 0 < p.len →
    p.pa / 8 = (p.pa + p.len - 1) / 8 → Settled u p.pa p.len → 64 ≤ a.who →
    (engResolve s io a va p.len .read = .ok [p] io1 u →
      (io1.seen = [] → ∃ io2 v, engRead s io a va p.len = .again io2 v ∧ io2.seen = [(p.pa, bytesFrom u p.pa p.len)] ∧
        v.mem = u.mem) ∧
      ∀ b, io1.seen = [(p.pa, b)] → engRead s io a va p.len = .ok b io1 u) ∧
    ∀ core data, data.length = p.len → p.off = 0 → io1.put = 0 → Memory.wf u.mem = true →
      engResolve s io a va data.length .write = .ok [p] io1 u →
      ∃ io2 v, engWrite s io a core false va data = .ok () io2 v ∧ io2.put = 0 ∧
        ∀ x, memRead v.mem x = if p.pa ≤ x ∧ x < p.pa + p.len then data.getD (x - p.pa) 0 else memRead u.mem x

/-- The 16 bytes of a job's completion record (15 R434). -/
def recordOfJob (j : Job) (seq : BitVec 32) : BitVec 128 :=
  let agent := if j.card.extractLsb' 0 8 = 4 ∨ j.engine = 0 then 127 else j.engine
  ofBytes 128 ([j.card.extractLsb' 0 8, BitVec.ofNat 8 j.status, BitVec.ofNat 8 agent, 0] ++
    natToBytes 4 (j.card.extractLsb' 32 32).toNat ++ natToBytes 4 seq.toNat ++ natToBytes 4 (min j.moved (2 ^ 32 - 1)))

/-- 06 R171 and 15 R434: a job that is done, with every write acknowledged, posts its record to the event queue of its
task's core, once that has room and no yield sequence that found the job holds it back (10 R296), and leaves the list of jobs and the
dispatch order. -/
def JobCompletionPostsItsRecord : Prop :=
  ∀ (s : State) (n : Nat) (j : Job) (c : CoreId), findJob s n = some j → j.num = n → coreHolding s j.task = some c →
    let held := j.kept = true ∧ inSequence (getCore s c).ctx = true
    (j.phase ≠ .done ∨ j.io.out ≠ [] ∨ 64 ≤ (getCore s c).ctx.q.events.length ∨ held → exec (.jobCompletion n) s = .next s) ∧
    (j.phase = .done → j.io.out = [] → ¬held → (getCore s c).ctx.q.events.length < 64 → j.status < 256 → j.engine < 256 →
      ∃ t, exec (.jobCompletion n) s = .next t ∧
        (getCore t c).ctx.q.events = (getCore s c).ctx.q.events ++ [⟨recordOfJob j s.seq, false⟩] ∧
        t.jobs = (s.jobs.filter fun o => o.num != n) ∧
        t.disp.order = (s.disp.order.filter fun e => e != (true, n)) ∧ t.seq = s.seq + 1 ∧
        (getCore t c).ctx.x = (getCore s c).ctx.x ∧ (getCore t c).ctx.a = (getCore s c).ctx.a ∧
        (∀ d, d ≠ c → getCore t d = getCore s d) ∧ MemorySame s t)

/-- 12 R329, R330 and R339; 06 R171: a request that has its engine decides its next draw by the chain, under the next
device sequence number, has the draw journalled, and pushes one reply; the last draw ends the request and settles what
it moved. A draw that is decided is not decided again, and while an entry of it is still to write the request waits with
it. While the reply queue holds 32 replies, or a yield sequence holds the request back, the request only gets its
engine; while a page fault waits for its answer, and for a number that names no request, nothing changes; a fault
answered with FAIL cancels the draws that have not replied. (That a draw is decided only once its reply has room, and
that an engine holds its reply over a drain, are the model's own, log entries 54 and 85.) -/
def Obligations.SamplerDrawsPushReplies : Prop :=
  ∀ (s : State) (n : Nat),
    ((∀ r ∈ s.samples, r.num ≠ n) → exec (.samplerDraw n) s = .next s) ∧
    ∀ r c e, s.samples.find? (fun r => r.num == n) = some r → coreHolding s r.task = some c → withEngine s r = some e →
      let full := 32 ≤ (getCore s c).ctx.q.reply.length ∨ (r.kept = true ∧ inSequence (getCore s c).ctx = true)
      (full → exec (.samplerDraw n) s = .next (setSample s { r with engine := some e })) ∧
      (¬full → ∀ f, r.replay = some f →
        (f.answer = none → f.record.isSome = true → exec (.samplerDraw n) s = .next s) ∧
        (f.answer = some true → exec (.samplerDraw n) s = .next (setSample s { r with replay := none })) ∧
        (f.answer = some false → r.decided = none →
          exec (.samplerDraw n) s = .next (setSample s { r with replay := none, bad := true, cancelled := true }))) ∧
      (¬full → r.replay = none →
        let d := sampleDesc r.desc
        let draws := d.draws (r.specN.getD 0 + 1)
        let at_ := draws.getD r.drawn (0, 0)
        let a : Acc0 := ⟨86 + e.val, r.asid, r.core.val, funcOf s c⟩
        let goesOn (x : DrawRecord) (io : EngIo) (u : State) : Prop := ∀ y io' v h,
          recordDraw u io a r.core d (!r.cancelled) r.specN at_.1 at_.2 x = (y, io', v, h) →
          (h = .again → exec (.samplerDraw n) s =
            .next (setSample v { r with engine := some e, decided := some y, io := io' })) ∧
          (h = .done →
            let w := modCtx v c fun t => clearWaits { t with q := { t.q with
              reply := t.q.reply ++ [⟨BitVec.ofNat 32 y.reply, r.specN.isSome⟩] } }
            (draws.length ≤ r.drawn + 1 → exec (.samplerDraw n) s =
              .next (settleIo { w with samples := w.samples.filter fun o => o.num != r.num } r.task io')) ∧
            (r.drawn + 1 < draws.length → exec (.samplerDraw n) s = .next (setSample w { r with
              engine := some e, drawn := r.drawn + 1, bad := r.bad || y.broke, io := io'.fresh, decided := none })))
        (∀ x, r.decided = some x → goesOn x r.io s) ∧
        (r.decided = none → ∀ v ties broke io u,
          decideDraw s r.io a d r.bad r.specN at_.1 at_.2 = .ok (v, ties, broke) io u →
          goesOn ⟨v, ties, broke, u.seq, none⟩ io.fresh { u with seq := u.seq + 1 })) ∧
      (∀ u io a core d strict spec j sib x, d.journal = 0 → x.put = none → io.out = [] → io.atoms = [] → ∃ y,
        recordDraw u io a core d strict spec j sib x = (y, io, u, .done) ∧ y.reply = x.reply ∧ y.broke = x.broke)

/-- Reduce of 02 R67: card 0's operand first. -/
def reduced (op fmt x0 x1 : Nat) : Nat :=
  if fmt = 9 then
    let a := BitVec.ofNat 32 x0
    let b := BitVec.ofNat 32 x1
    (if op = 0 then a + b else if op = 1 then (if b.toInt ≤ a.toInt then a else b)
      else if a.toInt ≤ b.toInt then a else b).toNat
  else
    let f := floatFmt fmt
    let a := decodeFloat f x0
    let b := decodeFloat f x1
    if isNaN a then x0 ||| 2 ^ (f.fbits - 1) else if isNaN b then x1 ||| 2 ^ (f.fbits - 1)
    else if op = 0 then
      match a, b with
      | .inf true, .inf false | .inf false, .inf true => if fmt = 0 then 0x7FC0 else if fmt = 1 then 0x7E00 else 0x7FC00000
      | _, _ => (roundFloat f 0 false (fAdd false a b)).1
    else if isZero a && isZero b then
      (if op = 1 then (if signOf a = false ∨ signOf b = false then 0 else 2 ^ (f.ebits + f.fbits))
        else if signOf a = true ∨ signOf b = true then 2 ^ (f.ebits + f.fbits) else 0)
    else if op = 1 then (if 0 ≤ fCompare a b then x0 else x1) else if fCompare a b ≤ 0 then x0 else x1

/-- Bytes of an element of a collective format: FP32 8 and INT32 9, BF16 0 and FP16 1 (02 R65; 11 R306). -/
def elementBytes (fmt : Nat) : Nat := if fmt ≤ 1 then 2 else 4

/-- Element e of bytes in a collective format. -/
def elementOf (fmt e : Nat) (l : List Byte) : Nat := bytesToNat ((l.drop (elementBytes fmt * e)).take (elementBytes fmt))

/-- The tag, operation, format, count, source and destination of a collective job's card (15 R429). -/
def jobTag (j : Job) : BitVec 16 := j.card.extractLsb' 256 16
def jobOp (j : Job) : Nat := (j.card.extractLsb' 200 8).toNat
def jobFmt (j : Job) : Nat := (j.card.extractLsb' 208 8).toNat
def jobCount (j : Job) : Nat := (j.card.extractLsb' 224 32).toNat
def jobSource (j : Job) : VAddr := j.card.extractLsb' 24 8 ++ j.card.extractLsb' 64 64
def jobDest (j : Job) : VAddr := j.card.extractLsb' 192 8 ++ j.card.extractLsb' 128 64

/-- s without what the peer has told and sent of a tag. -/
def untold (s : State) (tag : BitVec 16) : State := { s with links := { s.links with
  peerColl := s.links.peerColl.filter fun p => p.ctag != tag
  chunks := s.links.chunks.filter fun e => e.1 != tag } }

/-- The job j as it ends with a status, unless it has one. -/
def endedJob (j : Job) (status : Nat) : Job :=
  { j with phase := .done, status := if j.status = 0 then status else j.status }

/-- 02 R65, R66 and R68: the peer's match of a new tag that no engine here holds is remembered once; a chunk of a tag that
no engine here holds is dropped; a cancellation forgets what the peer told of the tag, and ends the job that an engine
holds with status 7; nothing else changes. A match for a job that an engine holds ends it with status 4 where operation,
format or count differ, and with status 2 where a buffer lies outside this card's memory; else the job begins, and one of
no elements is over. (That a job that ends so sends the peer no message is the model's own choice, log entry 120.) -/
def CollectiveMessagesAreKept : Prop :=
  ∀ (s : State) (tag : BitVec 16) (op fmt count chunk : Nat) (data : List Byte),
    let up := s.links.paired && s.links.up
    let known := s.links.peerColl.any fun p => p.ctag == tag
    let told : State := { s with links := { s.links with peerColl := s.links.peerColl ++ [⟨tag, op, fmt, count⟩] } }
    (heldColl s tag = none →
      exec (.collectiveMatch tag op fmt count) s = .next (if up && !known then told else s) ∧
      exec (.collectiveChunk tag chunk data) s = .next s ∧
      exec (.collectivePeerCancelled tag) s = .next (untold s tag)) ∧
    (known = true → exec (.collectiveMatch tag op fmt count) s = .next s) ∧
    (∀ j, heldColl s tag = some j → up = true →
      exec (.collectivePeerCancelled tag) s = .next (setJob (untold s tag) (endedJob { j with replay := none } 7)) ∧
      (j.phase = .stalled → exec (.collectiveChunk tag chunk data) s =
        .next { s with links := { s.links with chunks := s.links.chunks ++ [(tag, chunk, data)] } }) ∧
      (j.phase = .running → j.matched = false → known = false →
        let a : Acc0 := ⟨j.engine, j.asid, j.core.val, (getContext s j.context.val).func⟩
        let size := jobCount j * elementBytes (jobFmt j)
        let i := Instr.collectiveMatch tag op fmt count
        (op ≠ jobOp j ∨ fmt ≠ jobFmt j ∨ count ≠ jobCount j → exec i s = .next (setJob (untold told tag) (endedJob j 4))) ∧
        (op = jobOp j → fmt = jobFmt j → count = jobCount j → ∀ ps io u,
          engResolve (setJob told j) j.io a (jobSource j) size .read = .ok ps io u →
          ((∃ p ∈ ps, placeOf u p.pa ≠ .local) →
            exec i s = .next (setJob (untold (setJob told j) tag) (endedJob j 2))) ∧
          ((∀ p ∈ ps, placeOf u p.pa = .local) → ∀ qs io' v,
            engResolve u io a (jobDest j) size .write = .ok qs io' v →
            ((∃ p ∈ qs, placeOf v p.pa ≠ .local) →
              exec i s = .next (setJob (untold (setJob told j) tag) (endedJob j 2))) ∧
            ((∀ p ∈ qs, placeOf v p.pa = .local) → exec i s = .next (setJob { v with links := { v.links with
                peerColl := v.links.peerColl.filter fun p => p.ctag != tag } }
              (let o := { j with io := io', matched := true }
               if size = 0 then endedJob o 0 else o)))))))

/-- 02 R65, R67 and R68; 09 R254: a collective job that an engine holds, once it is matched, reads its source in chunks of
4 KiB, which it sends to the peer in messages of 256 bytes, and with the whole source read it reduces each message of the
peer element by element with its own bytes of the same place, card 0's operand first, and writes the result to its
destination; with the last it is over. -/
def CollectivesReduceTheirElements : Prop :=
  (∀ (op fmt x0 x1 : Nat), op < 3 → fmt ∈ [0, 1, 8, 9] → x0 < 256 ^ elementBytes fmt → x1 < 256 ^ elementBytes fmt →
    collReduce op fmt x0 x1 = reduced op fmt x0 x1) ∧
  ∀ (s : State) (tag : BitVec 16) (j : Job), heldColl s tag = some j → j.phase = .running → j.matched = true →
    let a : Acc0 := ⟨j.engine, j.asid, j.core.val, (getContext s j.context.val).func⟩
    let size := jobCount j * elementBytes (jobFmt j)
    let read := j.buf.length
    (read < size → findJob s j.num = some j → ∀ x : BitVec 64, (j.card.extractLsb' 64 64).toNat + read = x.toNat →
      let r := engRead s j.io a (j.card.extractLsb' 24 8 ++ x) (min 4096 (size - read))
      (∀ io u, r = .again io u → exec (.engineJobStart j.num) s = .next (setJob u { j with io := io })) ∧
      ∀ data io u, r = .ok data io u → exec (.engineJobStart j.num) s = .next (setJob
        { u with sent := ((List.range ((data.length + 255) / 256)).map fun i =>
          Sent.chunk tag (read / 256 + i) ((data.drop (256 * i)).take 256)).reverse ++ u.sent }
        { j with io := io.fresh, buf := j.buf ++ data })) ∧
    (size ≤ read → (s.links.paired && s.links.up) = true → (∀ e ∈ s.links.chunks, e.1 ≠ tag) → ∀ i data,
      let own := (j.buf.drop (256 * i)).take 256
      let fmt := jobFmt j
      let out := (List.range (own.length / elementBytes fmt)).flatMap fun e =>
        let mine := elementOf fmt e own
        let its := elementOf fmt e data
        natToBytes (elementBytes fmt)
          (if cardOf s = 0 then collReduce (jobOp j) fmt mine its else collReduce (jobOp j) fmt its mine)
      let u : State := { s with links := { s.links with chunks := s.links.chunks ++ [(tag, i, data)] } }
      ∀ x : BitVec 64, (j.card.extractLsb' 128 64).toNat + 256 * i = x.toNat →
        let r := engWrite u j.io a j.core (j.card.getLsbD 8) (j.card.extractLsb' 192 8 ++ x) out
        (∀ io v, r = .again io v → exec (.collectiveChunk tag i data) s = .next (setJob v { j with io := io })) ∧
        ∀ io v, r = .ok () io v →
          let landed := landBytes v j.bar out.length
          let w : State := { landed.2 with links := { landed.2.links with
            chunks := landed.2.links.chunks.filter fun e => !(e.1 == tag && e.2.1 == i) } }
          let o : Job := { j with
            io := io.fresh, moved := j.moved + out.length, status := if landed.1 then 3 else j.status }
          exec (.collectiveChunk tag i data) s =
            .next (if size ≤ o.moved then setJob (untold w tag) (endedJob o 0) else setJob w o))

/-- 15 R427 to R435; 02 R65 to R68: jobs, their completion, and collectives. -/
def Obligations.JobsMoveAndComplete : Prop :=
  JobsMoveTheirRows ∧ EnginesMoveLocations ∧ JobCompletionPostsItsRecord ∧ CollectiveMessagesAreKept ∧
    CollectivesReduceTheirElements
/-! ### The governor, placement and the end of tasks (01 R20 to R24; 04 R97 to R119; 05 R145, R149, R156; 06 R163) -/

/-- The sum of f over the islands. -/
def islandSum (f : IslandId → Nat) : Nat := ((List.finRange 16).map f).sum

/-- No register write waits for the next boundary (04 R104, R105, R107). -/
def NoWaitingWrites (s : State) : Prop :=
  s.gov.newCtl = none ∧ s.gov.newEcost = none ∧ ∀ i, (getIsland s i).newCfg = none

/-- The board power limit of 01 R20: the least of its four terms. -/
def boardLimit (s : State) : Nat :=
  min (min s.pkg.contract.sustained s.gov.plimit) (min (s.pkg.connector + 75) (s.pkg.bmcLimit.getD s.pkg.contract.sustained))

/-- Of the islands from island k on and around, those before island i for which shares holds (04 R101). -/
def sharersBefore (shares : IslandId → Bool) (k : Nat) (i : IslandId) : Nat :=
  ((List.range ((i.val + 16 - k % 16) % 16)).filter fun j => shares (Fin.ofNat 16 (k + j))).length

/-- 04 R98 and R101; 01 R20: GOVERNOR_BOUNDARY begins the next interval, whose number wraps. Where the contract has no
envelope above its sustained watts, the card budget is floor(P × GINT / 200) for the board limit P. The islands share A
= CB − HUBRES − MEMRES: fixed islands that fit get GFIX and the others a share by weight; fixed islands that do not fit
share A by GFIX; units left after the floors go one each to the sharing islands from island k on and around; and the
grants add up to A, unless the islands that would share have no weight, which then get nothing. -/
def Obligations.GovernorGrantsTheBudget : Prop :=
  ∀ (s : State) (hot warm : BitVec 16), s.pkg.cause = 0 → NoWaitingWrites s →
    ∃ t, exec (.governorBoundary hot warm) s = .next t ∧
      t.gov.begun = true ∧ t.gov.epoch = (if s.gov.begun then s.gov.epoch + 1 else s.gov.epoch) ∧
      (s.pkg.contract.envelope ≤ s.pkg.contract.sustained → t.gov.envelope = false ∧
        t.gov.cb = boardLimit s * s.gov.gint / 200) ∧
      let a := t.gov.cb - s.gov.hubres.toNat - s.gov.memres.toNat
      let fix (i : IslandId) : Nat := (getIsland s i).gfix.toNat
      let weight (i : IslandId) : Nat := (getIsland s i).weight.toNat
      let g (i : IslandId) : Nat := (getIsland t i).grant
      let sf := islandSum fix
      let sw := islandSum fun i => if fix i = 0 then weight i else 0
      let k := t.gov.epoch.toNat
      let more (base : IslandId → Nat) (shares : IslandId → Bool) (i : IslandId) : Nat :=
        base i + if shares i = true ∧ sharersBefore shares k i < a - islandSum base then 1 else 0
      (sf ≤ a → sw = 0 → ∀ i, g i = fix i) ∧
      (sf ≤ a → sw ≠ 0 → islandSum g = a ∧ ∀ i, g i =
        more (fun i => if fix i = 0 then (a - sf) * weight i / sw else fix i) (fun i => fix i = 0 ∧ weight i ≠ 0) i) ∧
      (a < sf → islandSum g = a ∧ ∀ i, g i = more (fun i => a * fix i / sf) (fun i => fix i ≠ 0) i)

/-- What an escalated task reserves: the class cost with which a saved one resumes, as the costs now stand (04 R105,
R119). -/
def escalatedNeed (s : State) (r : TaskRef) (n : Nat) : Nat :=
  match s.disp.saved.find? (fun v => v.ref == r), kernelOf s r with
  | some v, some k => classCost s (k.record.variants.get v.ctx.launched)
  | _, _ => n

/-- 04 R102, R109 and R110: what GOVERNOR_BOUNDARY does to an island with no escalated task, or whose escalated task is
saved. The units that its meter has reached are taken first (04 R116), the decided point stands, and the reservation
slot's allowance is recalled (09 R269); the grant first pays debt and then adds to the exact total, from which the
escalated task's reservation is filled; twice the grant caps the total; need starts again. With N the need of the interval that
ended and a shortfall when N exceeds the new total or a sensor is hot: below OPMIN the point steps up; a pending
step-down is performed when the shortfall holds still, or always toward OPMAX, and is otherwise cleared; above OPMAX, or
with a shortfall above OPMIN, a step-down is marked and counted in WARNS; and with neither, an island with at least
twice its need, below OPMAX and cool, steps up. (That the units filled count as need of the interval that begins, and
that a meter's units are taken before the allowance is looked at, are the model's own, log entries 28 and 132.) -/
def BoundaryStepsIslands : Prop :=
  ∀ (s : State) (hot warm : BitVec 16) (i : IslandId), s.pkg.cause = 0 → NoWaitingWrites s →
    ∃ t, exec (.governorBoundary hot warm) s = .next t ∧
      let b := (getIsland s i).metered
      let e := getIsland t i
      let op := b.opNext.getD b.op
      let applied := e.grant - b.debt
      let short := (e.total : Int) < b.need ∨ hot.getLsbD i.val = true
      let down := b.downPend = true ∧ b.opmin < op ∧ (b.downForced = true ∨ short)
      let low := if down then op - 1 else op
      let mark := b.opmax < low ∨ (b.opmin < low ∧ short)
      let up := b.downPend = false ∧ 2 * b.need ≤ (e.total : Int) ∧ op < b.opmax ∧ warm.getLsbD i.val = false ∧
        hot.getLsbD i.val = false
      (b.esc = none ∨ (∃ r n res, b.esc = some (r, n, res) ∧ ∃ v ∈ s.disp.saved, v.ref = r) →
        let moved := match b.esc with
          | some (r, n, res) => min (b.total + applied) (escalatedNeed s r n - res)
          | none => 0
        e.total = min (b.total + applied - moved) (2 * e.grant) ∧ e.slot = 0 ∧ e.totalAt = e.total ∧ e.debt = b.debt - e.grant ∧
        e.need = moved ∧ (∀ r n res, b.esc = some (r, n, res) →
          e.esc = some (r, escalatedNeed s r n, res + moved)) ∧ e.op = op ∧
        (op < b.opmin → e.opNext = some (op + 1) ∧ e.downPend = false) ∧
        (b.opmin ≤ op →
          (e.downPend = true ↔ mark) ∧
          (mark → (e.downForced = true ↔ b.opmax < low) ∧ e.warns.toNat = min 65535 (b.warns.toNat + 1)) ∧
          (¬mark → e.warns = b.warns) ∧
          e.opNext = if down then some (op - 1) else if ¬mark ∧ up then some (op + 1) else none))

/-- 04 R97, R115 and R116; 01 R20, R23 and R24: the events of the energy account. OPERATING_POINT_SWITCH makes the
decided point stand. METER_UNIT takes 200,000,000 pJ off a meter that has reached them and one unit off the total, or
adds it to DEBT when the total is 0; the reservation slot's allowance, refilled where it is empty, loses it (09 R263,
R269). SETTLE charges a task whose jobs and requests are done what it owes beyond its reservation, which recalls that
allowance, or gives the rest of the reservation back, and a task that has ended adds its energy to its kernel; the units
that the meter has reached are taken before (log entry 132, the model's own). DROOP
adds the stretched eighths to STRETCH of each task of the island. The BMC's limit is kept from 180 to 420 W (that it is
held within these is the model's reading). -/
def EnergyEventsSettle : Prop :=
  ∀ (s : State) (i : IslandId), let il := getIsland s i
    let im := il.metered
    exec (.operatingPointSwitch i) s =
      .next (modIsland s i fun il => { il with op := il.opNext.getD il.op, opNext := none }) ∧
    (200000000 ≤ il.mmeter → exec (.meterUnit i) s = .next (modIsland s i fun il =>
      { il with
        mmeter := il.mmeter - 200000000
        total := il.total - 1
        slot := (if il.slot = 0 then min il.total (min (2 ^ 32) (max 1 ((il.total + 1) / 2))) else il.slot) - 1
        debt := if il.total = 0 then min (2 ^ 32 - 1) (il.debt + 1) else il.debt
        need := il.need + 1 })) ∧
    (il.mmeter < 200000000 → exec (.meterUnit i) s = .next s) ∧
    (∀ (k : Nat) (e : Settling), s.settling[k]? = some e → e.island = i →
      s.jobs.filter (fun j => j.task == e.ref) = [] → s.samples.filter (fun r => r.task == e.ref) = [] →
      s.jwrites.filter (fun j => j.task == e.ref) = [] → ∃ t,
      exec (.settle k) s = .next t ∧
      let joules := coreJoules e.acct % 2 ^ 64
      let due := (joules + 199999999) / 200000000 - e.acct.settled
      let short := due - e.acct.reserved
      let back := e.acct.reserved - due
      t.settling = s.settling.eraseIdx k ∧
      (getIsland t i).total = im.total + back - min short im.total ∧
      (getIsland t i).slot = (if due ≤ e.acct.reserved then im.slot else 0) ∧
      (getIsland t i).debt = (if due ≤ e.acct.reserved then im.debt
        else min (2 ^ 32 - 1) (im.debt + (short - min short im.total))) ∧
      (getIsland t i).need = im.need + short - back ∧
      (∀ j, j ≠ i → getIsland t j = getIsland s j) ∧
      (e.last = true → ∀ o, findKernel s (BitVec.ofNat 32 e.ref.kernel) = some o → ∃ o',
        findKernel t (BitVec.ofNat 32 e.ref.kernel) = some o' ∧
        o'.joules = o.joules + BitVec.ofNat 64 joules + e.acct.jmem)) ∧
    (∀ eighths : List (Fin 4), ∃ t, exec (.droop i eighths) s = .next t ∧ { t with cores := s.cores } = s ∧
      ∀ c : CoreId, getCore t c = if (getCore s c).busy = true ∧ c.val < 64 ∧ islandOf c = i then
        { getCore s c with ctx := { (getCore s c).ctx with csr := { (getCore s c).ctx.csr with
          stretch := (getCore s c).ctx.csr.stretch + BitVec.ofNat 64 (eighths.map fun e => e.val + 1).sum } } }
        else getCore s c) ∧
    ∀ watts, exec (.bmcPowerLimit watts) s =
      .next { s with pkg := { s.pkg with bmcLimit := some (max 180 (min 420 watts)) } }

/-- 01 R20 to R24 and 04 R97, R102, R109, R110, R115 and R116: the boundary step of the islands, and the events of the
energy account. -/
def Obligations.IslandsAndAccountsAreKept : Prop := BoundaryStepsIslands ∧ EnergyEventsSettle

/-- The queue in which the running sum of tickets first exceeds r (05 R149). -/
def TakesAt (s : State) (l : List Nat) (r q : Nat) : Prop :=
  ∃ before later, l = before ++ q :: later ∧
    (before.map fun p => (vget s.disp.hwqs p).tickets.toNat).sum ≤ r ∧
    r < ((before ++ [q]).map fun p => (vget s.disp.hwqs p).tickets.toNat).sum

/-- u is s with the head task of queue q placed on core c, a free core, as a task that starts: its cost is taken from
the island's exact total, from which the units of its meter are taken before, and its registers have their values at
launch with the S-stream alone at its entry word (04 R111, R116; 06 R161, R182; 05 R149). The variant is the record's
launch variant, or with SUBST another of its valid ones (04 R117). The island has neither an escalated task nor a
step-down pending. -/
def PlacedAlone (s u : State) (q : Nat) (c : CoreId) : Prop :=
  ∀ k n, headTask s q = some (k, n) → taskFoots? k n ≠ none → gangOf k n = [n] →
    (getIsland s (islandOf c)).esc = none → (getIsland s (islandOf c)).downPend = false →
    ∃ v cost, v = variantNow s k n ∧ v ∈ variantOrder k.record ∧ cost = classCost s (k.record.variants.get v) ∧
      (getCore u c).busy = true ∧ (getIsland u (islandOf c)).total + cost = (getIsland s (islandOf c)).metered.total ∧
      let t := (getCore u c).ctx
      t.task = ⟨k.num.toNat, n⟩ ∧ t.asid = k.record.asid ∧ t.context = k.context ∧ t.system = false ∧
      t.csr.taskId = BitVec.ofNat 32 n ∧ t.csr.varidx = v ∧ t.csr.tvec = 0 ∧ t.rl = k.rl ∧ t.args = k.record.args ∧
      t.acct.reserved = cost ∧ t.acct.settled = 0 ∧ t.acct.work = 0 ∧
      t.acct.cal = (getIsland s (islandOf c)).cal ∧
      t.x = Vector.replicate 64 0 ∧ t.a = Vector.replicate 32 0 ∧ t.pr = 1 ∧ t.q = Queues.empty ∧
      t.tokens = Vector.replicate 16 0 ∧ t.slm = [] ∧
      (getStream t .s).pc = t.entry ∧
      t.entry = BitVec.ofNat 64 ((s.slots.get k.slot).textBase.toNat * 2 ^ 21 + (k.record.variants.get v).entry.toNat) ∧
      ∀ st, (getStream t st).enabled = decide (st = .s) ∧ (getStream t st).cidx = 0

/-- 05 R149: DRAW for core c. While a free core of a lower number has an eligible queue, which is served first, and with
no eligible queue, nothing happens; with no eligible queue that holds tickets the lowest is taken and the generator does
not step; with DRAW 1 the first that holds tickets is; and otherwise the generator steps and the queue is taken in which
the running sum of tickets first exceeds X modulo their sum. The head task of the taken queue is placed on the core.
(Which cores a gang takes is the model's own choice, log entry 12.) -/
def DrawsTakeTheirQueue : Prop :=
  ∀ (s : State) (c : Fin 64),
    let all := eligible s (tile c)
    let e := all.filter fun q => (vget s.disp.hwqs q).tickets ≠ 0
    let turn : Prop := ∀ d : Fin 64, d < c → coreOpen s (tile d) = true → eligible s (tile d) = []
    let taken (q : Nat) (x : BitVec 32) (t : State) : Prop := ∃ u,
      u = { s with disp := { s.disp with xstate := x } } ∧
      t = (placeHead u q (tile c)).getD u ∧ PlacedAlone s t q (tile c)
    (all = [] → exec (.draw c) s = .next s) ∧
    ((∃ d : Fin 64, d < c ∧ coreOpen s (tile d) = true ∧ eligible s (tile d) ≠ []) → exec (.draw c) s = .next s) ∧
    (∀ q r, turn → all = q :: r → e = [] → ∃ t, exec (.draw c) s = .next t ∧ taken q s.disp.xstate t) ∧
    (∀ q r, turn → e = q :: r → s.disp.drawMode = true → ∃ t, exec (.draw c) s = .next t ∧ taken q s.disp.xstate t) ∧
    (turn → e ≠ [] → s.disp.drawMode = false →
      let x := s.disp.xstate ^^^ (s.disp.xstate <<< 13)
      let x := x ^^^ (x >>> 17)
      let x := x ^^^ (x <<< 5)
      ∃ q t, TakesAt s e (x.toNat % (e.map fun q => (vget s.disp.hwqs q).tickets.toNat).sum) q ∧
        exec (.draw c) s = .next t ∧ taken q x t)

/-- 04 R111, 10 R299 and R304: RESUME puts the first saved task that a dump saved onto a free, open core of its binding,
with the cost of the variant with which it launched reserved again, and the state that the core reads back from its slot
after an acquire at SYSTEM; while anything keeps the task off the core, and no other saved task may resume there, nothing
changes (that a page of the slot that cannot be read is such a thing is the model's own choice, log entry 111). -/
def SavedTasksResume : Prop :=
  ∀ (s : State) (c : Fin 64) (v : SavedTask) (r : List SavedTask) (k : Kernel),
    let h := tile c
    let i := (getIsland s (islandOf h)).metered
    let cost := classCost s (k.record.variants.get v.ctx.launched)
    let w := bumpVersions (modIsland s (islandOf h) fun _ => { i with
      total := i.total - cost, slot := if cost ≤ i.total - i.slot then i.slot else 0, need := i.need + cost }) h 4
    ((∀ x ∈ s.disp.saved, resumeOne s x h = none) → (getCore s h).busy = false → exec (.resume c) s = .next s) ∧
    ∀ u, s.disp.saved = v :: r → kernelOf s v.ref = some k → v.mode ≠ .yieldMode → v.emPieces = [] →
    coreOpen s h = true → boundTo k v.ref.task c.val = true → (∀ e ∈ s.settling, e.ref ≠ v.ref) →
    (getCore s h).fence ≠ 15 → i.esc = none → cost ≤ i.total → i.downPend = false → v.ctx.warn = none →
    v.ctx.m.suspect = none → restoreSlot w h v = some u →
    ∃ t, exec (.resume c) s = .next t ∧ (getCore t h).busy = true ∧ (getCore t h).stop = none ∧
      (getCore t h).ctx = { (getCore u h).ctx with acct := { (getCore u h).ctx.acct with reserved := cost } } ∧
      (getCore t h).regs = (getCore u h).regs ∧ (getCore t h).banks = (getCore u h).banks ∧
      (getCore t h).rings = (getCore u h).rings ∧ (getCore t h).freshRegs = (getCore u h).freshRegs ∧
      (getCore t h).freshScratch = (getCore u h).freshScratch ∧ (getCore t h).freshBanks = (getCore u h).freshBanks ∧
      (getCore t h).dirtyRegs = 0 ∧ (getCore t h).dirtyScratch = 0 ∧ t.mem = u.mem ∧
      (getIsland t (islandOf h)).total + cost = i.total ∧
      t.disp.saved = s.disp.saved.filter fun x => x.ref ≠ v.ref

/-- Every stream of the task on core c has ended and every operation that they issued has completed (06 R163). -/
structure TaskOver (s : State) (c : CoreId) : Prop where
  busy    : (getCore s c).busy = true
  kernel  : (getCore s c).ctx.task.kernel < 2 ^ 32
  free    : (getCore s c).stop = none
  begun   : (getCore s c).ctx.atEntry = false
  outside : (getCore s c).ctx.csr.inHandler = false
  ended   : ∀ st, (getStream (getCore s c).ctx st).enabled = true → (getStream (getCore s c).ctx st).ended = true
  reads   : readsDone s c = true
  stores  : (getCore s c).ctx.aq.stores = []
  writes  : (getCore s c).ctx.aq.inflight = []
  whole   : (getCore s c).ctx.aq.lost = []
  v       : (getCore s c).ctx.vpend = []
  p       : (getCore s c).ctx.ppend = []
  m       : (getCore s c).ctx.m.cmd = none
  tests   : (getCore s c).ctx.m.testing = false
  yields  : (getCore s c).ctx.yieldPhase = .none
  jobs    : ∀ j ∈ s.jobs, j.task ≠ (getCore s c).ctx.task
  samples : ∀ r ∈ s.samples, r.task ≠ (getCore s c).ctx.task
  journal : ∀ j ∈ s.jwrites, j.task ≠ (getCore s c).ctx.task

/-- 06 R163, 04 R115, 05 R145 and 14 R398: TASK_END of a task that is over leaves the core free, with empty queues and
zero tokens and its registers as they were, sends its account to settlement and counts the task in its kernel; of a task
that still runs it changes nothing. TRIGGER_REPORT tells the
dispatcher of a trigger point that every stream has passed, once what came before is performed (log entry 76 for what
that is, an inference). -/
def TasksEndAndTrigger : Prop :=
  ∀ (s : State) (h : Fin 64), let c := tile h
    let task := (getCore s c).ctx.task
    let kernel := BitVec.ofNat 32 task.kernel
    (TaskOver s c → ∃ t, exec (.taskEnd h) s = .next t ∧ (getCore t c).busy = false ∧ (getCore t c).ctx = (getCore s c).ctx.left ∧
      (getCore t c).ctx.q = Queues.empty ∧ (getCore t c).ctx.tokens = Vector.replicate 16 0 ∧
      (getCore t c).ctx.x = (getCore s c).ctx.x ∧ (getCore t c).ctx.a = (getCore s c).ctx.a ∧
      (getCore t c).ctx.slm = (getCore s c).ctx.slm ∧ (getCore t c).ctx.csr.varidx = (getCore s c).ctx.csr.varidx ∧
      t.settling = s.settling ++ [⟨task, islandOf c, (getCore s c).ctx.acct, true⟩] ∧
      ∀ k, findKernel s kernel = some k → ∃ k', findKernel t kernel = some k' ∧ k'.ran = k.ran + 1 ∧
        k'.live = k.live.filter fun l => l.task ≠ task.task) ∧
    ((∃ st, live (getCore s c).ctx st = true) → exec (.taskEnd h) s = .next s) ∧
    ∀ p : TriggerPoint, let n := p.entries
      let pc := p.pc
      (getCore s c).busy = true → (getCore s c).ctx.trigger = some p →
      (∀ st, st ≠ .s → (getStream (getCore s c).ctx st).enabled = true → (getStream (getCore s c).ctx st).ended = false →
        n < (getStream (getCore s c).ctx st).popped ∨ ((getStream (getCore s c).ctx st).popped = n ∧
          pc.toNat < (getStream (getCore s c).ctx st).pc.toNat)) →
      readsDone s c = true → (getCore s c).ctx.aq.stores = [] → (getCore s c).ctx.aq.inflight = [] →
      (getCore s c).ctx.aq.lost = [] → (∀ j ∈ s.jobs, j.task ≠ task) → (∀ r ∈ s.samples, r.task ≠ task) →
      exec (.triggerReport h) s = .next (modKernel (modCtx s c fun t => { t with trigger := none }) kernel fun k =>
        { k with triggered := task.task :: k.triggered })

/-- The primary dispatch core holds the stop of a trap (03 R93; 05 R156). -/
def PrimaryTrapped (s : State) : Prop := (getCore s (if s.disp.primary then 65 else 64)).stop ≠ none

/-- 03 R93, 05 R156 and 01 R36: with no standby, no command pending and no context enabled, DISPATCH_HALT after a trap
of the primary halts the device, with cause 4 for a flash read and 7 otherwise, and no tile core runs a task; with a
standby ready, TAKEOVER begins, and then ends with the other core primary, no standby, and the take-over counted. (That
any trap of the primary leads there is an inference, log entry 60.) -/
def DispatchCoresFail : Prop :=
  ∀ s : State,
    (PrimaryTrapped s → s.disp.takeover = false → s.pkg.cause = 0 →
      (s.disp.standbyOk = false → (∀ e ∈ s.contexts, e.2.enable = false ∧ e.2.pendingCmds = [] ∧ e.2.fences = []) →
        ∀ flash : Bool, ∃ t, exec (.dispatchHalt flash) s = .next t ∧ t.pkg.cause = (if flash then 4 else 7) ∧
          (∀ c : Fin 64, (getCore t (tile c)).busy = false) ∧ t.disp.kernels = [] ∧ t.jobs = []) ∧
      (s.disp.standbyOk = true → (∀ flash, exec (.dispatchHalt flash) s = .next s) ∧
        exec .takeover s = .next { s with disp := { s.disp with takeover := true } })) ∧
    (s.disp.takeover = true → ∃ t, exec .takeover s = .next t ∧ t.disp.primary = (!s.disp.primary) ∧
      t.disp.takeover = false ∧ t.disp.standbyOk = false ∧
      t.disp.takeovers.toNat = min 65535 (s.disp.takeovers.toNat + 1))

/-- 03 R93, 04 R111 and R115, 05 R145, R149 and R156, 06 R161, R163 and R182, 10 R299 and 14 R398: how tasks come to a
core and leave it: draws, resumption, the end of a task and its trigger, and the failure of the dispatch cores. -/
def Obligations.TasksArePlacedAndEnd : Prop :=
  DrawsTakeTheirQueue ∧ SavedTasksResume ∧ TasksEndAndTrigger ∧ DispatchCoresFail

/-! ### Stops, pre-emption and the trap queue (05 R144; 06 R189; 10 R272 to R298) -/

/-- A field of n bytes at byte a of a trap record. -/
def recordField (r : BitVec 2048) (a n : Nat) : Nat := (r.extractLsb' (8 * a) (8 * n)).toNat

/-- A stop of the quiet task on tile core c would be captured at once: the core runs it with no stop pending and in no
speculative mode, the trap queue has room, and no job is at work. -/
structure Stoppable (s : State) (c : CoreId) : Prop where
  tile  : c.val < 64
  busy  : (getCore s c).busy = true
  user  : (getCore s c).ctx.system = false
  known : (getCore s c).ctx.task.kernel < 2 ^ 32
  free  : (getCore s c).stop = none
  plain : roundOf (getCore s c).ctx .s = none
  quiet : Quiet s c
  room  : s.trapq.length < 256
  jobs  : s.jobs = []

/-- The record r of a trap of core c in the state s has the next device sequence number, this cause, source and detail,
the task's number and ASID, and the core's number; its FATAL flag is as given (10 R277). -/
def RecordOf (s : State) (c : CoreId) (i : TrapInfo) (r : BitVec 2048) : Prop :=
  recordField r 0 4 = s.seq.toNat ∧ recordField r 4 2 = i.cause.code ∧ recordField r 6 1 = i.source ∧
  r.getLsbD 56 = i.fatal ∧ recordField r 8 4 = (getCore s c).ctx.csr.taskId.toNat ∧
  recordField r 12 2 = (getCore s c).ctx.asid.toNat ∧ recordField r 14 1 = c.val ∧ recordField r 15 1 = i.detail

/-- The task on core c has ended on the fatal stop i: its record is the newest of the trap queue, the core is free, and
its kernel has the status, unless it had one, starts no more tasks, and has frozen its hardware queue (05 R144, R150;
10 R273, R287). -/
structure EndedFatally (s t : State) (c : CoreId) (i : TrapInfo) (status : Nat) : Prop where
  record : ∃ r, t.trapq = s.trapq ++ [r] ∧ RecordOf s c i r
  free   : (getCore t c).busy = false ∧ (getCore t c).stop = none
  kernel : ∀ k, findKernel s (BitVec.ofNat 32 (getCore s c).ctx.task.kernel) = some k → k.hwq < 64 → ∃ k',
    findKernel t (BitVec.ofNat 32 (getCore s c).ctx.task.kernel) = some k' ∧
    k'.status = some (k.status.getD status) ∧ k'.cancelled = true ∧
    k'.live = k.live.filter (fun l => l.place ≠ .saved ∧ l.task ≠ (getCore s c).ctx.task.task) ∧
    (vget t.disp.hwqs k.hwq).frozen = true

/-- A stop that names no word (10 R277). -/
def stopOf (c : Cause) (source detail : Nat) (fatal : Bool) : TrapInfo :=
  { cause := c, source := source, detail := detail, faddr := 0, status := 0, len := 0, fatal := fatal, rerun := false
    sfirst := 0, slast := 0, sfstep := 0xFFFFFFFF, slstep := 0xFFFFFFFF }

/-- 05 R144, 06 R189 and 10 R272, R273, R287 and R288: WATCHDOG ends the task with TIMEOUT, ECC_FATAL and a deadlock
with FAULTED; the record of a deadlock names the S-stream, with DETAIL 1 (the detail is the cause table's). DEADLOCK of
a task that is not in deadlock changes nothing. CAPTURE of a core with no stop pending changes nothing, and of one whose
stop is pending does what taking the trap does. -/
def FatalStopsEndTheTask : Prop :=
  ∀ (s : State) (h : Fin 64), let c := tile h
    (Stoppable s c →
      (∃ t, exec (.watchdog h) s = .next t ∧ EndedFatally s t c (stopOf .watchdog 5 0 true) 11) ∧
      (∃ t, exec (.eccFatal c) s = .next t ∧ EndedFatally s t c (stopOf .eccFatal 5 0 true) 4) ∧
      (deadlocked s c = true →
        ∃ t, exec (.deadlock h) s = .next t ∧ EndedFatally s t c (stopOf .queue 0 1 true) 4)) ∧
    (deadlocked s c = false → exec (.deadlock h) s = .next s) ∧
    ((getCore s c).stop = none → exec (.capture c) s = .next s) ∧
    ∀ i, (getCore s c).busy = true → (getCore s c).stop = none →
      exec (.capture c) (modCore s c fun k => { k with stop := some ⟨i⟩ }) = .next (takeTrap s c i)

/-- The physical address of the emergency area of core c (10 R298). -/
def areaOf (s : State) (c : CoreId) : Nat := (getCore s c).emBase.toNat * 2 ^ 23

/-- The task on core c was saved into the core's emergency area: the core is free, the record of a pre-emption with this
detail is the newest of the trap queue and stands at offset 0 of the area, where the task's X registers, its written
blocks of register space and banks, and its scalar local memory stand at their slot offsets; and the saved task has the
registers and rings of the task (10 R294, R295, R298). Where X lies inside its area of the slot is the model's choice
(log 103). -/
structure SavedAway (s t : State) (c : CoreId) (detail : Nat) : Prop where
  free   : (getCore t c).busy = false
  record : ∃ r, t.trapq = s.trapq ++ [r] ∧ RecordOf s c (stopOf .preempt 5 detail false) r ∧
    ofBytes 2048 (physRead t (areaOf s c) 256) = r
  held   : (getCore t c).emBusy = true
  x      : ∀ i : Fin 64, physNat t (areaOf s c + 0x400 + 8 * i.val) 8 = ((getCore s c).ctx.x.get i).toNat
  regs   : ∀ b : Fin 4352, (getCore s c).freshRegs.getLsbD b.val = false → (getCore s c).dirtyRegs.getLsbD (b.val / 4) = true →
    physRead t (areaOf s c + 0x20000 + 1024 * b.val) 1024 = regRead (getCore s c) (1024 * b.val) 1024
  banks  : ∀ b : Fin 64, (getCore s c).freshBanks.getLsbD b.val = false →
    physRead t (areaOf s c + 0x560000 + 1024 * b.val) 1024 = bankRead (getCore s c) (1024 * b.val) 1024
  slm    : physRead t (areaOf s c + 0x570000) 0x4000 = memReadN (getCore s c).ctx.slm 0 0x4000
  saved  : ∃ v, t.disp.saved = s.disp.saved ++ [v] ∧ v.ref = (getCore s c).ctx.task ∧ v.switchAt = some 0 ∧
    v.base = none ∧ v.emCore.map Fin.val = some c.val ∧ v.rings = (getCore s c).rings ∧
    v.ctx.x = (getCore s c).ctx.x ∧ v.ctx.pr = (getCore s c).ctx.pr ∧ v.ctx.a = (getCore s c).ctx.a ∧
    v.ctx.k = (getCore s c).ctx.k ∧ v.ctx.q = (getCore s c).ctx.q ∧ v.ctx.tokens = (getCore s c).ctx.tokens ∧
    v.ctx.csr = (getCore s c).ctx.csr ∧ v.ctx.slm = (getCore s c).ctx.slm ∧ v.ctx.steer = (getCore s c).ctx.steer ∧
    ∀ st, (getStream v.ctx st).pc = (getStream (getCore s c).ctx st).pc ∧
      (getStream v.ctx st).ended = (getStream (getCore s c).ctx st).ended

/-- s, with the queue of core c's task left out of the core's next draw (10 R292). -/
def queueLeftOut (s : State) (c : CoreId) (k : Kernel) : State := modCore s c fun x => { x with exclude := some k.hwq }

/-- 10 R292 and R295 to R298: a pre-emption at the boundary, or mid-task where the context forbids it or the emergency
area is held, leaves the task's hardware queue out of the core's next draw, and of a core that runs no task does
nothing. A mid-task pre-emption of a context in yield mode asks for a YIELD; of one in dump mode with no save slot to
write, it saves the task into the emergency area, or ends it with ACCESS, DETAIL 4, when that is not valid. A yield that
times out falls back to the dump with DETAIL 2. While a restore sequence runs a pre-emption is only marked (that it then
waits for the sequence's end is the model's own choice, log entry 128). A save sequence that is over leaves its core free and the task saved as
it stood at its YIELD, unless its record reaches neither the slot nor the emergency area. -/
def PreemptionsSaveTheTask : Prop :=
  ∀ (s : State) (h : Fin 64), let c := tile h
    let core := getCore s c
    let x := getContext s core.ctx.context.val
    let noSlot := x.saveSlots = 0 ∧ ∀ u ∈ x.slotsUsed, u.2 ≠ core.ctx.task
    let emergency := Memory.wf s.mem = true ∧ ∀ o, o < 2 ^ 23 → placeOf s (areaOf s c + o) = .local
    let waitsFor (p : YieldPhase) := core.ctx.yieldPhase = p ∧ core.preempt = false ∧
      ∀ y ∈ s.yields, y.ref ≠ core.ctx.task
    (core.busy = false → exec (.preemptAtBoundary h) s = .next s ∧ exec (.preemptMidTask h) s = .next s) ∧
    (∀ k, core.busy = true → kernelOf s core.ctx.task = some k →
      exec (.preemptAtBoundary h) s = .next (queueLeftOut s c k) ∧
      (x.noMid = true ∨ core.emBusy = true → exec (.preemptMidTask h) s = .next (queueLeftOut s c k))) ∧
    (Stoppable s c → waitsFor .none → x.noMid = false → core.emBusy = false →
      (x.saveMode = true → exec (.preemptMidTask h) s = .next (modCtx s c fun t => { t with yieldPhase := .asked })) ∧
      (x.saveMode = false → noSlot → core.emValid = true → emergency →
        ∃ t, exec (.preemptMidTask h) s = .next t ∧ SavedAway s t c 0) ∧
      (x.saveMode = false → noSlot → core.emValid = false →
        ∃ t, exec (.preemptMidTask h) s = .next t ∧ EndedFatally s t c (stopOf .access 5 4 true) 4)) ∧
    (Stoppable s c → waitsFor .asked → noSlot → core.emValid = true → emergency →
      ∃ t, exec (.yieldTimeout h) s = .next t ∧ SavedAway s t c 2) ∧
    (∀ r, core.busy = true → core.stop = none → core.preempt = false → x.noMid = false → core.emBusy = false →
      x.saveMode = true → core.ctx.yieldPhase = .restoring r false → exec (.preemptMidTask h) s =
        .next (modCtx s c fun t => { t with yieldPhase := .restoring r true })) ∧
    (core.ctx.yieldPhase ≠ .asked → (∀ r, core.ctx.yieldPhase ≠ .restoring r true) →
      exec (.yieldTimeout h) s = .next s) ∧
    ∀ restore resume v, core.ctx.yieldPhase = .saving restore resume →
      s.yields.find? (fun y => y.ref == core.ctx.task) = some v →
      (¬quietTask s c = true → exec (.yieldSaveComplete h) s = .next s) ∧
      (quietTask s c = true → (∀ j ∈ s.jobs, j.task ≠ core.ctx.task) → core.emValid = true →
        ∃ t u, exec (.yieldSaveComplete h) s = .next t ∧ (getCore t c).busy = false ∧
          t.disp.saved.getLast? = some u ∧ u.ref = v.ref ∧ u.ctx = { v.ctx with acct := core.ctx.acct } ∧
          u.rings = v.rings ∧ u.mode = v.mode ∧ u.base = v.base ∧ u.jobs = [])

/-- An answer of retry or fail reaches the fault whose record has this number, once (10 R291). -/
def answered (seq : BitVec 32) (retry : Bool) (r : Replay) : Replay :=
  if r.record = some seq ∧ r.answer = none then { r with answer := some retry } else r

/-- 10 R288, R290 and R291: TQACK_POP takes the oldest record off the trap queue; TQREPLY gives its answer to the fault
of a core or of an engine whose record has the number; LATCHMAP_CLEAR frees the record latched in a core. -/
def TrapQueueAnswers : Prop :=
  ∀ s : State,
    exec .tqackPop s = .next { s with trapq := s.trapq.drop 1 } ∧
    (∀ h : Fin 64, exec (.latchmapClear h) s =
      .next (modCore s (tile h) fun k => { k with latched := none, blocked := false })) ∧
    ∀ (agent : BitVec 7) (seq : BitVec 32) (retry : Bool) (i : Instr),
      i = (if retry then .tqreplyRetry agent seq else .tqreplyFail agent seq) →
      (∀ h : Fin 64, agent.toNat = h.val → exec i s = .next (modCtx s (tile h) fun t =>
        { t with
          streams := t.streams.map fun x => { x with waiting := false }
          aq := { t.aq with replay := t.aq.replay.map (answered seq retry) } })) ∧
      (64 ≤ agent.toNat → exec i s = .next { s with
        jobs := s.jobs.map fun j => if j.engine = agent.toNat then
          { j with replay := j.replay.map (answered seq retry) } else j
        samples := s.samples.map fun r => match r.engine with
          | some e => if 86 + e.val = agent.toNat then { r with replay := r.replay.map (answered seq retry) } else r
          | none => r })

/-- 05 R144, 06 R189 and 10 R272 to R298: fatal stops end their task, pre-emptions save it, and answers reach the faults
that wait for them. -/
def Obligations.StopsEndOrSaveTheTask : Prop :=
  FatalStopsEndTheTask ∧ PreemptionsSaveTheTask ∧ TrapQueueAnswers

/-! ### Walks, invalidations, staging, results and self-tests (06 R184, R185; 07 R199 to R210; 09 R259, R268; 10 R301 to
R303; 17 R467, R485; 18 R492) -/

/-- The index of va in a table of level l (07 R203). -/
def tableIndex (va l : Nat) : Nat := if l = 6 then va / 2 ^ 66 % 64 else va / 2 ^ (9 * l + 12) % 512

/-- Following the pointers of the tables for va from level l and table leads to level l' and table' (07 R203). -/
inductive TablePath (s : State) (va : Nat) : (l table l' table' : Nat) → Prop
  | here (l table : Nat) : TablePath s va l table l table
  | down (l table l' table' pte : Nat) (read : pte = physNat s (table + 8 * tableIndex va (l + 1)) 8)
      (valid : pte % 4 = 1) (reserved : pte / 4 % 2 ^ 18 = 0) (inside : placeOf s (ptePa pte) = .local)
      (rest : TablePath s va l (ptePa pte) l' table') : TablePath s va (l + 1) table l' table'

/-- The data root of an ASID is valid: its table of level top stands at base, in this card's memory (07 R202). -/
structure DataRoot (s : State) (asid : BitVec 16) (top base : Nat) : Prop where
  entry    : placeOf s (s.astBase.toNat * 2 ^ 21 + 32 * asid.toNat) = .local
  root     : physNat s (s.astBase.toNat * 2 ^ 21 + 32 * asid.toNat) 8 = 1 + 2 * top + base
  levels   : 3 ≤ top ∧ top ≤ 6
  aligned  : base % 4096 = 0 ∧ base < 2 ^ 48
  inside   : placeOf s base = .local
  reserved : physNat s (s.astBase.toNat * 2 ^ 21 + 32 * asid.toNat + 16) 16 = 0

/-- s without what the accounts count of the home slices' lines that core c reads and writes (04 R114). -/
def withoutCounts (s : State) (c : CoreId) : State :=
  { modIsland (modCore s c fun k => { k with ctx := { k.ctx with acct := { k.ctx.acct with jmem := 0 } } })
      (islandOf c) (fun i => { i with mmeter := 0 }) with home := Vector.replicate 64 [], walkFills := 0 }

/-- 07 R202 to R207: a PAGE_WALK for a data access of a task on a tile core. Along a path of valid pointers to a SHARED
leaf at L0 to L3, without CONTIG and with reserved bits zero, whose page is aligned, may have the class and grants the
access, the walk sets A, and D for a write or an atomic, in the entry, changes no other byte of memory, and leaves the
translation with the core; an invalid entry faults, and the walk leaves everything as it was. The lines of the tables
that either reads at their home slices are charged (04 R114). -/
def WalksFollowTheTables : Prop :=
  ∀ (s : State) (c : CoreId) (va : VAddr) (kind : WalkKind) (top base l table : Nat),
    c.val < 64 → (getCore s c).busy = true → kind ≠ .fetch → Memory.wf s.mem = true →
    DataRoot s (getCore s c).ctx.asid top base → va.toNat < 2 ^ (9 * top + 21) ∨ top = 6 →
    TablePath s va.toNat top base l table →
    let at_ := table + 8 * tableIndex va.toNat l
    let pte := physNat s at_ 8
    let bits := 12 + 9 * l
    let writes := kind = .write ∨ kind = .atomic
    (pte % 2 = 0 → ∃ t, exec (.pageWalk c va kind) s = .next t ∧ withoutCounts t c = withoutCounts s c) ∧
    (pte % 4 = 3 → l ≤ 3 → pte / 4 % 4 = 1 → pte / 2 ^ 7 % 2 = 0 → pte / 2 ^ 18 % 4 = 0 → ptePa pte % 2 ^ bits = 0 →
      classAllowed (placeOf s (ptePa pte)) 1 = true →
      ((kind = .read ∨ kind = .atomic) → pte / 2 ^ 5 % 2 = 1) → (writes → pte / 2 ^ 4 % 2 = 1) →
      ∃ t leaf, exec (.pageWalk c va kind) s = .next t ∧
        leaf = BitVec.ofNat 64 pte ||| 0x100#64 ||| (if writes then 0x200#64 else 0#64) ∧
        (∀ a, memRead t.mem a =
          if at_ ≤ a ∧ a < at_ + 8 then leaf.extractLsb' (8 * (a - at_)) 8 else memRead s.mem a) ∧
        (getCore t c).tlb.head? = some ⟨false, (getCore s c).ctx.asid, va.toNat / 2 ^ bits * 2 ^ bits, bits, leaf,
          ptePa pte, at_⟩ ∧
        (∃ n, (getCore t c).ctx = { (getCore s c).ctx with acct := { (getCore s c).ctx.acct with jmem := n } }) ∧
        t.owned = s.owned)

/-- Some of the len bytes from the physical address pa lie in a page of an invalidation. -/
def Touches (v : Inval) (pa len : Nat) : Prop := ∃ g ∈ v.pages, pa < g.1 + 2 ^ g.2 ∧ g.1 < pa + len

/-- An engine has asked the peer for a line of the pages, or has writes or atomics of before the invalidation with the
peer. -/
def EngineOut (v : Inval) (io : EngIo) : Prop :=
  (∃ e ∈ io.ask, Touches v (e.2 * 64) 64) ∨ (∃ e ∈ io.out, e.1 < v.stamp) ∨ ∃ e ∈ io.atoms, e.1 < v.stamp

/-- An access of before an invalidation to one of its pages is outstanding: of an A-stream, of a job, of a sampler's
request, of a journal entry or of a core's own journal (07 R210). -/
def Outstanding (s : State) (v : Inval) : Prop :=
  (∃ c : CoreId, let q := (getCore s c).ctx.aq
    let old (id : Nat) (l : List Part) := id < v.stamp ∧ ∃ p ∈ l, Touches v p.pa p.len
    (∃ r ∈ q.loads, old r.id r.parts) ∨ (∃ r ∈ q.inflight, old r.id [r.part]) ∨
    (∃ r, SqEntry.write r ∈ q.stores ∧ old r.id [r.part]) ∨ (∃ a, SqEntry.atomic a ∈ q.stores ∧ old a.id [a.part]) ∨
    (∃ e ∈ q.ask, e.data = none ∧ Touches v (e.line * 64) 64) ∨ EngineOut v (getCore s c).jio) ∨
  (∃ j ∈ s.jobs, EngineOut v j.io) ∨ (∃ r ∈ s.samples, EngineOut v r.io) ∨ ∃ j ∈ s.jwrites, EngineOut v j.io

/-- 07 R199 and R210, 09 R259 and R268. INVALIDATION_COMPLETE does nothing while no invalidation of the core waits or an
access to a removed page is outstanding; with none outstanding anywhere the invalidation is done, no L1 or island cache
holds a line of the pages, and no A-stream an answer of the peer for one. A spurious wake ends the wait of a WAITA alone. SLICE_RELEASE ends
ownership, starts the zero-fill and takes the slice out of every pin table, unless it is being filled;
SLICE_SCRUB_DONE leaves every byte of the slice zero and no other byte changed. SCUNBIND leaves the object unbound, with
no allowance, and its waiting requests end with ABANDONED. -/
def MemoryEventsComplete : Prop :=
  ∀ s : State,
    (∀ c : CoreId,
      (s.invPend.find? (fun v => v.core == c && !v.done) = none → exec (.invalidationComplete c) s = .next s) ∧
      ∀ v, s.invPend.find? (fun v => v.core == c && !v.done) = some v →
        (Outstanding s v → exec (.invalidationComplete c) s = .next s) ∧
        (¬Outstanding s v → ∃ t, exec (.invalidationComplete c) s = .next t ∧
          (∀ w ∈ t.invPend, w.core = c → w.done = true) ∧ (∃ w ∈ t.invPend, w.core = c) ∧
          (∀ d, ∀ e ∈ (getCore t d).ctx.aq.ask, ¬Touches v (e.line * 64) 64) ∧
          (∀ d, ∀ x ∈ (getCore t d).l1, ∀ g ∈ v.pages, lineInPage g.1 g.2 x = false) ∧
          ∀ i, ∀ x ∈ (getIsland t i).cache, ∀ g ∈ v.pages, lineInPage g.1 g.2 x = false)) ∧
    (∀ c : CoreId, (∀ line d, (getCore s c).ctx.aq.waita ≠ .registered line d) →
      exec (.monitorSpuriousWake c) s = .next s) ∧
    (∀ (c : CoreId) (line : Nat) (d : Fin 32), (getCore s c).ctx.aq.waita = .registered line d →
      ∃ t, exec (.monitorSpuriousWake c) s = .next t ∧ (getCore t c).ctx.aq.waita = .woken d ∧
        (∀ m ∈ t.monitors, c ∉ m.waiters) ∧ (∀ e, e ≠ c → getCore t e = getCore s e) ∧ MemorySame s t) ∧
    (∀ i : Fin 64, ((s.slices.get i).scrub = true → exec (.sliceRelease i) s = .next s) ∧
      ((s.slices.get i).scrub = false → ∃ t, exec (.sliceRelease i) s = .next t ∧
        t.slices = s.slices.set i.val ⟨none, true⟩ i.isLt ∧
        (∀ c, (getCore t c).ctx.m.pins = (getCore s c).ctx.m.pins.filter fun p => p.slice ≠ i.val) ∧
        (∀ v ∈ t.disp.saved, ∀ p ∈ v.ctx.m.pins, p.slice ≠ i.val) ∧ MemorySame s t) ∧
      ((s.slices.get i).scrub = false → exec (.sliceScrubDone i) s = .next s) ∧
      ((s.slices.get i).scrub = true → sliceQuiet s i.val = true → ∃ t, exec (.sliceScrubDone i) s = .next t ∧
        t.slices = s.slices.set i.val ⟨none, false⟩ i.isLt ∧
        ∀ a, Memory.wf s.mem = true → memRead t.mem a =
          if 0x010000000000 + i.val * 0x200000 ≤ a ∧ a < 0x010000000000 + (i.val + 1) * 0x200000 then 0
          else memRead s.mem a)) ∧
    ∀ obj : Fin 4096, (tfind s.counters obj.val = none → exec (.scunbind obj) s = .next s) ∧
      ∀ o, tfind s.counters obj.val = some o → ∃ t, exec (.scunbind obj) s = .next t ∧
        tfind t.counters obj.val = none ∧ (∀ c, obj.val ∉ (getCore t c).scCache) ∧
        ∀ (c : CoreId) (d : Fin 32) (n : Nat), (c.val, n) ∈ o.fifo → (getCore s c).ctx.aq.scWait = .queued obj.val d →
          (getCore t c).ctx.aq.scWait = .ended d 2

/-- One write of data to register space from off stands in core t, and every other byte that holds an element reads as
in core s (06 R178, R183). -/
def WroteRegs (s t : Core) (off : Nat) (data : List Byte) : Prop :=
  regRead t off data.length = data ∧
  ∀ a, a < off ∨ off + data.length ≤ a → a < 0x3FFFFC ∨ 0x400000 ≤ a → regRead t a 1 = regRead s a 1

/-- 06 R184 and R185, 17 R467, R474 and R485, and 18 R492: V_RESULT_LAND lands the next result of the V-stream, alone
when no other is due with it: its bytes, mask bits, flags and queue entries; P_WORD_LAND lands the oldest P-word's bytes
in the banks; TILE_COMMAND_END of an M-word that writes register space alone, and has raced with no V-word, makes its write stand, charges the cycles of the array that no word has covered (the
model's reading of when they are counted, log 42), takes the regions that it unpins out of the pin table, counts a tile
command toward the self-tests, and signals its token, for which it waits at 255; an MROWMASK that ends has read its mask. -/
def ResultsStand : Prop :=
  ∀ (s : State) (h : Fin 64), let c := tile h
    let k := getCore s c
    Memory.wf k.regs = true → Memory.wf k.banks = true →
    (k.ctx.vpend = [] → exec (.vResultLand h) s = .next s) ∧
    (k.ctx.ppend = [] → exec (.pWordLand h) s = .next s) ∧
    (k.ctx.m.cmd = none → exec (.tileCommandEnd h) s = .next s) ∧
    (∀ p r off data, k.ctx.vpend = p :: r → (∀ q ∈ r, p.due < q.due ∧ k.ctx.vcyc < q.due) → p.regs = [(off, data)] →
      off + data.length ≤ 0x3FFFFC ∨ 0x400000 ≤ off → p.banks = [] → p.masks = [] →
      ∃ t, exec (.vResultLand h) s = .next t ∧ WroteRegs k (getCore t c) off data ∧
        (getCore t c).ctx.vpend = r ∧ (getCore t c).ctx.vcyc = max k.ctx.vcyc p.due ∧ (getCore t c).ctx.k = k.ctx.k ∧
        (getCore t c).ctx.csr.vflags = k.ctx.csr.vflags ||| p.flags ∧
        (getCore t c).ctx.q.qvs = k.ctx.q.qvs ++ p.qvs.map (fun w => ⟨w, p.spec⟩) ∧
        ∀ n : Fin 4, (getCore t c).ctx.q.qs.get n = k.ctx.q.qs.get n ++
          (p.qs.filter fun e => e.1 = n).map fun e => ⟨e.2, p.spec⟩) ∧
    (∀ p r m b v, k.ctx.vpend = p :: r → (∀ q ∈ r, p.due < q.due ∧ k.ctx.vcyc < q.due) → p.regs = [] → p.banks = [] →
      p.masks = [(m, b, v)] → ∃ t, exec (.vResultLand h) s = .next t ∧ (getCore t c).regs = k.regs ∧
        ∀ n : Fin 8, (getCore t c).ctx.k.get n =
          if n.val = m then (k.ctx.k.get n &&& ~~~b) ||| (v &&& b) else k.ctx.k.get n) ∧
    (∀ p r off data, k.ctx.ppend = p :: r → p.regs = [] → p.banks = [(off, data)] → p.masks = [] →
      ∃ t, exec (.pWordLand h) s = .next t ∧ (getCore t c).ctx.ppend = r ∧ (getCore t c).regs = k.regs ∧
        bankRead (getCore t c) off data.length = data ∧
        ∀ a, a < off ∨ off + data.length ≤ a → bankRead (getCore t c) a 1 = bankRead k a 1) ∧
    (∀ x a, k.ctx.m.cmd = some x → x.landed = false → x.stage = [] → x.regs = [] → x.raced = [] → k.ctx.vpend = [] →
      x.work = .rowMask a → x.token = none → ∃ t, exec (.tileCommandEnd h) s = .next t ∧
        (getCore t c).ctx.m.rm = ofBytes 192 (regRead k a 24) ∧ (getCore t c).ctx.m.cmd = none ∧
        (getCore t c).regs = k.regs) ∧
    ∀ x off data, k.ctx.m.cmd = some x → x.landed = false → x.stage = [] → x.regs = [(off, data)] → x.raced = [] →
      k.ctx.vpend = [] →
      off + data.length ≤ 0x3FFFFC ∨ 0x400000 ≤ off →
      let n := x.array - (k.ctx.csr.cycle - x.since).toNat
      ∃ t, exec (.tileCommandEnd h) s = .next t ∧ WroteRegs k (getCore t c) off data ∧
        (getCore t c).ctx.csr.cycle = k.ctx.csr.cycle + BitVec.ofNat 64 n ∧
        (getCore t c).ctx.m.pins = k.ctx.m.pins.filter (fun p => p ∉ x.unpin) ∧
        (x.tile = true → (getCore t c).ctx.m.sinceTest = k.ctx.m.sinceTest + 1 ∧
          (getCore t c).ctx.m.testDue = (k.ctx.m.testDue || decide (k.ctx.csr.sti.toNat ≤ k.ctx.m.sinceTest + 1)) ∧
          (getCore t c).ctx.m.slast = some (x.cidx, x.step)) ∧
        (x.token = none → (getCore t c).ctx.m.cmd = none ∧ (getCore t c).ctx.tokens = k.ctx.tokens) ∧
        ∀ y, x.token = some y →
          (k.ctx.tokens.get y ≠ 255 → (getCore t c).ctx.m.cmd = none ∧
            (getCore t c).ctx.tokens.get y = k.ctx.tokens.get y + 1) ∧
          (k.ctx.tokens.get y = 255 → (getCore t c).ctx.tokens = k.ctx.tokens ∧
            ∃ z, (getCore t c).ctx.m.cmd = some z ∧ z.landed = true ∧ z.token = some y)

/-- 10 R301 to R303 and 17 R485: SELF_TEST starts a test for a running M-stream with no command in the array, before its
first tile command or when the interval is over, while some sub-array stands. SELF_TEST_END begins a new count of the
interval, and of a test that passes a new count of the suspect commands; the sub-arrays that failed are fenced; and a
failure behind tile commands that cannot be rerun leaves an ARRAY-SUSPECT that names the first and the last of them. The
test takes 256 cycles, stalled where no word covered them (the model's reading of when they are counted, log 42). An
MTEST
signals its token after its test, for which it waits at 255. -/
def SelfTestsGuardTheArray : Prop :=
  ∀ (s : State) (h : Fin 64), let c := tile h
    let k := getCore s c
    let m := k.ctx.m
    let due := k.busy = true ∧ live k.ctx .m = true ∧ m.testing = false ∧ m.cmd = none ∧
      (m.tested = false ∨ m.testDue = true) ∧ k.fence ≠ 15
    (due → exec (.selfTest h) s = .next (modCore s c fun k => { k with ctx := { k.ctx with m := { k.ctx.m with
      testing := true, testAt := k.ctx.csr.cycle, testDue := false } } })) ∧
    (¬due → exec (.selfTest h) s = .next s) ∧
    ∀ failed : BitVec 4,
      (m.testing = false → exec (.selfTestEnd h failed) s = .next s) ∧
      (m.testing = true → ∃ t, exec (.selfTestEnd h failed) s = .next t ∧
        let u := getCore t c
        u.fence = k.fence ||| failed ∧ u.ctx.m.testing = false ∧ u.ctx.m.tested = true ∧ u.ctx.m.sinceTest = 0 ∧
        u.ctx.m.sfirst = (if failed = 0 then none else m.sfirst) ∧
        u.ctx.m.slast = (if failed = 0 then none else m.slast) ∧
        (failed = 0 ∨ m.sfirst = none → u.ctx.m.suspect = m.suspect ∧ u.regs = k.regs ∨ k.ctx.vpend ≠ []) ∧
        (failed = 0 ∨ m.sfirst = none → u.ctx.csr.cycle =
          k.ctx.csr.cycle + BitVec.ofNat 64 (256 - (k.ctx.csr.cycle - m.testAt).toNat)) ∧
        (∀ a aStep b bStep, failed ≠ 0 → m.sfirst = some (a, aStep) → m.slast = some (b, bStep) → m.again = none →
          ∃ i, u.ctx.m.suspect = some i ∧ i.cause = .arraySuspect ∧ i.source = 3 ∧ i.fatal = false ∧ i.rerun = false ∧
            i.sfirst = BitVec.ofNat 32 a.toNat ∧ i.slast = BitVec.ofNat 32 b.toNat ∧ i.sfstep = aStep ∧ i.slstep = bStep) ∧
        u.ctx.m.mtest = none ∧
        ∀ x, m.mtest = some x →
          (x.token = none → u.ctx.m.cmd = none ∧ u.ctx.tokens = k.ctx.tokens) ∧
          ∀ y, x.token = some y → if k.ctx.tokens.get y = 255
            then u.ctx.tokens = k.ctx.tokens ∧ ∃ z, u.ctx.m.cmd = some z ∧ z.landed = true ∧ z.token = some y
            else u.ctx.m.cmd = none ∧ u.ctx.tokens.get y = k.ctx.tokens.get y + 1)

/-- 06 R184 and R185; 07 R199 to R210; 09 R259 and R268; 10 R301 to R303; 17 R467 and R485; 18 R492: walks, what
completes in memory, the results that land, and the self-tests. -/
def Obligations.WalksResultsAndTestsComplete : Prop :=
  WalksFollowTheTables ∧ MemoryEventsComplete ∧ ResultsStand ∧ SelfTestsGuardTheArray

/-! ### The package and the registers (00 R8, R9; 01 R19 to R38; 04 R104, R105, R107; 05 R148; 10 R298) -/

/-- The connector capability in watts (01 R19). -/
def wattsOf : Connector → Nat
  | .absent => 0
  | .w150 => 150
  | .w300 => 300
  | .w450 => 450
  | .w600 => 600

/-- The flash record of a number that is in force (01 R38). -/
def recordOf (s : State) (n : Nat) : List Byte := (vget s.pkg.flash n).current

/-- A context of system mode that begins: ASID 0, the S-stream alone, at address 0, which is the model's choice (03 R92,
R94; 07 R202; log 16). -/
structure SystemBegins (t : Ctx) : Prop where
  mode  : t.system = true ∧ t.asid = 0
  pc    : (getStream t .s).pc = 0
  alone : ∀ st : Stream, (getStream t st).enabled = decide (st = .s)

/-- Layer n of the boot is started from the state s, with the identity of the layer below: its measurement, its CDI and
its key follow from its image, and LAYER tells it; layer 2 begins on the dispatch cores, where it takes Brass over from
layer 1, and layer 3 in the firmware contexts of the tile cores (01 R31 to R33, R35; 03 R94). -/
structure LayerStarted (s t : State) (n : Nat) (image : List Byte) : Prop where
  layer    : t.pkg.layer.toNat = n ∧ t.pkg.cause = 0 ∧ t.pkg.bootDone = decide (n = 3)
  measures : t.pkg.measures = s.pkg.measures ++ [Config.measure image]
  cdi      : t.pkg.cdi = Config.hmac s.pkg.cdi (Config.measure image)
  keys     : t.pkg.keys = s.pkg.keys ++ [Config.layerKey n t.pkg.cdi]
  dispatch : ∀ c : CoreId, if n = 2 ∧ 64 ≤ c.val then (getCore t c).busy = true ∧ SystemBegins (getCore t c).ctx
    else (getCore t c).busy = (getCore s c).busy ∧ (getCore t c).ctx = (getCore s c).ctx
  firmware : ∀ c : CoreId, if n = 3 ∧ c.val < 64
    then (getCore t c).fw.running = true ∧ SystemBegins (getCore t c).fw.ctx
    else (getCore t c).fw = (getCore s c).fw

/-- Boot has stopped with a cause: no tile core runs a task and no identity is held (01 R31, R36). -/
structure BootStopped (t : State) (cause : BitVec 4) : Prop where
  cause : t.pkg.cause = cause
  idle  : ∀ c : Fin 64, (getCore t (tile c)).busy = false ∧ (getCore t (tile c)).fw.running = false
  keys  : t.pkg.keys = [] ∧ t.pkg.cdi = []

/-- 01 R19, R28, R31 to R33 and R35 to R38: RESET leaves every block but the always-on domain as State.reset has it,
with the sampled connector capability, and NO-AUX-POWER and unpowered islands without one. BOOT_LAYER_START starts the
next layer, or stops boot with PUF, PART-RECORD or SIGNATURE (the last for a missing image too, which is the model's
choice, log 92); layer 0 takes the sub-array fences and the limited voltage trims of the part record and the contract,
or the default contract, and starts layer 1 on Brass; that it reconstructs its secret before it reads the part record
is the model's choice (log 16). A device that has halted or booted starts no layer. THERMAL_TRIP
halts the device, with the first cause kept, unpowers the islands and raises the alert; the dispatch cores go on. Layer
2 answers an attestation
request. -/
def DeviceBootsAndTrips : Prop :=
  ∀ s : State,
    (∀ conn, ∃ t, exec (.reset conn) s = .next t ∧ t.pkg.connector = wattsOf conn ∧
      t.pkg.cause = (if conn = .absent then 5
        else 0) ∧ t.pkg.layer = 0 ∧ t.pkg.bootDone = false ∧ t.pkg.flash = s.pkg.flash ∧
      t.pkg.umaddr = s.pkg.umaddr ∧ t.pkg.umdone = s.pkg.umdone ∧ t.hostMem = s.hostMem ∧
      t.cores = State.reset.cores ∧ t.gov = State.reset.gov ∧ t.disp = State.reset.disp ∧ t.contexts = [] ∧
      t.slots = State.reset.slots ∧ t.slices = State.reset.slices ∧ t.trapq = [] ∧ t.seq = 0 ∧ t.jobs = [] ∧ t.owned = [] ∧
      ∀ i, getIsland t i = { Island.reset with powered := decide (conn ≠ .absent) }) ∧
    (s.pkg.cause ≠ 0 ∨ s.pkg.bootDone = true → exec .bootLayerStart s = .next s) ∧
    (s.pkg.cause = 0 → s.pkg.bootDone = false →
      (∀ n : Nat, (n = 1 ∨ n = 2) → s.pkg.layer.toNat = n →
        let image := recordOf s (n + 1)
        (image ≠ [] → Config.verifies (n + 1) image = true →
          ∃ t, exec .bootLayerStart s = .next t ∧ LayerStarted s t (n + 1) image) ∧
        ((image = [] ∨ Config.verifies (n + 1) image = false) → ∃ t,
          exec .bootLayerStart s = .next t ∧ BootStopped t 1)) ∧
      (s.pkg.layer = 0 →
        let part := recordOf s 5
        let image := recordOf s 1
        (Config.deviceSecret (recordOf s 6) = none → ∃ t, exec .bootLayerStart s = .next t ∧ BootStopped t 2) ∧
        ∀ secret, Config.deviceSecret (recordOf s 6) = some secret →
          ((part = [] ∨ Config.verifies 5 part = false) → ∃ t, exec .bootLayerStart s = .next t ∧ BootStopped t 3) ∧
          (part ≠ [] → Config.verifies 5 part = true → image ≠ [] → Config.verifies 1 image = true →
            ∃ t, exec .bootLayerStart s = .next t ∧ t.pkg.layer = 1 ∧ t.pkg.cause = 0 ∧
              t.pkg.measures = [Config.measure Config.bootRom, Config.measure image] ∧
              t.pkg.cdi = Config.hmac (Config.hmac secret (Config.measure Config.bootRom)) (Config.measure image) ∧
              (∀ c : Fin 64, (getCore t (tile c)).fence = BitVec.ofNat 4 ((Config.partFields part).2 c.val)) ∧
              (∀ i op : Fin 16, (t.pkg.trims.get i).get op = max (-15) (min 15 (Config.partTrim part i.val op.val))) ∧
              t.pkg.seeds = Config.partSeeds part ∧
              (getCore t 64).busy = true ∧ SystemBegins (getCore t 64).ctx ∧ getCore t 65 = getCore s 65 ∧
              (recordOf s 4 = [] → t.pkg.contract = ⟨180, 180, 95⟩ ∧ t.pkg.contractDefault = true)))) ∧
    (∀ i, ∃ t, exec (.thermalTrip i) s = .next t ∧ t.pkg.cause = (if s.pkg.cause = 0 then 6 else s.pkg.cause) ∧
      t.pkg.bootDone = false ∧ (∀ c : Fin 64, (getCore t (tile c)).busy = false) ∧ (∀ c : CoreId, 64 ≤ c.val → getCore t c = getCore s c) ∧
      (∀ j, (getIsland t j).powered = false) ∧ t.disp.kernels = [] ∧
      t.pkg.bmcAlert = true ∧ t.sent.head? = some .bmcAlert) ∧
    ∀ nonce, exec (.attestationRequest nonce) s = .next (if s.pkg.layer.toNat < 2 ∨ s.pkg.cause ≠ 0 then s
      else { s with sent := .evidence (Config.evidence s.pkg.keys s.pkg.measures
        (s.slots.toList.map fun x => (x.wbase.toNat, x.wsize.toNat)) nonce) :: s.sent })

/-- s with an operation of the mailbox begun (01 R38). -/
def mailboxRuns (s : State) (o : MailOp) : State := { s with pkg := { s.pkg with umop := some o } }

/-- s with the request of the mailbox for n bytes of the host's buffer, as the physical function's (01 R38; 02 R41). -/
def mailboxAsks (s : State) (write : Bool) (n : Nat) : State :=
  { s with sent := .hostRequest 0 write s.pkg.umaddr.toNat n :: s.sent }

/-- 01 R37 and R38: the writes of UMCTL come as the MAILBOX events, with the operation and its fields. An operation that
is asked for while one runs is discarded. A WRITE with a wrong address, record or
a length of 0 will end with BAD-REQUEST, too long a one with TOO-LONG (after the checks for BAD-REQUEST, which is the
model's choice, log 57), an image or part record that fails its check with
SIGNATURE, and one that passes with OK and its bytes for the flash. A READ puts the length and, where it fits, the
record into the host's buffer. A REBOOT of a cool device resets it, but for the host port, and ends when layer 0 starts.
Any other operation ends with its result, BUSY clear and DONE one higher; the record that a WRITE brought is then the
one in force, or the old one where the flash failed. -/
def MailboxServesItsOperations : Prop :=
  ∀ (s : State) (r : BitVec 4) (n : BitVec 32), let n' := n.toNat
    let at_ := s.pkg.umaddr.toNat
    let longest := if r = 4 then 20480 else if r = 5 then 65536 else 16777216
    let data := memReadN s.hostMem at_ n'
    (s.pkg.umop ≠ none → exec (.mailboxWrite r n) s = .next s ∧ exec (.mailboxRead r n) s = .next s ∧
      ∀ hot, exec (.mailboxReboot hot) s = .next s) ∧
    (s.pkg.umop = none →
      (at_ % 64 ≠ 0 ∨ r = 0 ∨ 5 < r ∨ n' = 0 → exec (.mailboxWrite r n) s = .next (mailboxRuns s ⟨none, 1, false⟩)) ∧
      (at_ % 64 = 0 → r ≠ 0 → r ≤ 5 → longest < n' → exec (.mailboxWrite r n) s = .next (mailboxRuns s ⟨none, 3,
        false⟩)) ∧
      (at_ % 64 = 0 → r ∈ [1#4, 2, 3, 5] → n' ≠ 0 → n' ≤ longest → exec (.mailboxWrite r n) s =
        .next (mailboxRuns (mailboxAsks s false n')
          (if Config.verifies r.toNat data = true then ⟨some (r.toNat, data), 0, false⟩ else ⟨none, 2, false⟩))) ∧
      (at_ % 64 ≠ 0 ∨ r = 0 ∨ 6 < r ∨ n' < 8 → exec (.mailboxRead r n) s = .next (mailboxRuns s ⟨none, 1, false⟩)) ∧
      (at_ % 64 = 0 → r ≠ 0 → r ≤ 6 → 8 ≤ n' →
        let held := recordOf s (r.toNat)
        let out := natToBytes 8 held.length ++ if held.length + 8 ≤ n' then held else []
        Memory.wf s.hostMem = true → ∃ m, exec (.mailboxRead r n) s =
            .next (mailboxRuns { mailboxAsks s true out.length with hostMem := m }
              ⟨none, if held.length + 8 ≤ n' then 0 else 3, false⟩) ∧
          ∀ a, memRead m a = if at_ ≤ a ∧ a < at_ + out.length then out.getD (a - at_) 0 else memRead s.hostMem a) ∧
      exec (.mailboxReboot true) s = .next (mailboxRuns s ⟨none, 1, false⟩) ∧
      (at_ % 64 ≠ 0 → exec (.mailboxReboot false) s = .next (mailboxRuns s ⟨none, 1, false⟩)) ∧
      (at_ % 64 = 0 → s.pkg.connector ≠ 0 → ∃ t, exec (.mailboxReboot false) s = .next t ∧ t.pkg.layer = 0 ∧
        t.pkg.umop = some ⟨none, 0, true⟩ ∧ t.pkg.flash = s.pkg.flash ∧ t.links.hostBase = s.links.hostBase ∧
        t.links.bar2 = s.links.bar2 ∧ t.links.misroute = s.links.misroute ∧ ∀ c, (getCore t c).busy = false) ∧
      ∀ ok, exec (.mailboxOperationEnd ok) s = .next s) ∧
    (∀ o, s.pkg.umop = some o → o.reboot = true → (∀ ok, exec (.mailboxOperationEnd ok) s = .next s) ∧
      (s.pkg.cause = 0 → s.pkg.bootDone = false → s.pkg.layer = 0 → ∃ t, exec .bootLayerStart s = .next t ∧
        t.pkg.umop = none ∧ t.pkg.umresult = o.result ∧ t.pkg.umdone = s.pkg.umdone + 1)) ∧
    ∀ (o : MailOp) (ok : Bool), s.pkg.umop = some o → o.reboot = false → ∃ t,
      exec (.mailboxOperationEnd ok) s = .next t ∧
      t.pkg.umop = none ∧ t.pkg.umdone = s.pkg.umdone + 1 ∧
      (o.write = none → t.pkg.umresult = o.result ∧ t.pkg.flash = s.pkg.flash) ∧
      ∀ k : Fin 16, ∀ bytes, o.write = some (k.val, bytes) →
        if ok then t.pkg.umresult = o.result ∧
          t.pkg.flash = s.pkg.flash.set k.val ⟨bytes, (s.pkg.flash.get k).current⟩ k.isLt
        else t.pkg.umresult = 4 ∧ t.pkg.flash = s.pkg.flash

/-- A value held between two ends. -/
def held (lo hi v : Nat) : Nat := max lo (min hi v)

/-- 00 R8 and R9; 01 R36 and R37; 04 R104, R105 and R107; 05 R148; 10 R298: writes of whole registers. A device that has
halted takes none but of the mailbox: of UMADDR, which the host alone writes, while it runs too, and of UMCTL, at 0x140,
whose writes come as the MAILBOX events. GCTL, ECOST and an island's weights and points wait for the next boundary, held within their
ranges; CAL takes effect at once. The dispatch cores alone set the seed of the draws, for which 0 stores 1, and the
emergency areas, whose BUSY a 1 clears once what the area holds of a task is in the task's slot. A write that is not
aligned to its size is discarded (the model's choice). -/
def RegistersTakeTheirWrites : Prop :=
  ∀ (s : State) (v : Word),
    (∀ w off size, (size ≠ 1 ∧ size ≠ 2 ∧ size ≠ 4 ∧ size ≠ 8) ∨ off % size ≠ 0 →
      exec (.registerWrite w off size v) s = .next s) ∧
    (s.pkg.cause ≠ 0 → ∀ w off, off % 8 = 0 → off ≠ 0x140 → off ≠ 0x148 → exec (.registerWrite w off 8 v) s = .next s) ∧
    exec (.registerWrite (.host 0) 0x148 8 v) s = .next { s with pkg := { s.pkg with umaddr := v } } ∧
    (s.pkg.cause = 0 →
      (let ctl := (held 50 1000 (v.extractLsb' 0 10).toNat, held 180 420 (v.extractLsb' 10 9).toNat,
         v.extractLsb' 19 8, v.extractLsb' 27 8)
       exec (.registerWrite (.host 0) 0x400 8 v) s = .next { s with gov := { s.gov with newCtl := some ctl } }) ∧
      exec (.registerWrite (.host 0) 0x408 8 v) s = .next { s with gov := { s.gov with newEcost := some v } } ∧
      (∀ i : IslandId,
        let cfg := (v.extractLsb' 0 8, v.extractLsb' 8 8, v.extractLsb' 16 4,
          BitVec.ofNat 4 (max (v.extractLsb' 16 4).toNat (v.extractLsb' 20 4).toNat))
        exec (.registerWrite (.host 0) (0x800 + 32 * i.val) 8 v) s =
          .next (modIsland s i fun il => { il with newCfg := some cfg })) ∧
      (∀ (i : IslandId) (w : Writer), w = .host 0 ∨ w = .dispatch →
        exec (.registerWrite w (0x800 + 32 * i.val + 0x10) 8 v) s = .next (modIsland s i fun il =>
          { il with cal := BitVec.ofNat 32 (held 0x8000 0x20000 (v.extractLsb' 0 32).toNat) })) ∧
      (let seed := if v.extractLsb' 0 32 = 0 then 1 else v.extractLsb' 0 32
       exec (.registerWrite .dispatch 0x508 8 v) s = .next { s with disp := { s.disp with seed := seed, xstate := seed } } ∧
       exec (.registerWrite (.host 0) 0x508 8 v) s = .next s) ∧
      ∀ c : Fin 64, v.getLsbD 0 = false ∨ (∀ x ∈ s.disp.saved, x.emCore ≠ some c) →
        exec (.registerWrite .dispatch (0xE00 + 8 * c.val) 8 v) s = .next (modCore s (tile c) fun k =>
          { k with emBusy := k.emBusy && !v.getLsbD 0, emValid := v.getLsbD 1, emBase := v.extractLsb' 23 25 }))

/-- The 64 bits at an offset of BAR 0 of the physical function hold v: a read of them by the host, or by a dispatch
core, gives the 8 bytes of v, and of a byte of them that byte (00 R8; 07 R524). -/
def Reads (s : State) (off v : Nat) : Prop :=
  ∀ (r : List Turn) (w : Writer), w = .host 0 ∨ w = .dispatch →
    step { s with schedule := .registerRead w off 8 :: r } =
      .next { s with schedule := r, sent := .readData (natToBytes 8 v) :: s.sent } ∧
    ∀ i : Fin 8, step { s with schedule := .registerRead w (off + i.val) 1 :: r } =
      .next { s with schedule := r, sent := .readData [BitVec.ofNat 8 (v / 2 ^ (8 * i.val))] :: s.sent }

/-- 00 R8 and R9; 01 R35 and R37; 02 R44, R45, R50 and R62; 03 R73, R76 and R93; 04 R106; 05 R147; 10 R288, R293 and
R305; 07 R524: what reads of the registers give, with zero in reserved fields; a device that has halted answers for
BOOTSTAT and the mailbox. (That the host's reads ride on the schedule is the model's, log 100.) -/
def RegistersReadTheirFields : Prop :=
  ∀ s : State,
    Reads s 0x100 (s.pkg.layer.toNat + s.pkg.bootDone.toNat * 2 ^ 3 + s.pkg.cause.toNat * 2 ^ 4 +
      s.pkg.contractDefault.toNat * 2 ^ 8) ∧
    Reads s 0x148 s.pkg.umaddr.toNat ∧
    Reads s 0x150 (s.pkg.umop.isSome.toNat + s.pkg.umresult.toNat * 2 ^ 4 + s.pkg.umdone.toNat * 2 ^ 32) ∧
    (s.pkg.cause = 0 →
    Reads s 0x210 (s.links.hostBase.toNat * 2 ^ 12) ∧
    Reads s 0x220 ((s.links.misroute.get 0).toNat + (s.links.misroutes.get 0).toNat * 2 ^ 16) ∧
    Reads s 0x308 (s.disp.primary.toNat + s.disp.standbyOk.toNat * 2 + s.disp.takeover.toNat * 2 ^ 2 +
      s.disp.takeovers.toNat * 2 ^ 16) ∧
    (s.trapq.length < 512 → (∀ c : Fin 64, (getCore s (tile c)).latched = none) → Reads s 0xB00 s.trapq.length) ∧
    (∀ x : ContextId, let c := getContext s x.val
      Reads s (0x100000 + 32 * x.val) (c.enable.toNat + c.assignFail.toNat * 2 + c.func.toNat * 2 ^ 2 +
        c.asid.toNat * 2 ^ 16) ∧
      Reads s (0x100000 + 32 * x.val + 8) (c.log2size.toNat + c.cbase.toNat * 2 ^ 12) ∧
      Reads s (0x100000 + 32 * x.val + 16) (c.cprod.toNat + c.ccons.toNat * 2 ^ 16 + c.vector.toNat * 2 ^ 32) ∧
      Reads s (0x100000 + 32 * x.val + 24) (min c.held.length 0xFFFF) ∧
      Reads s (0x120000 + 32 * x.val) (c.saveMode.toNat + c.noMid.toNat * 2) ∧
      Reads s (0x2000000 + 4096 * x.val + 0x40) (64 - c.fifo.length + c.overrun.toNat * 2 ^ 7 + c.discards.toNat * 2 ^ 16) ∧
      Reads s (0x2000000 + 4096 * x.val) 0) ∧
    (∀ i : Fin 64, let x := s.slots.get i
      Reads s (0x110000 + 32 * i.val) (x.resident.toNat + x.owner.toNat * 2 + x.refs.toNat * 2 ^ 16 + x.wsize.toNat * 2 ^ 32) ∧
      Reads s (0x110000 + 32 * i.val + 8) (x.template.toNat * 2 ^ 8)) ∧
    ∀ q : Fin 64, let h := s.disp.hwqs.get q
      (∀ k ∈ s.disp.kernels, k.hwq ≠ q.val) → Reads s (0x600 + 8 * q.val) (h.swq.toNat + h.mapped.toNat * 2 ^ 12 +
        h.frozen.toNat * 2 ^ 13 + h.unmapping.toNat * 2 ^ 14 + h.tickets.toNat * 2 ^ 16))

/-- 00 R8 and R9; 01 R19 to R38; 04 R104 to R107; 05 R148; 10 R298: reset, boot, the trip and attestation, the mailbox,
and the registers. -/
def Obligations.PackageServesTheHost : Prop :=
  DeviceBootsAndTrips ∧ MailboxServesItsOperations ∧ RegistersTakeTheirWrites ∧ RegistersReadTheirFields

/-! ### The machine as a whole (00; 01 R19; 06 R157 to R160; 13 R351 to R364) -/

/-- Every stream that waits looks again (06 R188). -/
def looksAgain (s : State) : State :=
  { s with cores := s.cores.map fun k => { k with ctx := { k.ctx with
    streams := k.ctx.streams.map fun x => { x with waiting := false } } } }

/-- What becomes of the outcome of a word of a stream of core c, fetched in s: results of V-words land in the cycles that
have gone by while the V-stream waited (06 R184, R185), a pending trigger point notes that the A-stream has come past it
(14 R398), and, unless the stream waits, every waiting stream looks again (06 R188). -/
def resumed (s : State) (c : CoreId) (st : Stream) :
    Host.Outcome State Fault Refusal → Host.Outcome State Fault Refusal
  | .next t =>
    let u := noteTrigger (vWaited s c st t) c
    .next (if (getStream (getCore u c).ctx st).waiting then u else looksAgain u)
  | o => o

/-- s in which core c runs the word w in stream st: its first parcel is kept. -/
def atWord (s : State) (c : CoreId) (st : Stream) (w : Nat) : State :=
  { modCore s c fun k => { k with ir := BitVec.ofNat 32 w } with cur := c, curStream := st }

/-- A stream of core c finds the word w of n parcels at its pc, and v is s after the fetch of all of them (06 R157 to
R160). -/
def Finds (s v : State) (c : CoreId) (st : Stream) (n w : Nat) : Prop :=
  let t := (getCore s c).ctx
  let pc := (getStream t st).pc.toNat
  ∃ first rest u, fetchWord s c t.asid 1 pc = (.ok first, u) ∧ n = tagParcels (tagOf first) ∧
    fetchWord u c t.asid (n - 1) ((pc + 4) % 2 ^ 64) = (.ok rest, v) ∧ w = first + 2 ^ 32 * rest

/-- 06 R157 to R160 and R163; 13 R351: a step whose turn is a stream of core c that may issue. At a word of its own, or
a shared control word, that decodes to i, the step is exec of i, with the word's first parcel kept, the core and the
stream noted, and an S-word's issue slot counted as one that the firmware context did not take (03 R95). At a word of
its own that is refused, ILLEGAL-WORD is taken before any effect. A word of another stream, other than the S-stream's,
is passed by its length. A firmware turn of a tile core runs a word of its firmware context in the place of the core's
task, whose context then stands again, where FWSHARE gives it the slot (03 R94, R95; 14 R378; log 115 for what a fault
of it leaves). Turns of events run exec of the event, and with no turn given the turn goes to the stream that
the rotation picks (the model's own choice). -/
def TurnsRunTheirWord : Prop :=
  ∀ (s : State) (r : List Turn),
    (∀ c st, s.schedule = .stream c st :: r → mayIssue s c st = true → (getCore s c).ctx.atEntry = false →
      let s0 := { s with schedule := r }
      (∀ v n w i, Finds s0 v c st n w → (tagOf w = 15 ∨ tagStream (tagOf w) = some st) → decodeWord w = .ok i →
        let v' := if st = .s then passSlots v c [false] else v
        step s = resumed v c st (exec i (atWord v' c st w))) ∧
      (∀ v n w e, Finds s0 v c st n w → tagStream (tagOf w) = some st → decodeWord w = .error e →
        let b := atWord v c st w
        step s = .next (looksAgain (takeTrap b c (wordTrap b st .illegalWord 0 0 (4 * n))))) ∧
      (∀ w u, fetchWord s0 c (getCore s c).ctx.asid 1 (getStream (getCore s c).ctx st).pc.toNat = (.ok w, u) →
        tagOf w ≠ 15 → tagStream (tagOf w) ≠ some st → tagStream (tagOf w) ≠ some .s → step s =
          .next (noteTrigger (modCtx u c fun t =>
            let t := modStream t st fun x => { x with pc := x.pc + BitVec.ofNat 64 (4 * tagParcels (tagOf w)) }
            { t with streams := t.streams.map fun x => { x with waiting := false } }) c))) ∧
    (∀ c : Fin 64, s.schedule = .firmware c :: r →
      let k := getCore s (tile c)
      let s0 := { s with schedule := r }
      (k.fw.running = false ∨ k.offline = true ∨ s.pkg.cause ≠ 0 ∨ 2 ^ k.fwshare.toNat ≤ k.fw.slots.count true →
        step s = .next s0) ∧
      (k.fw.running = true → k.offline = false → s.pkg.cause = 0 → k.fw.slots.count true < 2 ^ k.fwshare.toNat →
        k.fw.ctx.atEntry = false → ∀ v n w i t,
          Finds (modCore (passSlots s0 (tile c) [true]) (tile c) fun k =>
            { k with busy := true, stop := none, ctx := k.fw.ctx, fw := { k.fw with ctx := k.ctx } }) v (tile c) .s n w →
          (tagOf w = 15 ∨ tagStream (tagOf w) = some .s) → decodeWord w = .ok i →
          resumed v (tile c) .s (exec i (atWord v (tile c) .s w)) = .next t →
          step s = .next (leaveFirmware k t (tile c)))) ∧
    (∀ i, (s.schedule = .event i :: r ∨ (s.schedule = [] ∧ ∃ l, s.inputs = i :: l)) → encodeWord i = none → ∀ t,
      exec i { s with schedule := s.schedule.tail, inputs := if s.schedule = [] then s.inputs.tail else s.inputs } = .next t →
        step s = .next (looksAgain t)) ∧
    (∀ n, s.schedule = [] → s.inputs = [] → pickFrom s s.rotor = some n →
      step s = step { s with rotor := n + 1, schedule := [.stream (turnOf n).1 (turnOf n).2] })

/-- 06 R157 and R160; 07 R204, R205 and R207: a parcel whose page the core's instruction TLB holds, with X, in this
card's memory, and whose line neither the core nor its island holds, is the four bytes of memory at its physical
address. -/
def TextComesFromMemory : Prop :=
  ∀ (s : State) (c : CoreId) (asid : BitVec 16) (pc : Nat) (e : TlbEntry), pc % 4 = 0 → pc < 2 ^ 64 →
    (getCore s c).itlb.find? (fun e => e.fetch && (e.asid == asid || e.leaf.getLsbD 10) &&
      e.va / 2 ^ e.bits == pc / 2 ^ e.bits) = some e →
    e.leaf.getLsbD 6 = true → 12 ≤ e.bits → e.pa % 64 = 0 → (∀ o, o < 2 ^ e.bits → placeOf s (e.pa + o) = .local) →
    (∀ l ∈ (getCore s c).icache, l.asid = asid → l.tag ≠ pc / 64) →
    (∀ l ∈ (getIsland s (islandOf c)).ibuf, l.asid = asid → l.tag ≠ pc / 64) →
    let pa := e.pa + pc % 2 ^ e.bits
    ∃ u, fetchParcel s c asid pc =
      (some (memRead s.mem (pa + 3) ++ memRead s.mem (pa + 2) ++ memRead s.mem (pa + 1) ++ memRead s.mem pa), u) ∧
      u.mem = s.mem

/-- 06 R157 to R160 and 13 R351: a step runs the word that the bytes at the stream's pc decode to. -/
def Obligations.StepRunsTheDecodedInstruction : Prop := TurnsRunTheirWord ∧ TextComesFromMemory

/-- 13 R353 to R364: the worked encodings of 13 to 18, each with the word that it stands for. -/
def Obligations.WorkedEncodingsDecode : Prop :=
  (∀ w i, (w, i) ∈ [(0x010C4140, Instr.add 3 4 5), (0x010420C1, .sub 1 2 3), (0x08210FFF, .addi 8 16 (-1)),
      (0x101FFFFE, .liw 7 (-2)), (0x11156789, .lis 5 0x16789), (0x15486064, .cmpi 2 2 6 100),
        (0x171C8242, .sel 7 8 9 2),
      (0x16298008, .plog 1 2 3 8), (0x21104000, .qpop 4 2), (0x20142000, .qpush 5 1), (0x24000003, .tsig 3),
      (0x28080010, .csrr 2 0x10), (0x29004010, .csrw 0 4 0x10), (0x3100C000, .fmtpush 12), (0x30004142, .nestw 4 5 2),
      (0x35083000, .evwait 2 3), (0x40000007, .trap 7), (0x41000000, .rett), (0x70184149, .launch 6 4 5 9),
      (0x71004141, .invr 4 5 false 1), (0xF201FFFE, .loop 1 (-2)), (0xF4090000, .calli 9),
        (0xF160FFFB, .br 3 false (-5)),
      (0xF003_0000, .nopx 3), (0xF700_0000, .endw 0 false), (0xF600_0002, .yield 2),
      (0x9C000000, .mark), (0x82213F00, .aaddi 4 4 (-256)), (0x8429_8E03, .ashadd 5 6 7 3),
        (0x871000FE, .amovi 2 0 0xFE),
      (0x8818_0000, .areloc 3 0), (0x9010E001, .lq 2 3 4 1), (0xB0000002, .barr 2), (0xB82_01007, .scdecTry 4 0 7),
      (0xA8298043, .rclaim 5 6 67), (0xBD00C000, .job 3), (0xBF480001, .srpop 9 true)] →
    decodeTableWord 32 w = some i) ∧
  decodeTableWord 96 0x00001009_0142100A_C0180010 =
    some (.vadd ⟨8, 1, false, 0, false, 10, 8, 322, 0, 9, 8, 0, 0, 0⟩) ∧
  decodeTableWord 96 0x81800000_10071007_C28A0010 =
    some (.vshl ⟨10, 1, false, 0, false, 7, 8, 7, 8, 0, 0, 0, 0, 0x103⟩) ∧
  decodeTableWord 192 0x00000400_00000008_01000600_04000005_007E7F3F_D0143000 =
    some (.mstep ⟨false, true, false, false, 3, 63, 127, 63, 5, false, 0, 4, 6, false, 256, 8, 0, 128⟩) ∧
  decodeTableWord 192 0x01008007_C0040500_E0108000 =
    some (.psub ⟨0, 0x4000, 0, 0x405, 0x1E00, 1, 0x201, 0, 0, 0, 0, 0, 0⟩)

/-- 13 R351 to R364: for every word, with every operand that its encoding admits, the bytes of its encoding decode to
it, with whatever follows left over; and a word that decodes has the encoding that it was read from, so no bit of it is
lost. -/
def Obligations.EncodingAndDecodingAgree : Prop :=
  (∀ (i : Instr) (w : Nat), encodeWord i = some w → i.wellFormed = true →
    ∀ later, decode (encodeBytes i ++ later) = .ok (i, later)) ∧
  (∀ (text : List Byte) (i : Instr) (later : List Byte), decode text = .ok (i, later) →
    i.wellFormed = true ∧ encodeBytes i ++ later = text)

/-- 06 R183 and 07 R199 (the form is the model's own): every step keeps the memories of the card and of the host in
their canonical form, so that equal memories are equal data. -/
def Obligations.StepsKeepMemoriesCanonical : Prop :=
  ∀ s t : State, memoryOk s → step s = .next t → memoryOk t

/-- 00, 01 R19, R35 and R37, 02 R50 and R62, 03 R73, R76, R85, R93 and R95, 04 R97 and R104 to R107, 05 R147, R148 and
R152, 06 R168 and R182, 07 R199, R201 and R217, 10 R293 and R298: what reset leaves, for the values that the spec
states; that a tile core, which holds no task yet, has X and P, and every fresh bit, as a launch leaves them is the model's
choice (log 4; 06 R182 gives them for a launch). -/
def Obligations.ResetLeavesTheStatedValues : Prop :=
  let s := State.reset
  (∀ i : IslandId, let il := getIsland s i
    il.op = 7 ∧ il.weight = 16 ∧ il.gfix = 0 ∧ il.opmin = 0 ∧ il.opmax = 15 ∧ il.downPend = false ∧ il.grant = 0 ∧
    il.debt = 0 ∧ il.cal = 0x00010000 ∧ il.mmeter = 0 ∧ il.warns = 0 ∧ il.cache = []) ∧
  s.gov.gint = 100 ∧ s.gov.plimit = 350 ∧ s.gov.hubres = 8 ∧ s.gov.memres = 10 ∧ s.gov.ecost = 0x1414080503020100 ∧
  s.gov.epoch = 0 ∧ s.gov.cb = 0 ∧ s.gov.envelope = false ∧
  s.disp.drawMode = false ∧ s.disp.seed = 1 ∧ s.disp.xstate = 1 ∧
  (∀ q : Fin 64, let h := s.disp.hwqs.get q
    h.swq = 0 ∧ h.mapped = false ∧ h.frozen = false ∧ h.unmapping = false ∧ h.tickets = 1) ∧
  (∀ c : Fin 64, let k := getCore s (tile c)
    k.busy = false ∧ k.fwshare = 2 ∧ k.offline = false ∧ k.l1 = [] ∧ k.freshRegs = BitVec.allOnes 4352 ∧
    k.freshScratch = BitVec.allOnes 1024 ∧ k.freshBanks = BitVec.allOnes 64 ∧ k.emValid = false ∧ k.emBusy = false ∧
    k.ctx.csr.trecSlot = 63 ∧ k.ctx.csr.tvec = 0 ∧ k.ctx.csr.vlc = 1 ∧ k.ctx.csr.sti = 4096 ∧
    k.ctx.x = Vector.replicate 64 0 ∧ k.ctx.pr = 1) ∧
  (∀ i : Fin 64, (s.slices.get i).owner = none ∧ (s.slices.get i).scrub = false ∧ (s.slots.get i).resident = false) ∧
  (∀ i : Fin 64, s.slots.get i = ⟨false, 0, 0, 0, 0, 0, 0⟩) ∧
  (∀ x, let k := getContext s x
    k.enable = false ∧ k.assignFail = false ∧ k.func = 0 ∧ k.asid = 0 ∧ k.log2size = 0 ∧ k.cbase = 0 ∧ k.cprod = 0 ∧
    k.ccons = 0 ∧ k.vector = 0 ∧ k.overrun = false ∧ k.discards = 0 ∧ k.saveMode = false ∧ k.noMid = false ∧
    k.saveOff = 0 ∧ k.saveRegion = 0 ∧ k.saveSlots = 0) ∧
  s.astBase = 0 ∧ s.fclassOp = 0xF84 ∧ s.disp.log2n = 10 ∧ s.disp.jbase = 0 ∧ s.disp.primary = false ∧
  s.disp.standbyOk = false ∧ s.disp.takeovers = 0 ∧ s.links.hostBase = 0 ∧ s.links.trained = false ∧
  s.links.paired = false ∧ s.links.card = false ∧ s.links.replays = 0 ∧ s.links.bar2 = 30 ∧ s.pkg.umaddr = 0 ∧ s.pkg.umresult = 0 ∧
  s.pkg.umdone = 0 ∧ s.pkg.layer = 0 ∧ s.pkg.cause = 0 ∧ s.pkg.bootDone = false ∧ memoryOk s
end

