-- ==== Sys2Proof/Laws/Arms.lean ====
section
/-!
SUPPORT. Each instruction's meaning: one equation for each arm of exec.
-/
namespace Sys2Proof.Machine

theorem exec_doorbellForward (core : Fin 64) (s : State) : exec (.doorbellForward core) s = execDoorbellForward core s := rfl
theorem exec_collectiveChunk (ctag : BitVec 16) (chunk : Nat) (data : List Byte) (s : State) : exec (.collectiveChunk ctag chunk data) s = execCollectiveChunk ctag chunk data s := rfl
theorem exec_collectiveMatch (ctag : BitVec 16) (op fmt : Nat) (count : Nat) (s : State) : exec (.collectiveMatch ctag op fmt count) s = execCollectiveMatch ctag op fmt count s := rfl
theorem exec_launchPacket (x : ContextId) (s : State) : exec (.launchPacket x) s = execLaunchPacket x s := rfl
theorem exec_armPacket (x : ContextId) (s : State) : exec (.armPacket x) s = execArmPacket x s := rfl
theorem exec_disarmPacket (x : ContextId) (s : State) : exec (.disarmPacket x) s = execDisarmPacket x s := rfl
theorem exec_firePacket (x : ContextId) (s : State) : exec (.firePacket x) s = execFirePacket x s := rfl
theorem exec_fencePacket (x : ContextId) (s : State) : exec (.fencePacket x) s = execFencePacket x s := rfl
theorem exec_frequencyClassHoldEnd (k : Nat) (s : State) : exec (.frequencyClassHoldEnd k) s = execFrequencyClassHoldEnd k s := rfl
theorem exec_cconsWrite (x : ContextId) (v : BitVec 16) (s : State) : exec (.cconsWrite x v) s = execCconsWrite x v s := rfl
theorem exec_kernelCompletion (kernel : Nat) (s : State) : exec (.kernelCompletion kernel) s = execKernelCompletion kernel s := rfl
theorem exec_operatingPointSwitch (i : IslandId) (s : State) : exec (.operatingPointSwitch i) s = execOperatingPointSwitch i s := rfl
theorem exec_meterUnit (i : IslandId) (s : State) : exec (.meterUnit i) s = execMeterUnit i s := rfl
theorem exec_settle (k : Nat) (s : State) : exec (.settle k) s = execSettle k s := rfl
theorem exec_draw (c : Fin 64) (s : State) : exec (.draw c) s = execDraw c s := rfl
theorem exec_resume (c : Fin 64) (s : State) : exec (.resume c) s = execResume c s := rfl
theorem exec_watchdog (c : Fin 64) (s : State) : exec (.watchdog c) s = execWatchdog c s := rfl
theorem exec_triggerReport (c : Fin 64) (s : State) : exec (.triggerReport c) s = execTriggerReport c s := rfl
theorem exec_taskEnd (c : Fin 64) (s : State) : exec (.taskEnd c) s = execTaskEnd c s := rfl
theorem exec_deadlock (c : Fin 64) (s : State) : exec (.deadlock c) s = execDeadlock c s := rfl
theorem exec_capture (c : CoreId) (s : State) : exec (.capture c) s = execCapture c s := rfl
theorem exec_yieldTimeout (c : Fin 64) (s : State) : exec (.yieldTimeout c) s = execYieldTimeout c s := rfl
theorem exec_yieldSaveComplete (c : Fin 64) (s : State) : exec (.yieldSaveComplete c) s = execYieldSaveComplete c s := rfl
theorem exec_selfTest (c : Fin 64) (s : State) : exec (.selfTest c) s = execSelfTest c s := rfl
theorem exec_selfTestEnd (c : Fin 64) (failed : BitVec 4) (s : State) : exec (.selfTestEnd c failed) s = execSelfTestEnd c failed s := rfl
theorem exec_pageWalk (c : CoreId) (va : VAddr) (kind : WalkKind) (s : State) : exec (.pageWalk c va kind) s = execPageWalk c va kind s := rfl
theorem exec_invalidationComplete (c : CoreId) (s : State) : exec (.invalidationComplete c) s = execInvalidationComplete c s := rfl
theorem exec_sliceScrubDone (slice : Fin 64) (s : State) : exec (.sliceScrubDone slice) s = execSliceScrubDone slice s := rfl
theorem exec_loadReturn (c : CoreId) (k : Nat) (s : State) : exec (.loadReturn c k) s = execLoadReturn c k s := rfl
theorem exec_storePerformed (c : CoreId) (k : Nat) (s : State) : exec (.storePerformed c k) s = execStorePerformed c k s := rfl
theorem exec_atomicPerformed (c : CoreId) (s : State) : exec (.atomicPerformed c) s = execAtomicPerformed c s := rfl
theorem exec_monitorSpuriousWake (c : CoreId) (s : State) : exec (.monitorSpuriousWake c) s = execMonitorSpuriousWake c s := rfl
theorem exec_vResultLand (c : Fin 64) (s : State) : exec (.vResultLand c) s = execVResultLand c s := rfl
theorem exec_tileCommandEnd (c : Fin 64) (s : State) : exec (.tileCommandEnd c) s = execTileCommandEnd c s := rfl
theorem exec_pWordLand (c : Fin 64) (s : State) : exec (.pWordLand c) s = execPWordLand c s := rfl
theorem exec_engineJobStart (n : Nat) (s : State) : exec (.engineJobStart n) s = execEngineJobStart n s := rfl
theorem exec_jobCompletion (n : Nat) (s : State) : exec (.jobCompletion n) s = execJobCompletion n s := rfl
theorem exec_samplerDraw (n : Nat) (s : State) : exec (.samplerDraw n) s = execSamplerDraw n s := rfl
theorem exec_governorBoundary (hot warm : BitVec 16) (s : State) : exec (.governorBoundary hot warm) s = execGovernorBoundary hot warm s := rfl
theorem exec_dispatchHalt (flash : Bool) (s : State) : exec (.dispatchHalt flash) s = execDispatchHalt flash s := rfl
theorem exec_mailboxOperationEnd (flashOk : Bool) (s : State) : exec (.mailboxOperationEnd flashOk) s = execMailboxOperationEnd flashOk s := rfl
theorem exec_latchmapClear (c : Fin 64) (s : State) : exec (.latchmapClear c) s = execLatchmapClear c s := rfl
theorem exec_add (d a b : Fin 64) (s : State) : exec (.add d a b) s = execAdd d a b s := rfl
theorem exec_sub (d a b : Fin 64) (s : State) : exec (.sub d a b) s = execSub d a b s := rfl
theorem exec_and (d a b : Fin 64) (s : State) : exec (.and d a b) s = execAnd d a b s := rfl
theorem exec_or (d a b : Fin 64) (s : State) : exec (.or d a b) s = execOr d a b s := rfl
theorem exec_xor (d a b : Fin 64) (s : State) : exec (.xor d a b) s = execXor d a b s := rfl
theorem exec_sll (d a b : Fin 64) (s : State) : exec (.sll d a b) s = execSll d a b s := rfl
theorem exec_srl (d a b : Fin 64) (s : State) : exec (.srl d a b) s = execSrl d a b s := rfl
theorem exec_sra (d a b : Fin 64) (s : State) : exec (.sra d a b) s = execSra d a b s := rfl
theorem exec_min (d a b : Fin 64) (s : State) : exec (.min d a b) s = execMin d a b s := rfl
theorem exec_max (d a b : Fin 64) (s : State) : exec (.max d a b) s = execMax d a b s := rfl
theorem exec_minn (d a b : Fin 64) (s : State) : exec (.minn d a b) s = execMinn d a b s := rfl
theorem exec_maxn (d a b : Fin 64) (s : State) : exec (.maxn d a b) s = execMaxn d a b s := rfl
theorem exec_clz (d a : Fin 64) (s : State) : exec (.clz d a) s = execClz d a s := rfl
theorem exec_ctz (d a : Fin 64) (s : State) : exec (.ctz d a) s = execCtz d a s := rfl
theorem exec_popc (d a : Fin 64) (s : State) : exec (.popc d a) s = execPopc d a s := rfl
theorem exec_mul (d a b : Fin 64) (s : State) : exec (.mul d a b) s = execMul d a b s := rfl
theorem exec_mulh (d a b : Fin 64) (s : State) : exec (.mulh d a b) s = execMulh d a b s := rfl
theorem exec_mulhn (d a b : Fin 64) (s : State) : exec (.mulhn d a b) s = execMulhn d a b s := rfl
theorem exec_div (d a b : Fin 64) (s : State) : exec (.div d a b) s = execDiv d a b s := rfl
theorem exec_divn (d a b : Fin 64) (s : State) : exec (.divn d a b) s = execDivn d a b s := rfl
theorem exec_rem (d a b : Fin 64) (s : State) : exec (.rem d a b) s = execRem d a b s := rfl
theorem exec_remn (d a b : Fin 64) (s : State) : exec (.remn d a b) s = execRemn d a b s := rfl
theorem exec_addi (d a : Fin 64) (imm : BitVec 12) (s : State) : exec (.addi d a imm) s = execAddi d a imm s := rfl
theorem exec_andi (d a : Fin 64) (imm : BitVec 12) (s : State) : exec (.andi d a imm) s = execAndi d a imm s := rfl
theorem exec_ori (d a : Fin 64) (imm : BitVec 12) (s : State) : exec (.ori d a imm) s = execOri d a imm s := rfl
theorem exec_xori (d a : Fin 64) (imm : BitVec 12) (s : State) : exec (.xori d a imm) s = execXori d a imm s := rfl
theorem exec_slli (d a : Fin 64) (sh : BitVec 6) (s : State) : exec (.slli d a sh) s = execSlli d a sh s := rfl
theorem exec_srli (d a : Fin 64) (sh : BitVec 6) (s : State) : exec (.srli d a sh) s = execSrli d a sh s := rfl
theorem exec_srai (d a : Fin 64) (sh : BitVec 6) (s : State) : exec (.srai d a sh) s = execSrai d a sh s := rfl
theorem exec_liw (d : Fin 64) (imm : BitVec 18) (s : State) : exec (.liw d imm) s = execLiw d imm s := rfl
theorem exec_lis (d : Fin 64) (imm : BitVec 18) (s : State) : exec (.lis d imm) s = execLis d imm s := rfl
theorem exec_cmp (p : Fin 8) (cc : BitVec 3) (a b : Fin 64) (s : State) : exec (.cmp p cc a b) s = execCmp p cc a b s := rfl
theorem exec_cmpi (p : Fin 8) (cc : BitVec 3) (a : Fin 64) (imm : BitVec 12) (s : State) : exec (.cmpi p cc a imm) s = execCmpi p cc a imm s := rfl
theorem exec_plog (d a b : Fin 8) (table : BitVec 4) (s : State) : exec (.plog d a b table) s = execPlog d a b table s := rfl
theorem exec_sel (d a b : Fin 64) (p : Fin 8) (s : State) : exec (.sel d a b p) s = execSel d a b p s := rfl
theorem exec_lds (d a : Fin 64) (imm : BitVec 12) (s : State) : exec (.lds d a imm) s = execLds d a imm s := rfl
theorem exec_sts (src a : Fin 64) (imm : BitVec 12) (s : State) : exec (.sts src a imm) s = execSts src a imm s := rfl
theorem exec_ldarg (d : Fin 64) (n : BitVec 12) (s : State) : exec (.ldarg d n) s = execLdarg d n s := rfl
theorem exec_qpush (src : Fin 64) (q : BitVec 5) (s : State) : exec (.qpush src q) s = execQpush src q s := rfl
theorem exec_qpop (d : Fin 64) (q : BitVec 5) (s : State) : exec (.qpop d q) s = execQpop d q s := rfl
theorem exec_qstat (d : Fin 64) (q : BitVec 5) (s : State) : exec (.qstat d q) s = execQstat d q s := rfl
theorem exec_tsig (t : Fin 16) (s : State) : exec (.tsig t) s = execTsig t s := rfl
theorem exec_twait (t : Fin 16) (s : State) : exec (.twait t) s = execTwait t s := rfl
theorem exec_csrr (d : Fin 64) (csr : BitVec 12) (s : State) : exec (.csrr d csr) s = execCsrr d csr s := rfl
theorem exec_csrw (d a : Fin 64) (csr : BitVec 12) (s : State) : exec (.csrw d a csr) s = execCsrw d a csr s := rfl
theorem exec_csrs (d a : Fin 64) (csr : BitVec 12) (s : State) : exec (.csrs d a csr) s = execCsrs d a csr s := rfl
theorem exec_csrc (d a : Fin 64) (csr : BitVec 12) (s : State) : exec (.csrc d a csr) s = execCsrc d a csr s := rfl
theorem exec_nestw (a b : Fin 64) (level : BitVec 3) (s : State) : exec (.nestw a b level) s = execNestw a b level s := rfl
theorem exec_fmtpush (a : Fin 64) (s : State) : exec (.fmtpush a) s = execFmtpush a s := rfl
theorem exec_evpop (d e : Fin 64) (s : State) : exec (.evpop d e) s = execEvpop d e s := rfl
theorem exec_evwait (d e : Fin 64) (s : State) : exec (.evwait d e) s = execEvwait d e s := rfl
theorem exec_budget (d : Fin 64) (sel : BitVec 12) (s : State) : exec (.budget d sel) s = execBudget d sel s := rfl
theorem exec_joule (d : Fin 64) (sel : BitVec 12) (s : State) : exec (.joule d sel) s = execJoule d sel s := rfl
theorem exec_varsel (d a : Fin 64) (imm : BitVec 12) (s : State) : exec (.varsel d a imm) s = execVarsel d a imm s := rfl
theorem exec_trap (imm : BitVec 12) (s : State) : exec (.trap imm) s = execTrap imm s := rfl
theorem exec_rett (s : State) : exec (.rett) s = execRett s := rfl
theorem exec_trigger (s : State) : exec (.trigger) s = execTrigger s := rfl
theorem exec_specon (j c : Fin 64) (n : BitVec 4) (s : State) : exec (.specon j c n) s = execSpecon j c n s := rfl
theorem exec_speccommit (d a : Fin 64) (s : State) : exec (.speccommit d a) s = execSpeccommit d a s := rfl
theorem exec_specabort (s : State) : exec (.specabort) s = execSpecabort s := rfl
theorem exec_launch (d a b : Fin 64) (q : BitVec 6) (s : State) : exec (.launch d a b q) s = execLaunch d a b q s := rfl
theorem exec_invr (a b : Fin 64) (allAsids : Bool) (kind : BitVec 2) (s : State) : exec (.invr a b allAsids kind) s = execInvr a b allAsids kind s := rfl
theorem exec_reclass (d a b : Fin 64) (s : State) : exec (.reclass d a b) s = execReclass d a b s := rfl
theorem exec_haltc (d a : Fin 64) (off : Bool) (s : State) : exec (.haltc d a off) s = execHaltc d a off s := rfl
theorem exec_nopx (streams : BitVec 4) (s : State) : exec (.nopx streams) s = execNopx streams s := rfl
theorem exec_br (p : Fin 8) (neg : Bool) (off : BitVec 16) (s : State) : exec (.br p neg off) s = execBr p neg off s := rfl
theorem exec_loop (lc : Fin 4) (off : BitVec 16) (s : State) : exec (.loop lc off) s = execLoop lc off s := rfl
theorem exec_call (p : Fin 8) (neg : Bool) (off : BitVec 16) (s : State) : exec (.call p neg off) s = execCall p neg off s := rfl
theorem exec_calli (a : Fin 64) (s : State) : exec (.calli a) s = execCalli a s := rfl
theorem exec_ret (p : Fin 8) (neg : Bool) (s : State) : exec (.ret p neg) s = execRet p neg s := rfl
theorem exec_yield (i : BitVec 16) (s : State) : exec (.yield i) s = execYield i s := rfl
theorem exec_endw (p : Fin 8) (neg : Bool) (s : State) : exec (.endw p neg) s = execEndw p neg s := rfl
theorem exec_anop (s : State) : exec (.anop) s = execAnop s := rfl
theorem exec_aadd (d b c : Fin 32) (s : State) : exec (.aadd d b c) s = execAadd d b c s := rfl
theorem exec_aaddi (d b : Fin 32) (imm : BitVec 14) (s : State) : exec (.aaddi d b imm) s = execAaddi d b imm s := rfl
theorem exec_asub (d b c : Fin 32) (s : State) : exec (.asub d b c) s = execAsub d b c s := rfl
theorem exec_ashadd (d b c : Fin 32) (sh : BitVec 6) (s : State) : exec (.ashadd d b c sh) s = execAshadd d b c sh s := rfl
theorem exec_amovq (d b : Fin 32) (f : BitVec 2) (s : State) : exec (.amovq d b f) s = execAmovq d b f s := rfl
theorem exec_aregRead (d : Fin 32) (w : BitVec 2) (n : Fin 4) (s : State) : exec (.aregRead d w n) s = execAregRead d w n s := rfl
theorem exec_aregWrite (b : Fin 32) (w : BitVec 2) (n : Fin 4) (s : State) : exec (.aregWrite b w n) s = execAregWrite b w n s := rfl
theorem exec_amovi (d b : Fin 32) (r : BitVec 8) (s : State) : exec (.amovi d b r) s = execAmovi d b r s := rfl
theorem exec_areloc (d : Fin 32) (n : Fin 8) (s : State) : exec (.areloc d n) s = execAreloc d n s := rfl
theorem exec_lq (q : BitVec 5) (b : Fin 32) (size : BitVec 3) (imm : BitVec 11) (s : State) : exec (.lq q b size imm) s = execLq q b size imm s := rfl
theorem exec_lqs (q : BitVec 5) (b c : Fin 32) (strided : Bool) (size : BitVec 3) (s : State) : exec (.lqs q b c strided size) s = execLqs q b c strided size s := rfl
theorem exec_lqg (q : BitVec 5) (b c : Fin 32) (size : BitVec 3) (s : State) : exec (.lqg q b c size) s = execLqg q b c size s := rfl
theorem exec_sq (q : BitVec 5) (b : Fin 32) (size : BitVec 3) (imm : BitVec 11) (s : State) : exec (.sq q b size imm) s = execSq q b size imm s := rfl
theorem exec_sqs (q : BitVec 5) (b c : Fin 32) (strided signal : Bool) (size : BitVec 3) (s : State) : exec (.sqs q b c strided signal size) s = execSqs q b c strided signal size s := rfl
theorem exec_lx (d b : Fin 32) (size : BitVec 3) (imm : BitVec 11) (s : State) : exec (.lx d b size imm) s = execLx d b size imm s := rfl
theorem exec_sx (src b : Fin 32) (size : BitVec 3) (imm : BitVec 11) (s : State) : exec (.sx src b size imm) s = execSx src b size imm s := rfl
theorem exec_pref (level : BitVec 5) (b : Fin 32) (size : BitVec 3) (imm : BitVec 11) (s : State) : exec (.pref level b size imm) s = execPref level b size imm s := rfl
theorem exec_append (q : BitVec 5) (w : BitVec 5) (size : BitVec 3) (s : State) : exec (.append q w size) s = execAppend q w size s := rfl
theorem exec_mark (s : State) : exec (.mark) s = execMark s := rfl
theorem exec_acq (scope : BitVec 3) (s : State) : exec (.acq scope) s = execAcq scope s := rfl
theorem exec_rel (scope : BitVec 3) (s : State) : exec (.rel scope) s = execRel scope s := rfl
theorem exec_fence (scope : BitVec 3) (s : State) : exec (.fence scope) s = execFence scope s := rfl
theorem exec_amo (d b c : Fin 32) (signal wide : Bool) (op : BitVec 4) (s : State) : exec (.amo d b c signal wide op) s = execAmo d b c signal wide op s := rfl
theorem exec_acas (d b c : Fin 32) (signal wide : Bool) (s : State) : exec (.acas d b c signal wide) s = execAcas d b c signal wide s := rfl
theorem exec_red (b c : Fin 32) (signal wide : Bool) (op : BitVec 4) (s : State) : exec (.red b c signal wide op) s = execRed b c signal wide op s := rfl
theorem exec_waita (d b c : Fin 32) (wide : Bool) (s : State) : exec (.waita d b c wide) s = execWaita d b c wide s := rfl
theorem exec_rclaim (d b : Fin 32) (imm : BitVec 11) (s : State) : exec (.rclaim d b imm) s = execRclaim d b imm s := rfl
theorem exec_rpub (src b : Fin 32) (imm : BitVec 11) (s : State) : exec (.rpub src b imm) s = execRpub src b imm s := rfl
theorem exec_rwaitf (d b : Fin 32) (imm : BitVec 11) (s : State) : exec (.rwaitf d b imm) s = execRwaitf d b imm s := rfl
theorem exec_rfree (b : Fin 32) (imm : BitVec 11) (s : State) : exec (.rfree b imm) s = execRfree b imm s := rfl
theorem exec_rstatRead (d b : Fin 32) (imm : BitVec 11) (s : State) : exec (.rstatRead d b imm) s = execRstatRead d b imm s := rfl
theorem exec_rstatSet (d b : Fin 32) (imm : BitVec 11) (s : State) : exec (.rstatSet d b imm) s = execRstatSet d b imm s := rfl
theorem exec_barr (b : Fin 16) (s : State) : exec (.barr b) s = execBarr b s := rfl
theorem exec_bwait (b : Fin 16) (s : State) : exec (.bwait b) s = execBwait b s := rfl
theorem exec_bexpect (a : Fin 32) (b : Fin 16) (s : State) : exec (.bexpect a b) s = execBexpect a b s := rfl
theorem exec_brot (s : State) : exec (.brot) s = execBrot s := rfl
theorem exec_scdecWait (d b : Fin 32) (o : BitVec 12) (s : State) : exec (.scdecWait d b o) s = execScdecWait d b o s := rfl
theorem exec_scdecTry (d b : Fin 32) (o : BitVec 12) (s : State) : exec (.scdecTry d b o) s = execScdecTry d b o s := rfl
theorem exec_scdecRes (d b : Fin 32) (o : BitVec 12) (s : State) : exec (.scdecRes d b o) s = execScdecRes d b o s := rfl
theorem exec_scinc (d b : Fin 32) (o : BitVec 12) (s : State) : exec (.scinc d b o) s = execScinc d b o s := rfl
theorem exec_scrd (d b : Fin 32) (o : BitVec 12) (s : State) : exec (.scrd d b o) s = execScrd d b o s := rfl
theorem exec_scrdx (d b : Fin 32) (o : BitVec 12) (s : State) : exec (.scrdx d b o) s = execScrdx d b o s := rfl
theorem exec_scinit (d b : Fin 32) (o : BitVec 12) (s : State) : exec (.scinit d b o) s = execScinit d b o s := rfl
theorem exec_job (b : Fin 32) (s : State) : exec (.job b) s = execJob b s := rfl
theorem exec_sample (b : Fin 32) (s : State) : exec (.sample b) s = execSample b s := rfl
theorem exec_srpop (d : Fin 32) (f : Bool) (s : State) : exec (.srpop d f) s = execSrpop d f s := rfl
theorem exec_vadd (f : VFields) (s : State) : exec (.vadd f) s = execVadd f s := rfl
theorem exec_vsub (f : VFields) (s : State) : exec (.vsub f) s = execVsub f s := rfl
theorem exec_vmul (f : VFields) (s : State) : exec (.vmul f) s = execVmul f s := rfl
theorem exec_vfma (f : VFields) (s : State) : exec (.vfma f) s = execVfma f s := rfl
theorem exec_vfms (f : VFields) (s : State) : exec (.vfms f) s = execVfms f s := rfl
theorem exec_vnfma (f : VFields) (s : State) : exec (.vnfma f) s = execVnfma f s := rfl
theorem exec_vmin (f : VFields) (s : State) : exec (.vmin f) s = execVmin f s := rfl
theorem exec_vmax (f : VFields) (s : State) : exec (.vmax f) s = execVmax f s := rfl
theorem exec_vabs (f : VFields) (s : State) : exec (.vabs f) s = execVabs f s := rfl
theorem exec_vneg (f : VFields) (s : State) : exec (.vneg f) s = execVneg f s := rfl
theorem exec_vdiv (f : VFields) (s : State) : exec (.vdiv f) s = execVdiv f s := rfl
theorem exec_vsqrt (f : VFields) (s : State) : exec (.vsqrt f) s = execVsqrt f s := rfl
theorem exec_vrcp (f : VFields) (s : State) : exec (.vrcp f) s = execVrcp f s := rfl
theorem exec_vrsq (f : VFields) (s : State) : exec (.vrsq f) s = execVrsq f s := rfl
theorem exec_vexp2 (f : VFields) (s : State) : exec (.vexp2 f) s = execVexp2 f s := rfl
theorem exec_vlog2 (f : VFields) (s : State) : exec (.vlog2 f) s = execVlog2 f s := rfl
theorem exec_vtanh (f : VFields) (s : State) : exec (.vtanh f) s = execVtanh f s := rfl
theorem exec_viadd (f : VFields) (s : State) : exec (.viadd f) s = execViadd f s := rfl
theorem exec_visub (f : VFields) (s : State) : exec (.visub f) s = execVisub f s := rfl
theorem exec_vimul (f : VFields) (s : State) : exec (.vimul f) s = execVimul f s := rfl
theorem exec_vimad (f : VFields) (s : State) : exec (.vimad f) s = execVimad f s := rfl
theorem exec_vand (f : VFields) (s : State) : exec (.vand f) s = execVand f s := rfl
theorem exec_vor (f : VFields) (s : State) : exec (.vor f) s = execVor f s := rfl
theorem exec_vxor (f : VFields) (s : State) : exec (.vxor f) s = execVxor f s := rfl
theorem exec_vnot (f : VFields) (s : State) : exec (.vnot f) s = execVnot f s := rfl
theorem exec_vshl (f : VFields) (s : State) : exec (.vshl f) s = execVshl f s := rfl
theorem exec_vshr (f : VFields) (s : State) : exec (.vshr f) s = execVshr f s := rfl
theorem exec_vsra (f : VFields) (s : State) : exec (.vsra f) s = execVsra f s := rfl
theorem exec_vcmp (f : VFields) (s : State) : exec (.vcmp f) s = execVcmp f s := rfl
theorem exec_vsel (f : VFields) (s : State) : exec (.vsel f) s = execVsel f s := rfl
theorem exec_kand (f : VFields) (s : State) : exec (.kand f) s = execKand f s := rfl
theorem exec_kor (f : VFields) (s : State) : exec (.kor f) s = execKor f s := rfl
theorem exec_kxor (f : VFields) (s : State) : exec (.kxor f) s = execKxor f s := rfl
theorem exec_knot (f : VFields) (s : State) : exec (.knot f) s = execKnot f s := rfl
theorem exec_kpop (f : VFields) (s : State) : exec (.kpop f) s = execKpop f s := rfl
theorem exec_vcvt (f : VFields) (s : State) : exec (.vcvt f) s = execVcvt f s := rfl
theorem exec_vqcb (f : VFields) (s : State) : exec (.vqcb f) s = execVqcb f s := rfl
theorem exec_vdq (f : VFields) (s : State) : exec (.vdq f) s = execVdq f s := rfl
theorem exec_vpack (f : VFields) (s : State) : exec (.vpack f) s = execVpack f s := rfl
theorem exec_vunpack (f : VFields) (s : State) : exec (.vunpack f) s = execVunpack f s := rfl
theorem exec_vrsum (f : VFields) (s : State) : exec (.vrsum f) s = execVrsum f s := rfl
theorem exec_vrmax (f : VFields) (s : State) : exec (.vrmax f) s = execVrmax f s := rfl
theorem exec_vrmin (f : VFields) (s : State) : exec (.vrmin f) s = execVrmin f s := rfl
theorem exec_vargmax (f : VFields) (s : State) : exec (.vargmax f) s = execVargmax f s := rfl
theorem exec_vscan (f : VFields) (s : State) : exec (.vscan f) s = execVscan f s := rfl
theorem exec_vperm (f : VFields) (s : State) : exec (.vperm f) s = execVperm f s := rfl
theorem exec_vshuf (f : VFields) (s : State) : exec (.vshuf f) s = execVshuf f s := rfl
theorem exec_vbcast (f : VFields) (s : State) : exec (.vbcast f) s = execVbcast f s := rfl
theorem exec_viota (f : VFields) (s : State) : exec (.viota f) s = execViota f s := rfl
theorem exec_vmov (f : VFields) (s : State) : exec (.vmov f) s = execVmov f s := rfl
theorem exec_vtrans (f : VFields) (s : State) : exec (.vtrans f) s = execVtrans f s := rfl
theorem exec_vsq (f : VFields) (s : State) : exec (.vsq f) s = execVsq f s := rfl
theorem exec_vsetvlc (f : VFields) (s : State) : exec (.vsetvlc f) s = execVsetvlc f s := rfl
theorem exec_vaccept (f : VFields) (s : State) : exec (.vaccept f) s = execVaccept f s := rfl
theorem exec_mstep (f : MFields) (s : State) : exec (.mstep f) s = execMstep f s := rfl
theorem exec_mnest (f : MFields) (s : State) : exec (.mnest f) s = execMnest f s := rfl
theorem exec_mzero (f : MFields) (s : State) : exec (.mzero f) s = execMzero f s := rfl
theorem exec_mdrain (f : MFields) (s : State) : exec (.mdrain f) s = execMdrain f s := rfl
theorem exec_mscale (f : MFields) (s : State) : exec (.mscale f) s = execMscale f s := rfl
theorem exec_mrowmask (f : MFields) (s : State) : exec (.mrowmask f) s = execMrowmask f s := rfl
theorem exec_mtest (f : MFields) (s : State) : exec (.mtest f) s = execMtest f s := rfl
theorem exec_mfence (f : MFields) (s : State) : exec (.mfence f) s = execMfence f s := rfl
theorem exec_msig (f : MFields) (s : State) : exec (.msig f) s = execMsig f s := rfl
theorem exec_mwait (f : MFields) (s : State) : exec (.mwait f) s = execMwait f s := rfl
theorem exec_mpin (f : MFields) (s : State) : exec (.mpin f) s = execMpin f s := rfl
theorem exec_mpinUnpin (f : MFields) (s : State) : exec (.mpinUnpin f) s = execMpinUnpin f s := rfl
theorem exec_mstat (f : MFields) (s : State) : exec (.mstat f) s = execMstat f s := rfl
theorem exec_psub (f : PFields) (s : State) : exec (.psub f) s = execPsub f s := rfl
theorem exec_psubd (f : PFields) (s : State) : exec (.psubd f) s = execPsubd f s := rfl
theorem exec_pmaxp (f : PFields) (s : State) : exec (.pmaxp f) s = execPmaxp f s := rfl
theorem exec_psum (f : PFields) (s : State) : exec (.psum f) s = execPsum f s := rfl
theorem exec_pload (f : PFields) (s : State) : exec (.pload f) s = execPload f s := rfl
theorem exec_pstore (f : PFields) (s : State) : exec (.pstore f) s = execPstore f s := rfl
theorem exec_pnorm (f : PFields) (s : State) : exec (.pnorm f) s = execPnorm f s := rfl
theorem exec_pcvt (f : PFields) (s : State) : exec (.pcvt f) s = execPcvt f s := rfl
theorem exec_pmode (f : PFields) (s : State) : exec (.pmode f) s = execPmode f s := rfl
theorem exec_psig (f : PFields) (s : State) : exec (.psig f) s = execPsig f s := rfl
theorem exec_pwait (f : PFields) (s : State) : exec (.pwait f) s = execPwait f s := rfl
theorem exec_pfence (f : PFields) (s : State) : exec (.pfence f) s = execPfence f s := rfl
theorem exec_reset (conn : Connector) (s : State) : exec (.reset conn) s = execReset conn s := rfl
theorem exec_bootLayerStart (s : State) : exec (.bootLayerStart) s = execBootLayerStart s := rfl
theorem exec_droop (i : IslandId) (eighths : List (Fin 4)) (s : State) : exec (.droop i eighths) s = execDroop i eighths s := rfl
theorem exec_thermalTrip (i : IslandId) (s : State) : exec (.thermalTrip i) s = execThermalTrip i s := rfl
theorem exec_bmcPowerLimit (watts : Nat) (s : State) : exec (.bmcPowerLimit watts) s = execBmcPowerLimit watts s := rfl
theorem exec_eccFatal (c : CoreId) (s : State) : exec (.eccFatal c) s = execEccFatal c s := rfl
theorem exec_mailboxWrite (record : BitVec 4) (length : BitVec 32) (s : State) : exec (.mailboxWrite record length) s = execMailboxWrite record length s := rfl
theorem exec_mailboxRead (record : BitVec 4) (length : BitVec 32) (s : State) : exec (.mailboxRead record length) s = execMailboxRead record length s := rfl
theorem exec_mailboxReboot (hot : Bool) (s : State) : exec (.mailboxReboot hot) s = execMailboxReboot hot s := rfl
theorem exec_hostCompletionTimeout (r : Requester) (s : State) : exec (.hostCompletionTimeout r) s = execHostCompletionTimeout r s := rfl
theorem exec_hostLinkDown (s : State) : exec (.hostLinkDown) s = execHostLinkDown s := rfl
theorem exec_functionLevelReset (f : FuncId) (s : State) : exec (.functionLevelReset f) s = execFunctionLevelReset f s := rfl
theorem exec_commandWindowWrite (f : FuncId) (window off : Nat) (data : List Byte) (s : State) : exec (.commandWindowWrite f window off data) s = execCommandWindowWrite f window off data s := rfl
theorem exec_misrouteClear (f : FuncId) (s : State) : exec (.misrouteClear f) s = execMisrouteClear f s := rfl
theorem exec_overrunClear (f : FuncId) (window : Nat) (s : State) : exec (.overrunClear f window) s = execOverrunClear f window s := rfl
theorem exec_hostMemoryWrite (off : Nat) (data : List Byte) (relaxed : Bool) (s : State) : exec (.hostMemoryWrite off data relaxed) s = execHostMemoryWrite off data relaxed s := rfl
theorem exec_hostMemoryRead (off n : Nat) (s : State) : exec (.hostMemoryRead off n) s = execHostMemoryRead off n s := rfl
theorem exec_hostAtomic (op : HostAtomicOp) (off : Nat) (wide : Bool) (operand compare : Word) (s : State) : exec (.hostAtomic op off wide operand compare) s = execHostAtomic op off wide operand compare s := rfl
theorem exec_bridgeTrained (wide : Bool) (peerSerial : Nat) (s : State) : exec (.bridgeTrained wide peerSerial) s = execBridgeTrained wide peerSerial s := rfl
theorem exec_bridgeDown (s : State) : exec (.bridgeDown) s = execBridgeDown s := rfl
theorem exec_flitReplay (s : State) : exec (.flitReplay) s = execFlitReplay s := rfl
theorem exec_bridgeLoadRequest (pa n : Nat) (s : State) : exec (.bridgeLoadRequest pa n) s = execBridgeLoadRequest pa n s := rfl
theorem exec_bridgeLoadReply (c : CoreId) (k : Nat) (data : List Byte) (s : State) : exec (.bridgeLoadReply c k data) s = execBridgeLoadReply c k data s := rfl
theorem exec_bridgeStore (core : Fin 64) (pa : Nat) (data : List Byte) (signal : Bool) (s : State) : exec (.bridgeStore core pa data signal) s = execBridgeStore core pa data signal s := rfl
theorem exec_bridgeStoreAck (c : CoreId) (n : Nat) (s : State) : exec (.bridgeStoreAck c n) s = execBridgeStoreAck c n s := rfl
theorem exec_bridgeAtomicRequest (m : BridgeAtomic) (s : State) : exec (.bridgeAtomicRequest m) s = execBridgeAtomicRequest m s := rfl
theorem exec_bridgeAtomicReply (c : CoreId) (old : Word) (s : State) : exec (.bridgeAtomicReply c old) s = execBridgeAtomicReply c old s := rfl
theorem exec_forwardedCommandPacket (packet : BitVec 512) (s : State) : exec (.forwardedCommandPacket packet) s = execForwardedCommandPacket packet s := rfl
theorem exec_contextEnable (x : ContextId) (v : Word) (s : State) : exec (.contextEnable x v) s = execContextEnable x v s := rfl
theorem exec_contextDisable (x : ContextId) (v : Word) (s : State) : exec (.contextDisable x v) s = execContextDisable x v s := rfl
theorem exec_slotResidentClear (slot : Fin 64) (v : Word) (s : State) : exec (.slotResidentClear slot v) s = execSlotResidentClear slot v s := rfl
theorem exec_takeover (s : State) : exec (.takeover) s = execTakeover s := rfl
theorem exec_preemptAtBoundary (c : Fin 64) (s : State) : exec (.preemptAtBoundary c) s = execPreemptAtBoundary c s := rfl
theorem exec_preemptMidTask (c : Fin 64) (s : State) : exec (.preemptMidTask c) s = execPreemptMidTask c s := rfl
theorem exec_tqackPop (s : State) : exec (.tqackPop) s = execTqackPop s := rfl
theorem exec_tqreplyRetry (agent : BitVec 7) (seq : BitVec 32) (s : State) : exec (.tqreplyRetry agent seq) s = execTqreplyRetry agent seq s := rfl
theorem exec_tqreplyFail (agent : BitVec 7) (seq : BitVec 32) (s : State) : exec (.tqreplyFail agent seq) s = execTqreplyFail agent seq s := rfl
theorem exec_sliceRelease (slice : Fin 64) (s : State) : exec (.sliceRelease slice) s = execSliceRelease slice s := rfl
theorem exec_scunbind (obj : Fin 4096) (s : State) : exec (.scunbind obj) s = execScunbind obj s := rfl
theorem exec_registerWrite (w : Writer) (off size : Nat) (v : Word) (s : State) : exec (.registerWrite w off size v) s = execRegisterWrite w off size v s := rfl
theorem exec_bridgeRetrain (s : State) : exec (.bridgeRetrain) s = execBridgeRetrain s := rfl
theorem exec_collectivePeerCancelled (ctag : BitVec 16) (s : State) : exec (.collectivePeerCancelled ctag) s = execCollectivePeerCancelled ctag s := rfl
theorem exec_forwardedPacketAcknowledged (core : Fin 64) (s : State) : exec (.forwardedPacketAcknowledged core) s = execForwardedPacketAcknowledged core s := rfl
theorem exec_attestationRequest (nonce : List Byte) (s : State) : exec (.attestationRequest nonce) s = execAttestationRequest nonce s := rfl

end Sys2Proof.Machine
end

