-- ==== Sys2Proof/Laws/State.lean ====
section
/-!
SUPPORT. What each update of the state, of a core and of a task leaves in each field: one lemma for each field and each
update, so that no proof unfolds a record update.
-/
namespace Sys2Proof.Machine

/-! ### Cores and the current task -/

@[simp] theorem getCore_setCore_self (s : State) (c : CoreId) (k : Core) : getCore (setCore s c k) c = k := by
  simp [getCore, setCore, Vector.get_eq_getElem]

theorem getCore_setCore_of_ne (s : State) (c d : CoreId) (k : Core) (h : d ≠ c) :
    getCore (setCore s c k) d = getCore s d := by
  have : c.val ≠ d.val := fun e => h (Fin.ext e.symm)
  simp [getCore, setCore, Vector.get_eq_getElem, this]

@[simp] theorem setCore_setCore (s : State) (c : CoreId) (k l : Core) :
    setCore (setCore s c k) c l = setCore s c l := by
  simp [setCore]

@[simp] theorem setCore_getCore (s : State) (c : CoreId) : setCore s c (getCore s c) = s := by
  simp [setCore, getCore, Vector.get_eq_getElem]

@[simp] theorem getCore_modCore_self (s : State) (c : CoreId) (f : Core → Core) :
    getCore (modCore s c f) c = f (getCore s c) := by
  simp [modCore]

theorem getCore_modCore_of_ne (s : State) (c d : CoreId) (f : Core → Core) (h : d ≠ c) :
    getCore (modCore s c f) d = getCore s d := getCore_setCore_of_ne _ _ _ _ h

@[simp] theorem modCore_modCore (s : State) (c : CoreId) (f g : Core → Core) :
    modCore (modCore s c f) c g = modCore s c fun k => g (f k) := by
  simp [modCore]

@[simp] theorem modCtx_modCtx (s : State) (c : CoreId) (f g : Ctx → Ctx) :
    modCtx (modCtx s c f) c g = modCtx s c fun t => g (f t) := by
  simp [modCtx]

@[simp] theorem getCore_modCtx_self (s : State) (c : CoreId) (f : Ctx → Ctx) :
    getCore (modCtx s c f) c = { getCore s c with ctx := f (getCore s c).ctx } := by
  simp [modCtx]

@[simp] theorem modCtx_id (s : State) (c : CoreId) : modCtx s c (fun t => t) = s := setCore_getCore s c

@[simp] theorem modCur_modCur (s : State) (f g : Ctx → Ctx) :
    modCur (modCur s f) g = modCur s fun t => g (f t) := modCtx_modCtx s s.cur f g

@[simp] theorem curCtx_modCur (s : State) (f : Ctx → Ctx) : curCtx (modCur s f) = f (curCtx s) :=
  congrArg Core.ctx (getCore_modCtx_self s s.cur f)

@[simp] theorem curCtx_modCtx_cur (s : State) (f : Ctx → Ctx) : curCtx (modCtx s s.cur f) = f (curCtx s) :=
  curCtx_modCur s f

@[simp] theorem modCtx_of_cur (s : State) (f : Ctx → Ctx) : modCtx s s.cur f = modCur s f := rfl

@[simp] theorem curCore_modCur (s : State) (f : Ctx → Ctx) :
    curCore (modCur s f) = { curCore s with ctx := f (curCtx s) } := getCore_modCtx_self s s.cur f

theorem modCur_congr (s : State) (f g : Ctx → Ctx) (h : f (curCtx s) = g (curCtx s)) : modCur s f = modCur s g := by
  show setCore s s.cur _ = setCore s s.cur _
  exact congrArg (fun t => setCore s s.cur { getCore s s.cur with ctx := t }) h

@[simp] theorem modCur_const (s : State) (f : Ctx → Ctx) : modCur s (fun _ => f (curCtx s)) = modCur s f :=
  modCur_congr s _ _ rfl

/-! ### The fields of the state -/

@[simp] theorem setCore_islands (s : State) (c : CoreId) (k : Core) : (setCore s c k).islands = s.islands := rfl
@[simp] theorem setCore_gov (s : State) (c : CoreId) (k : Core) : (setCore s c k).gov = s.gov := rfl
@[simp] theorem setCore_pkg (s : State) (c : CoreId) (k : Core) : (setCore s c k).pkg = s.pkg := rfl
@[simp] theorem setCore_links (s : State) (c : CoreId) (k : Core) : (setCore s c k).links = s.links := rfl
@[simp] theorem setCore_contexts (s : State) (c : CoreId) (k : Core) : (setCore s c k).contexts = s.contexts := rfl
@[simp] theorem setCore_slots (s : State) (c : CoreId) (k : Core) : (setCore s c k).slots = s.slots := rfl
@[simp] theorem setCore_armed (s : State) (c : CoreId) (k : Core) : (setCore s c k).armed = s.armed := rfl
@[simp] theorem setCore_fclassOp (s : State) (c : CoreId) (k : Core) : (setCore s c k).fclassOp = s.fclassOp := rfl
@[simp] theorem setCore_disp (s : State) (c : CoreId) (k : Core) : (setCore s c k).disp = s.disp := rfl
@[simp] theorem setCore_mem (s : State) (c : CoreId) (k : Core) : (setCore s c k).mem = s.mem := rfl
@[simp] theorem setCore_hostMem (s : State) (c : CoreId) (k : Core) : (setCore s c k).hostMem = s.hostMem := rfl
@[simp] theorem setCore_slices (s : State) (c : CoreId) (k : Core) : (setCore s c k).slices = s.slices := rfl
@[simp] theorem setCore_astBase (s : State) (c : CoreId) (k : Core) : (setCore s c k).astBase = s.astBase := rfl
@[simp] theorem setCore_owned (s : State) (c : CoreId) (k : Core) : (setCore s c k).owned = s.owned := rfl
@[simp] theorem setCore_engTlb (s : State) (c : CoreId) (k : Core) : (setCore s c k).engTlb = s.engTlb := rfl
@[simp] theorem setCore_home (s : State) (c : CoreId) (k : Core) : (setCore s c k).home = s.home := rfl
@[simp] theorem setCore_devBars (s : State) (c : CoreId) (k : Core) : (setCore s c k).devBars = s.devBars := rfl
@[simp] theorem setCore_monitors (s : State) (c : CoreId) (k : Core) : (setCore s c k).monitors = s.monitors := rfl
@[simp] theorem setCore_loose (s : State) (c : CoreId) (k : Core) : (setCore s c k).loose = s.loose := rfl
@[simp] theorem setCore_counters (s : State) (c : CoreId) (k : Core) : (setCore s c k).counters = s.counters := rfl
@[simp] theorem setCore_jobs (s : State) (c : CoreId) (k : Core) : (setCore s c k).jobs = s.jobs := rfl
@[simp] theorem setCore_samples (s : State) (c : CoreId) (k : Core) : (setCore s c k).samples = s.samples := rfl
@[simp] theorem setCore_settling (s : State) (c : CoreId) (k : Core) : (setCore s c k).settling = s.settling := rfl
@[simp] theorem setCore_yields (s : State) (c : CoreId) (k : Core) : (setCore s c k).yields = s.yields := rfl
@[simp] theorem setCore_trapq (s : State) (c : CoreId) (k : Core) : (setCore s c k).trapq = s.trapq := rfl
@[simp] theorem setCore_seq (s : State) (c : CoreId) (k : Core) : (setCore s c k).seq = s.seq := rfl
@[simp] theorem setCore_stamp (s : State) (c : CoreId) (k : Core) : (setCore s c k).stamp = s.stamp := rfl
@[simp] theorem setCore_nextJob (s : State) (c : CoreId) (k : Core) : (setCore s c k).nextJob = s.nextJob := rfl
@[simp] theorem setCore_nextCmd (s : State) (c : CoreId) (k : Core) : (setCore s c k).nextCmd = s.nextCmd := rfl
@[simp] theorem setCore_invPend (s : State) (c : CoreId) (k : Core) : (setCore s c k).invPend = s.invPend := rfl
@[simp] theorem setCore_jwrites (s : State) (c : CoreId) (k : Core) : (setCore s c k).jwrites = s.jwrites := rfl
@[simp] theorem setCore_sent (s : State) (c : CoreId) (k : Core) : (setCore s c k).sent = s.sent := rfl
@[simp] theorem setCore_cur (s : State) (c : CoreId) (k : Core) : (setCore s c k).cur = s.cur := rfl
@[simp] theorem setCore_curStream (s : State) (c : CoreId) (k : Core) : (setCore s c k).curStream = s.curStream := rfl
@[simp] theorem setCore_inputs (s : State) (c : CoreId) (k : Core) : (setCore s c k).inputs = s.inputs := rfl
@[simp] theorem setCore_schedule (s : State) (c : CoreId) (k : Core) : (setCore s c k).schedule = s.schedule := rfl
@[simp] theorem setCore_rotor (s : State) (c : CoreId) (k : Core) : (setCore s c k).rotor = s.rotor := rfl
@[simp] theorem setCore_freeCtr (s : State) (c : CoreId) (k : Core) : (setCore s c k).freeCtr = s.freeCtr := rfl
@[simp] theorem setCore_walkFills (s : State) (c : CoreId) (k : Core) : (setCore s c k).walkFills = s.walkFills := rfl

@[simp] theorem modCore_islands (s : State) (c : CoreId) (f : Core → Core) : (modCore s c f).islands = s.islands := rfl
@[simp] theorem modCore_gov (s : State) (c : CoreId) (f : Core → Core) : (modCore s c f).gov = s.gov := rfl
@[simp] theorem modCore_pkg (s : State) (c : CoreId) (f : Core → Core) : (modCore s c f).pkg = s.pkg := rfl
@[simp] theorem modCore_links (s : State) (c : CoreId) (f : Core → Core) : (modCore s c f).links = s.links := rfl
@[simp] theorem modCore_contexts (s : State) (c : CoreId) (f : Core → Core) : (modCore s c f).contexts = s.contexts := rfl
@[simp] theorem modCore_slots (s : State) (c : CoreId) (f : Core → Core) : (modCore s c f).slots = s.slots := rfl
@[simp] theorem modCore_armed (s : State) (c : CoreId) (f : Core → Core) : (modCore s c f).armed = s.armed := rfl
@[simp] theorem modCore_fclassOp (s : State) (c : CoreId) (f : Core → Core) : (modCore s c f).fclassOp = s.fclassOp := rfl
@[simp] theorem modCore_disp (s : State) (c : CoreId) (f : Core → Core) : (modCore s c f).disp = s.disp := rfl
@[simp] theorem modCore_mem (s : State) (c : CoreId) (f : Core → Core) : (modCore s c f).mem = s.mem := rfl
@[simp] theorem modCore_hostMem (s : State) (c : CoreId) (f : Core → Core) : (modCore s c f).hostMem = s.hostMem := rfl
@[simp] theorem modCore_slices (s : State) (c : CoreId) (f : Core → Core) : (modCore s c f).slices = s.slices := rfl
@[simp] theorem modCore_astBase (s : State) (c : CoreId) (f : Core → Core) : (modCore s c f).astBase = s.astBase := rfl
@[simp] theorem modCore_owned (s : State) (c : CoreId) (f : Core → Core) : (modCore s c f).owned = s.owned := rfl
@[simp] theorem modCore_engTlb (s : State) (c : CoreId) (f : Core → Core) : (modCore s c f).engTlb = s.engTlb := rfl
@[simp] theorem modCore_home (s : State) (c : CoreId) (f : Core → Core) : (modCore s c f).home = s.home := rfl
@[simp] theorem modCore_devBars (s : State) (c : CoreId) (f : Core → Core) : (modCore s c f).devBars = s.devBars := rfl
@[simp] theorem modCore_monitors (s : State) (c : CoreId) (f : Core → Core) : (modCore s c f).monitors = s.monitors := rfl
@[simp] theorem modCore_loose (s : State) (c : CoreId) (f : Core → Core) : (modCore s c f).loose = s.loose := rfl
@[simp] theorem modCore_counters (s : State) (c : CoreId) (f : Core → Core) : (modCore s c f).counters = s.counters := rfl
@[simp] theorem modCore_jobs (s : State) (c : CoreId) (f : Core → Core) : (modCore s c f).jobs = s.jobs := rfl
@[simp] theorem modCore_samples (s : State) (c : CoreId) (f : Core → Core) : (modCore s c f).samples = s.samples := rfl
@[simp] theorem modCore_settling (s : State) (c : CoreId) (f : Core → Core) : (modCore s c f).settling = s.settling := rfl
@[simp] theorem modCore_yields (s : State) (c : CoreId) (f : Core → Core) : (modCore s c f).yields = s.yields := rfl
@[simp] theorem modCore_trapq (s : State) (c : CoreId) (f : Core → Core) : (modCore s c f).trapq = s.trapq := rfl
@[simp] theorem modCore_seq (s : State) (c : CoreId) (f : Core → Core) : (modCore s c f).seq = s.seq := rfl
@[simp] theorem modCore_stamp (s : State) (c : CoreId) (f : Core → Core) : (modCore s c f).stamp = s.stamp := rfl
@[simp] theorem modCore_nextJob (s : State) (c : CoreId) (f : Core → Core) : (modCore s c f).nextJob = s.nextJob := rfl
@[simp] theorem modCore_nextCmd (s : State) (c : CoreId) (f : Core → Core) : (modCore s c f).nextCmd = s.nextCmd := rfl
@[simp] theorem modCore_invPend (s : State) (c : CoreId) (f : Core → Core) : (modCore s c f).invPend = s.invPend := rfl
@[simp] theorem modCore_jwrites (s : State) (c : CoreId) (f : Core → Core) : (modCore s c f).jwrites = s.jwrites := rfl
@[simp] theorem modCore_sent (s : State) (c : CoreId) (f : Core → Core) : (modCore s c f).sent = s.sent := rfl
@[simp] theorem modCore_cur (s : State) (c : CoreId) (f : Core → Core) : (modCore s c f).cur = s.cur := rfl
@[simp] theorem modCore_curStream (s : State) (c : CoreId) (f : Core → Core) : (modCore s c f).curStream = s.curStream := rfl
@[simp] theorem modCore_inputs (s : State) (c : CoreId) (f : Core → Core) : (modCore s c f).inputs = s.inputs := rfl
@[simp] theorem modCore_schedule (s : State) (c : CoreId) (f : Core → Core) : (modCore s c f).schedule = s.schedule := rfl
@[simp] theorem modCore_rotor (s : State) (c : CoreId) (f : Core → Core) : (modCore s c f).rotor = s.rotor := rfl
@[simp] theorem modCore_freeCtr (s : State) (c : CoreId) (f : Core → Core) : (modCore s c f).freeCtr = s.freeCtr := rfl
@[simp] theorem modCore_walkFills (s : State) (c : CoreId) (f : Core → Core) : (modCore s c f).walkFills = s.walkFills := rfl

@[simp] theorem modCtx_islands (s : State) (c : CoreId) (f : Ctx → Ctx) : (modCtx s c f).islands = s.islands := rfl
@[simp] theorem modCtx_gov (s : State) (c : CoreId) (f : Ctx → Ctx) : (modCtx s c f).gov = s.gov := rfl
@[simp] theorem modCtx_pkg (s : State) (c : CoreId) (f : Ctx → Ctx) : (modCtx s c f).pkg = s.pkg := rfl
@[simp] theorem modCtx_links (s : State) (c : CoreId) (f : Ctx → Ctx) : (modCtx s c f).links = s.links := rfl
@[simp] theorem modCtx_contexts (s : State) (c : CoreId) (f : Ctx → Ctx) : (modCtx s c f).contexts = s.contexts := rfl
@[simp] theorem modCtx_slots (s : State) (c : CoreId) (f : Ctx → Ctx) : (modCtx s c f).slots = s.slots := rfl
@[simp] theorem modCtx_armed (s : State) (c : CoreId) (f : Ctx → Ctx) : (modCtx s c f).armed = s.armed := rfl
@[simp] theorem modCtx_fclassOp (s : State) (c : CoreId) (f : Ctx → Ctx) : (modCtx s c f).fclassOp = s.fclassOp := rfl
@[simp] theorem modCtx_disp (s : State) (c : CoreId) (f : Ctx → Ctx) : (modCtx s c f).disp = s.disp := rfl
@[simp] theorem modCtx_mem (s : State) (c : CoreId) (f : Ctx → Ctx) : (modCtx s c f).mem = s.mem := rfl
@[simp] theorem modCtx_hostMem (s : State) (c : CoreId) (f : Ctx → Ctx) : (modCtx s c f).hostMem = s.hostMem := rfl
@[simp] theorem modCtx_slices (s : State) (c : CoreId) (f : Ctx → Ctx) : (modCtx s c f).slices = s.slices := rfl
@[simp] theorem modCtx_astBase (s : State) (c : CoreId) (f : Ctx → Ctx) : (modCtx s c f).astBase = s.astBase := rfl
@[simp] theorem modCtx_owned (s : State) (c : CoreId) (f : Ctx → Ctx) : (modCtx s c f).owned = s.owned := rfl
@[simp] theorem modCtx_engTlb (s : State) (c : CoreId) (f : Ctx → Ctx) : (modCtx s c f).engTlb = s.engTlb := rfl
@[simp] theorem modCtx_home (s : State) (c : CoreId) (f : Ctx → Ctx) : (modCtx s c f).home = s.home := rfl
@[simp] theorem modCtx_devBars (s : State) (c : CoreId) (f : Ctx → Ctx) : (modCtx s c f).devBars = s.devBars := rfl
@[simp] theorem modCtx_monitors (s : State) (c : CoreId) (f : Ctx → Ctx) : (modCtx s c f).monitors = s.monitors := rfl
@[simp] theorem modCtx_loose (s : State) (c : CoreId) (f : Ctx → Ctx) : (modCtx s c f).loose = s.loose := rfl
@[simp] theorem modCtx_counters (s : State) (c : CoreId) (f : Ctx → Ctx) : (modCtx s c f).counters = s.counters := rfl
@[simp] theorem modCtx_jobs (s : State) (c : CoreId) (f : Ctx → Ctx) : (modCtx s c f).jobs = s.jobs := rfl
@[simp] theorem modCtx_samples (s : State) (c : CoreId) (f : Ctx → Ctx) : (modCtx s c f).samples = s.samples := rfl
@[simp] theorem modCtx_settling (s : State) (c : CoreId) (f : Ctx → Ctx) : (modCtx s c f).settling = s.settling := rfl
@[simp] theorem modCtx_yields (s : State) (c : CoreId) (f : Ctx → Ctx) : (modCtx s c f).yields = s.yields := rfl
@[simp] theorem modCtx_trapq (s : State) (c : CoreId) (f : Ctx → Ctx) : (modCtx s c f).trapq = s.trapq := rfl
@[simp] theorem modCtx_seq (s : State) (c : CoreId) (f : Ctx → Ctx) : (modCtx s c f).seq = s.seq := rfl
@[simp] theorem modCtx_stamp (s : State) (c : CoreId) (f : Ctx → Ctx) : (modCtx s c f).stamp = s.stamp := rfl
@[simp] theorem modCtx_nextJob (s : State) (c : CoreId) (f : Ctx → Ctx) : (modCtx s c f).nextJob = s.nextJob := rfl
@[simp] theorem modCtx_nextCmd (s : State) (c : CoreId) (f : Ctx → Ctx) : (modCtx s c f).nextCmd = s.nextCmd := rfl
@[simp] theorem modCtx_invPend (s : State) (c : CoreId) (f : Ctx → Ctx) : (modCtx s c f).invPend = s.invPend := rfl
@[simp] theorem modCtx_jwrites (s : State) (c : CoreId) (f : Ctx → Ctx) : (modCtx s c f).jwrites = s.jwrites := rfl
@[simp] theorem modCtx_sent (s : State) (c : CoreId) (f : Ctx → Ctx) : (modCtx s c f).sent = s.sent := rfl
@[simp] theorem modCtx_cur (s : State) (c : CoreId) (f : Ctx → Ctx) : (modCtx s c f).cur = s.cur := rfl
@[simp] theorem modCtx_curStream (s : State) (c : CoreId) (f : Ctx → Ctx) : (modCtx s c f).curStream = s.curStream := rfl
@[simp] theorem modCtx_inputs (s : State) (c : CoreId) (f : Ctx → Ctx) : (modCtx s c f).inputs = s.inputs := rfl
@[simp] theorem modCtx_schedule (s : State) (c : CoreId) (f : Ctx → Ctx) : (modCtx s c f).schedule = s.schedule := rfl
@[simp] theorem modCtx_rotor (s : State) (c : CoreId) (f : Ctx → Ctx) : (modCtx s c f).rotor = s.rotor := rfl
@[simp] theorem modCtx_freeCtr (s : State) (c : CoreId) (f : Ctx → Ctx) : (modCtx s c f).freeCtr = s.freeCtr := rfl
@[simp] theorem modCtx_walkFills (s : State) (c : CoreId) (f : Ctx → Ctx) : (modCtx s c f).walkFills = s.walkFills := rfl

@[simp] theorem modCur_islands (s : State) (f : Ctx → Ctx) : (modCur s f).islands = s.islands := rfl
@[simp] theorem modCur_gov (s : State) (f : Ctx → Ctx) : (modCur s f).gov = s.gov := rfl
@[simp] theorem modCur_pkg (s : State) (f : Ctx → Ctx) : (modCur s f).pkg = s.pkg := rfl
@[simp] theorem modCur_links (s : State) (f : Ctx → Ctx) : (modCur s f).links = s.links := rfl
@[simp] theorem modCur_contexts (s : State) (f : Ctx → Ctx) : (modCur s f).contexts = s.contexts := rfl
@[simp] theorem modCur_slots (s : State) (f : Ctx → Ctx) : (modCur s f).slots = s.slots := rfl
@[simp] theorem modCur_armed (s : State) (f : Ctx → Ctx) : (modCur s f).armed = s.armed := rfl
@[simp] theorem modCur_fclassOp (s : State) (f : Ctx → Ctx) : (modCur s f).fclassOp = s.fclassOp := rfl
@[simp] theorem modCur_disp (s : State) (f : Ctx → Ctx) : (modCur s f).disp = s.disp := rfl
@[simp] theorem modCur_mem (s : State) (f : Ctx → Ctx) : (modCur s f).mem = s.mem := rfl
@[simp] theorem modCur_hostMem (s : State) (f : Ctx → Ctx) : (modCur s f).hostMem = s.hostMem := rfl
@[simp] theorem modCur_slices (s : State) (f : Ctx → Ctx) : (modCur s f).slices = s.slices := rfl
@[simp] theorem modCur_astBase (s : State) (f : Ctx → Ctx) : (modCur s f).astBase = s.astBase := rfl
@[simp] theorem modCur_owned (s : State) (f : Ctx → Ctx) : (modCur s f).owned = s.owned := rfl
@[simp] theorem modCur_engTlb (s : State) (f : Ctx → Ctx) : (modCur s f).engTlb = s.engTlb := rfl
@[simp] theorem modCur_home (s : State) (f : Ctx → Ctx) : (modCur s f).home = s.home := rfl
@[simp] theorem modCur_devBars (s : State) (f : Ctx → Ctx) : (modCur s f).devBars = s.devBars := rfl
@[simp] theorem modCur_monitors (s : State) (f : Ctx → Ctx) : (modCur s f).monitors = s.monitors := rfl
@[simp] theorem modCur_loose (s : State) (f : Ctx → Ctx) : (modCur s f).loose = s.loose := rfl
@[simp] theorem modCur_counters (s : State) (f : Ctx → Ctx) : (modCur s f).counters = s.counters := rfl
@[simp] theorem modCur_jobs (s : State) (f : Ctx → Ctx) : (modCur s f).jobs = s.jobs := rfl
@[simp] theorem modCur_samples (s : State) (f : Ctx → Ctx) : (modCur s f).samples = s.samples := rfl
@[simp] theorem modCur_settling (s : State) (f : Ctx → Ctx) : (modCur s f).settling = s.settling := rfl
@[simp] theorem modCur_yields (s : State) (f : Ctx → Ctx) : (modCur s f).yields = s.yields := rfl
@[simp] theorem modCur_trapq (s : State) (f : Ctx → Ctx) : (modCur s f).trapq = s.trapq := rfl
@[simp] theorem modCur_seq (s : State) (f : Ctx → Ctx) : (modCur s f).seq = s.seq := rfl
@[simp] theorem modCur_stamp (s : State) (f : Ctx → Ctx) : (modCur s f).stamp = s.stamp := rfl
@[simp] theorem modCur_nextJob (s : State) (f : Ctx → Ctx) : (modCur s f).nextJob = s.nextJob := rfl
@[simp] theorem modCur_nextCmd (s : State) (f : Ctx → Ctx) : (modCur s f).nextCmd = s.nextCmd := rfl
@[simp] theorem modCur_invPend (s : State) (f : Ctx → Ctx) : (modCur s f).invPend = s.invPend := rfl
@[simp] theorem modCur_jwrites (s : State) (f : Ctx → Ctx) : (modCur s f).jwrites = s.jwrites := rfl
@[simp] theorem modCur_sent (s : State) (f : Ctx → Ctx) : (modCur s f).sent = s.sent := rfl
@[simp] theorem modCur_cur (s : State) (f : Ctx → Ctx) : (modCur s f).cur = s.cur := rfl
@[simp] theorem modCur_curStream (s : State) (f : Ctx → Ctx) : (modCur s f).curStream = s.curStream := rfl
@[simp] theorem modCur_inputs (s : State) (f : Ctx → Ctx) : (modCur s f).inputs = s.inputs := rfl
@[simp] theorem modCur_schedule (s : State) (f : Ctx → Ctx) : (modCur s f).schedule = s.schedule := rfl
@[simp] theorem modCur_rotor (s : State) (f : Ctx → Ctx) : (modCur s f).rotor = s.rotor := rfl
@[simp] theorem modCur_freeCtr (s : State) (f : Ctx → Ctx) : (modCur s f).freeCtr = s.freeCtr := rfl
@[simp] theorem modCur_walkFills (s : State) (f : Ctx → Ctx) : (modCur s f).walkFills = s.walkFills := rfl

@[simp] theorem charge_islands (s : State) (c : CoreId) (k n : Nat) : (charge s c k n).islands = s.islands := rfl
@[simp] theorem charge_gov (s : State) (c : CoreId) (k n : Nat) : (charge s c k n).gov = s.gov := rfl
@[simp] theorem charge_pkg (s : State) (c : CoreId) (k n : Nat) : (charge s c k n).pkg = s.pkg := rfl
@[simp] theorem charge_links (s : State) (c : CoreId) (k n : Nat) : (charge s c k n).links = s.links := rfl
@[simp] theorem charge_contexts (s : State) (c : CoreId) (k n : Nat) : (charge s c k n).contexts = s.contexts := rfl
@[simp] theorem charge_slots (s : State) (c : CoreId) (k n : Nat) : (charge s c k n).slots = s.slots := rfl
@[simp] theorem charge_armed (s : State) (c : CoreId) (k n : Nat) : (charge s c k n).armed = s.armed := rfl
@[simp] theorem charge_fclassOp (s : State) (c : CoreId) (k n : Nat) : (charge s c k n).fclassOp = s.fclassOp := rfl
@[simp] theorem charge_disp (s : State) (c : CoreId) (k n : Nat) : (charge s c k n).disp = s.disp := rfl
@[simp] theorem charge_mem (s : State) (c : CoreId) (k n : Nat) : (charge s c k n).mem = s.mem := rfl
@[simp] theorem charge_hostMem (s : State) (c : CoreId) (k n : Nat) : (charge s c k n).hostMem = s.hostMem := rfl
@[simp] theorem charge_slices (s : State) (c : CoreId) (k n : Nat) : (charge s c k n).slices = s.slices := rfl
@[simp] theorem charge_astBase (s : State) (c : CoreId) (k n : Nat) : (charge s c k n).astBase = s.astBase := rfl
@[simp] theorem charge_owned (s : State) (c : CoreId) (k n : Nat) : (charge s c k n).owned = s.owned := rfl
@[simp] theorem charge_engTlb (s : State) (c : CoreId) (k n : Nat) : (charge s c k n).engTlb = s.engTlb := rfl
@[simp] theorem charge_home (s : State) (c : CoreId) (k n : Nat) : (charge s c k n).home = s.home := rfl
@[simp] theorem charge_devBars (s : State) (c : CoreId) (k n : Nat) : (charge s c k n).devBars = s.devBars := rfl
@[simp] theorem charge_monitors (s : State) (c : CoreId) (k n : Nat) : (charge s c k n).monitors = s.monitors := rfl
@[simp] theorem charge_loose (s : State) (c : CoreId) (k n : Nat) : (charge s c k n).loose = s.loose := rfl
@[simp] theorem charge_counters (s : State) (c : CoreId) (k n : Nat) : (charge s c k n).counters = s.counters := rfl
@[simp] theorem charge_jobs (s : State) (c : CoreId) (k n : Nat) : (charge s c k n).jobs = s.jobs := rfl
@[simp] theorem charge_samples (s : State) (c : CoreId) (k n : Nat) : (charge s c k n).samples = s.samples := rfl
@[simp] theorem charge_settling (s : State) (c : CoreId) (k n : Nat) : (charge s c k n).settling = s.settling := rfl
@[simp] theorem charge_yields (s : State) (c : CoreId) (k n : Nat) : (charge s c k n).yields = s.yields := rfl
@[simp] theorem charge_trapq (s : State) (c : CoreId) (k n : Nat) : (charge s c k n).trapq = s.trapq := rfl
@[simp] theorem charge_seq (s : State) (c : CoreId) (k n : Nat) : (charge s c k n).seq = s.seq := rfl
@[simp] theorem charge_stamp (s : State) (c : CoreId) (k n : Nat) : (charge s c k n).stamp = s.stamp := rfl
@[simp] theorem charge_nextJob (s : State) (c : CoreId) (k n : Nat) : (charge s c k n).nextJob = s.nextJob := rfl
@[simp] theorem charge_nextCmd (s : State) (c : CoreId) (k n : Nat) : (charge s c k n).nextCmd = s.nextCmd := rfl
@[simp] theorem charge_invPend (s : State) (c : CoreId) (k n : Nat) : (charge s c k n).invPend = s.invPend := rfl
@[simp] theorem charge_jwrites (s : State) (c : CoreId) (k n : Nat) : (charge s c k n).jwrites = s.jwrites := rfl
@[simp] theorem charge_sent (s : State) (c : CoreId) (k n : Nat) : (charge s c k n).sent = s.sent := rfl
@[simp] theorem charge_cur (s : State) (c : CoreId) (k n : Nat) : (charge s c k n).cur = s.cur := rfl
@[simp] theorem charge_curStream (s : State) (c : CoreId) (k n : Nat) : (charge s c k n).curStream = s.curStream := rfl
@[simp] theorem charge_inputs (s : State) (c : CoreId) (k n : Nat) : (charge s c k n).inputs = s.inputs := rfl
@[simp] theorem charge_schedule (s : State) (c : CoreId) (k n : Nat) : (charge s c k n).schedule = s.schedule := rfl
@[simp] theorem charge_rotor (s : State) (c : CoreId) (k n : Nat) : (charge s c k n).rotor = s.rotor := rfl
@[simp] theorem charge_freeCtr (s : State) (c : CoreId) (k n : Nat) : (charge s c k n).freeCtr = s.freeCtr := rfl
@[simp] theorem charge_walkFills (s : State) (c : CoreId) (k n : Nat) : (charge s c k n).walkFills = s.walkFills := rfl

@[simp] theorem activeCycles_islands (s : State) (c : CoreId) (n : Nat) : (activeCycles s c n).islands = s.islands := rfl
@[simp] theorem activeCycles_gov (s : State) (c : CoreId) (n : Nat) : (activeCycles s c n).gov = s.gov := rfl
@[simp] theorem activeCycles_pkg (s : State) (c : CoreId) (n : Nat) : (activeCycles s c n).pkg = s.pkg := rfl
@[simp] theorem activeCycles_links (s : State) (c : CoreId) (n : Nat) : (activeCycles s c n).links = s.links := rfl
@[simp] theorem activeCycles_contexts (s : State) (c : CoreId) (n : Nat) : (activeCycles s c n).contexts = s.contexts := rfl
@[simp] theorem activeCycles_slots (s : State) (c : CoreId) (n : Nat) : (activeCycles s c n).slots = s.slots := rfl
@[simp] theorem activeCycles_armed (s : State) (c : CoreId) (n : Nat) : (activeCycles s c n).armed = s.armed := rfl
@[simp] theorem activeCycles_fclassOp (s : State) (c : CoreId) (n : Nat) : (activeCycles s c n).fclassOp = s.fclassOp := rfl
@[simp] theorem activeCycles_disp (s : State) (c : CoreId) (n : Nat) : (activeCycles s c n).disp = s.disp := rfl
@[simp] theorem activeCycles_mem (s : State) (c : CoreId) (n : Nat) : (activeCycles s c n).mem = s.mem := rfl
@[simp] theorem activeCycles_hostMem (s : State) (c : CoreId) (n : Nat) : (activeCycles s c n).hostMem = s.hostMem := rfl
@[simp] theorem activeCycles_slices (s : State) (c : CoreId) (n : Nat) : (activeCycles s c n).slices = s.slices := rfl
@[simp] theorem activeCycles_astBase (s : State) (c : CoreId) (n : Nat) : (activeCycles s c n).astBase = s.astBase := rfl
@[simp] theorem activeCycles_owned (s : State) (c : CoreId) (n : Nat) : (activeCycles s c n).owned = s.owned := rfl
@[simp] theorem activeCycles_engTlb (s : State) (c : CoreId) (n : Nat) : (activeCycles s c n).engTlb = s.engTlb := rfl
@[simp] theorem activeCycles_home (s : State) (c : CoreId) (n : Nat) : (activeCycles s c n).home = s.home := rfl
@[simp] theorem activeCycles_devBars (s : State) (c : CoreId) (n : Nat) : (activeCycles s c n).devBars = s.devBars := rfl
@[simp] theorem activeCycles_monitors (s : State) (c : CoreId) (n : Nat) : (activeCycles s c n).monitors = s.monitors := rfl
@[simp] theorem activeCycles_loose (s : State) (c : CoreId) (n : Nat) : (activeCycles s c n).loose = s.loose := rfl
@[simp] theorem activeCycles_counters (s : State) (c : CoreId) (n : Nat) : (activeCycles s c n).counters = s.counters := rfl
@[simp] theorem activeCycles_jobs (s : State) (c : CoreId) (n : Nat) : (activeCycles s c n).jobs = s.jobs := rfl
@[simp] theorem activeCycles_samples (s : State) (c : CoreId) (n : Nat) : (activeCycles s c n).samples = s.samples := rfl
@[simp] theorem activeCycles_settling (s : State) (c : CoreId) (n : Nat) : (activeCycles s c n).settling = s.settling := rfl
@[simp] theorem activeCycles_yields (s : State) (c : CoreId) (n : Nat) : (activeCycles s c n).yields = s.yields := rfl
@[simp] theorem activeCycles_trapq (s : State) (c : CoreId) (n : Nat) : (activeCycles s c n).trapq = s.trapq := rfl
@[simp] theorem activeCycles_seq (s : State) (c : CoreId) (n : Nat) : (activeCycles s c n).seq = s.seq := rfl
@[simp] theorem activeCycles_stamp (s : State) (c : CoreId) (n : Nat) : (activeCycles s c n).stamp = s.stamp := rfl
@[simp] theorem activeCycles_nextJob (s : State) (c : CoreId) (n : Nat) : (activeCycles s c n).nextJob = s.nextJob := rfl
@[simp] theorem activeCycles_nextCmd (s : State) (c : CoreId) (n : Nat) : (activeCycles s c n).nextCmd = s.nextCmd := rfl
@[simp] theorem activeCycles_invPend (s : State) (c : CoreId) (n : Nat) : (activeCycles s c n).invPend = s.invPend := rfl
@[simp] theorem activeCycles_jwrites (s : State) (c : CoreId) (n : Nat) : (activeCycles s c n).jwrites = s.jwrites := rfl
@[simp] theorem activeCycles_sent (s : State) (c : CoreId) (n : Nat) : (activeCycles s c n).sent = s.sent := rfl
@[simp] theorem activeCycles_cur (s : State) (c : CoreId) (n : Nat) : (activeCycles s c n).cur = s.cur := rfl
@[simp] theorem activeCycles_curStream (s : State) (c : CoreId) (n : Nat) : (activeCycles s c n).curStream = s.curStream := rfl
@[simp] theorem activeCycles_inputs (s : State) (c : CoreId) (n : Nat) : (activeCycles s c n).inputs = s.inputs := rfl
@[simp] theorem activeCycles_schedule (s : State) (c : CoreId) (n : Nat) : (activeCycles s c n).schedule = s.schedule := rfl
@[simp] theorem activeCycles_rotor (s : State) (c : CoreId) (n : Nat) : (activeCycles s c n).rotor = s.rotor := rfl
@[simp] theorem activeCycles_freeCtr (s : State) (c : CoreId) (n : Nat) : (activeCycles s c n).freeCtr = s.freeCtr := rfl
@[simp] theorem activeCycles_walkFills (s : State) (c : CoreId) (n : Nat) : (activeCycles s c n).walkFills = s.walkFills := rfl

@[simp] theorem activeCycle_islands (s : State) (c : CoreId) : (activeCycle s c).islands = s.islands := rfl
@[simp] theorem activeCycle_gov (s : State) (c : CoreId) : (activeCycle s c).gov = s.gov := rfl
@[simp] theorem activeCycle_pkg (s : State) (c : CoreId) : (activeCycle s c).pkg = s.pkg := rfl
@[simp] theorem activeCycle_links (s : State) (c : CoreId) : (activeCycle s c).links = s.links := rfl
@[simp] theorem activeCycle_contexts (s : State) (c : CoreId) : (activeCycle s c).contexts = s.contexts := rfl
@[simp] theorem activeCycle_slots (s : State) (c : CoreId) : (activeCycle s c).slots = s.slots := rfl
@[simp] theorem activeCycle_armed (s : State) (c : CoreId) : (activeCycle s c).armed = s.armed := rfl
@[simp] theorem activeCycle_fclassOp (s : State) (c : CoreId) : (activeCycle s c).fclassOp = s.fclassOp := rfl
@[simp] theorem activeCycle_disp (s : State) (c : CoreId) : (activeCycle s c).disp = s.disp := rfl
@[simp] theorem activeCycle_mem (s : State) (c : CoreId) : (activeCycle s c).mem = s.mem := rfl
@[simp] theorem activeCycle_hostMem (s : State) (c : CoreId) : (activeCycle s c).hostMem = s.hostMem := rfl
@[simp] theorem activeCycle_slices (s : State) (c : CoreId) : (activeCycle s c).slices = s.slices := rfl
@[simp] theorem activeCycle_astBase (s : State) (c : CoreId) : (activeCycle s c).astBase = s.astBase := rfl
@[simp] theorem activeCycle_owned (s : State) (c : CoreId) : (activeCycle s c).owned = s.owned := rfl
@[simp] theorem activeCycle_engTlb (s : State) (c : CoreId) : (activeCycle s c).engTlb = s.engTlb := rfl
@[simp] theorem activeCycle_home (s : State) (c : CoreId) : (activeCycle s c).home = s.home := rfl
@[simp] theorem activeCycle_devBars (s : State) (c : CoreId) : (activeCycle s c).devBars = s.devBars := rfl
@[simp] theorem activeCycle_monitors (s : State) (c : CoreId) : (activeCycle s c).monitors = s.monitors := rfl
@[simp] theorem activeCycle_loose (s : State) (c : CoreId) : (activeCycle s c).loose = s.loose := rfl
@[simp] theorem activeCycle_counters (s : State) (c : CoreId) : (activeCycle s c).counters = s.counters := rfl
@[simp] theorem activeCycle_jobs (s : State) (c : CoreId) : (activeCycle s c).jobs = s.jobs := rfl
@[simp] theorem activeCycle_samples (s : State) (c : CoreId) : (activeCycle s c).samples = s.samples := rfl
@[simp] theorem activeCycle_settling (s : State) (c : CoreId) : (activeCycle s c).settling = s.settling := rfl
@[simp] theorem activeCycle_yields (s : State) (c : CoreId) : (activeCycle s c).yields = s.yields := rfl
@[simp] theorem activeCycle_trapq (s : State) (c : CoreId) : (activeCycle s c).trapq = s.trapq := rfl
@[simp] theorem activeCycle_seq (s : State) (c : CoreId) : (activeCycle s c).seq = s.seq := rfl
@[simp] theorem activeCycle_stamp (s : State) (c : CoreId) : (activeCycle s c).stamp = s.stamp := rfl
@[simp] theorem activeCycle_nextJob (s : State) (c : CoreId) : (activeCycle s c).nextJob = s.nextJob := rfl
@[simp] theorem activeCycle_nextCmd (s : State) (c : CoreId) : (activeCycle s c).nextCmd = s.nextCmd := rfl
@[simp] theorem activeCycle_invPend (s : State) (c : CoreId) : (activeCycle s c).invPend = s.invPend := rfl
@[simp] theorem activeCycle_jwrites (s : State) (c : CoreId) : (activeCycle s c).jwrites = s.jwrites := rfl
@[simp] theorem activeCycle_sent (s : State) (c : CoreId) : (activeCycle s c).sent = s.sent := rfl
@[simp] theorem activeCycle_cur (s : State) (c : CoreId) : (activeCycle s c).cur = s.cur := rfl
@[simp] theorem activeCycle_curStream (s : State) (c : CoreId) : (activeCycle s c).curStream = s.curStream := rfl
@[simp] theorem activeCycle_inputs (s : State) (c : CoreId) : (activeCycle s c).inputs = s.inputs := rfl
@[simp] theorem activeCycle_schedule (s : State) (c : CoreId) : (activeCycle s c).schedule = s.schedule := rfl
@[simp] theorem activeCycle_rotor (s : State) (c : CoreId) : (activeCycle s c).rotor = s.rotor := rfl
@[simp] theorem activeCycle_freeCtr (s : State) (c : CoreId) : (activeCycle s c).freeCtr = s.freeCtr := rfl
@[simp] theorem activeCycle_walkFills (s : State) (c : CoreId) : (activeCycle s c).walkFills = s.walkFills := rfl

@[simp] theorem stalledCycles_islands (s : State) (c : CoreId) (n : Nat) : (stalledCycles s c n).islands = s.islands := rfl
@[simp] theorem stalledCycles_gov (s : State) (c : CoreId) (n : Nat) : (stalledCycles s c n).gov = s.gov := rfl
@[simp] theorem stalledCycles_pkg (s : State) (c : CoreId) (n : Nat) : (stalledCycles s c n).pkg = s.pkg := rfl
@[simp] theorem stalledCycles_links (s : State) (c : CoreId) (n : Nat) : (stalledCycles s c n).links = s.links := rfl
@[simp] theorem stalledCycles_contexts (s : State) (c : CoreId) (n : Nat) : (stalledCycles s c n).contexts = s.contexts := rfl
@[simp] theorem stalledCycles_slots (s : State) (c : CoreId) (n : Nat) : (stalledCycles s c n).slots = s.slots := rfl
@[simp] theorem stalledCycles_armed (s : State) (c : CoreId) (n : Nat) : (stalledCycles s c n).armed = s.armed := rfl
@[simp] theorem stalledCycles_fclassOp (s : State) (c : CoreId) (n : Nat) : (stalledCycles s c n).fclassOp = s.fclassOp := rfl
@[simp] theorem stalledCycles_disp (s : State) (c : CoreId) (n : Nat) : (stalledCycles s c n).disp = s.disp := rfl
@[simp] theorem stalledCycles_mem (s : State) (c : CoreId) (n : Nat) : (stalledCycles s c n).mem = s.mem := rfl
@[simp] theorem stalledCycles_hostMem (s : State) (c : CoreId) (n : Nat) : (stalledCycles s c n).hostMem = s.hostMem := rfl
@[simp] theorem stalledCycles_slices (s : State) (c : CoreId) (n : Nat) : (stalledCycles s c n).slices = s.slices := rfl
@[simp] theorem stalledCycles_astBase (s : State) (c : CoreId) (n : Nat) : (stalledCycles s c n).astBase = s.astBase := rfl
@[simp] theorem stalledCycles_owned (s : State) (c : CoreId) (n : Nat) : (stalledCycles s c n).owned = s.owned := rfl
@[simp] theorem stalledCycles_engTlb (s : State) (c : CoreId) (n : Nat) : (stalledCycles s c n).engTlb = s.engTlb := rfl
@[simp] theorem stalledCycles_home (s : State) (c : CoreId) (n : Nat) : (stalledCycles s c n).home = s.home := rfl
@[simp] theorem stalledCycles_devBars (s : State) (c : CoreId) (n : Nat) : (stalledCycles s c n).devBars = s.devBars := rfl
@[simp] theorem stalledCycles_monitors (s : State) (c : CoreId) (n : Nat) : (stalledCycles s c n).monitors = s.monitors := rfl
@[simp] theorem stalledCycles_loose (s : State) (c : CoreId) (n : Nat) : (stalledCycles s c n).loose = s.loose := rfl
@[simp] theorem stalledCycles_counters (s : State) (c : CoreId) (n : Nat) : (stalledCycles s c n).counters = s.counters := rfl
@[simp] theorem stalledCycles_jobs (s : State) (c : CoreId) (n : Nat) : (stalledCycles s c n).jobs = s.jobs := rfl
@[simp] theorem stalledCycles_samples (s : State) (c : CoreId) (n : Nat) : (stalledCycles s c n).samples = s.samples := rfl
@[simp] theorem stalledCycles_settling (s : State) (c : CoreId) (n : Nat) : (stalledCycles s c n).settling = s.settling := rfl
@[simp] theorem stalledCycles_yields (s : State) (c : CoreId) (n : Nat) : (stalledCycles s c n).yields = s.yields := rfl
@[simp] theorem stalledCycles_trapq (s : State) (c : CoreId) (n : Nat) : (stalledCycles s c n).trapq = s.trapq := rfl
@[simp] theorem stalledCycles_seq (s : State) (c : CoreId) (n : Nat) : (stalledCycles s c n).seq = s.seq := rfl
@[simp] theorem stalledCycles_stamp (s : State) (c : CoreId) (n : Nat) : (stalledCycles s c n).stamp = s.stamp := rfl
@[simp] theorem stalledCycles_nextJob (s : State) (c : CoreId) (n : Nat) : (stalledCycles s c n).nextJob = s.nextJob := rfl
@[simp] theorem stalledCycles_nextCmd (s : State) (c : CoreId) (n : Nat) : (stalledCycles s c n).nextCmd = s.nextCmd := rfl
@[simp] theorem stalledCycles_invPend (s : State) (c : CoreId) (n : Nat) : (stalledCycles s c n).invPend = s.invPend := rfl
@[simp] theorem stalledCycles_jwrites (s : State) (c : CoreId) (n : Nat) : (stalledCycles s c n).jwrites = s.jwrites := rfl
@[simp] theorem stalledCycles_sent (s : State) (c : CoreId) (n : Nat) : (stalledCycles s c n).sent = s.sent := rfl
@[simp] theorem stalledCycles_cur (s : State) (c : CoreId) (n : Nat) : (stalledCycles s c n).cur = s.cur := rfl
@[simp] theorem stalledCycles_curStream (s : State) (c : CoreId) (n : Nat) : (stalledCycles s c n).curStream = s.curStream := rfl
@[simp] theorem stalledCycles_inputs (s : State) (c : CoreId) (n : Nat) : (stalledCycles s c n).inputs = s.inputs := rfl
@[simp] theorem stalledCycles_schedule (s : State) (c : CoreId) (n : Nat) : (stalledCycles s c n).schedule = s.schedule := rfl
@[simp] theorem stalledCycles_rotor (s : State) (c : CoreId) (n : Nat) : (stalledCycles s c n).rotor = s.rotor := rfl
@[simp] theorem stalledCycles_freeCtr (s : State) (c : CoreId) (n : Nat) : (stalledCycles s c n).freeCtr = s.freeCtr := rfl
@[simp] theorem stalledCycles_walkFills (s : State) (c : CoreId) (n : Nat) : (stalledCycles s c n).walkFills = s.walkFills := rfl

@[simp] theorem retireAt_islands (s : State) (st : Stream) (pc : Word) : (retireAt s st pc).islands = s.islands := rfl
@[simp] theorem retireAt_gov (s : State) (st : Stream) (pc : Word) : (retireAt s st pc).gov = s.gov := rfl
@[simp] theorem retireAt_pkg (s : State) (st : Stream) (pc : Word) : (retireAt s st pc).pkg = s.pkg := rfl
@[simp] theorem retireAt_links (s : State) (st : Stream) (pc : Word) : (retireAt s st pc).links = s.links := rfl
@[simp] theorem retireAt_contexts (s : State) (st : Stream) (pc : Word) : (retireAt s st pc).contexts = s.contexts := rfl
@[simp] theorem retireAt_slots (s : State) (st : Stream) (pc : Word) : (retireAt s st pc).slots = s.slots := rfl
@[simp] theorem retireAt_armed (s : State) (st : Stream) (pc : Word) : (retireAt s st pc).armed = s.armed := rfl
@[simp] theorem retireAt_fclassOp (s : State) (st : Stream) (pc : Word) : (retireAt s st pc).fclassOp = s.fclassOp := rfl
@[simp] theorem retireAt_disp (s : State) (st : Stream) (pc : Word) : (retireAt s st pc).disp = s.disp := rfl
@[simp] theorem retireAt_mem (s : State) (st : Stream) (pc : Word) : (retireAt s st pc).mem = s.mem := rfl
@[simp] theorem retireAt_hostMem (s : State) (st : Stream) (pc : Word) : (retireAt s st pc).hostMem = s.hostMem := rfl
@[simp] theorem retireAt_slices (s : State) (st : Stream) (pc : Word) : (retireAt s st pc).slices = s.slices := rfl
@[simp] theorem retireAt_astBase (s : State) (st : Stream) (pc : Word) : (retireAt s st pc).astBase = s.astBase := rfl
@[simp] theorem retireAt_owned (s : State) (st : Stream) (pc : Word) : (retireAt s st pc).owned = s.owned := rfl
@[simp] theorem retireAt_engTlb (s : State) (st : Stream) (pc : Word) : (retireAt s st pc).engTlb = s.engTlb := rfl
@[simp] theorem retireAt_home (s : State) (st : Stream) (pc : Word) : (retireAt s st pc).home = s.home := rfl
@[simp] theorem retireAt_devBars (s : State) (st : Stream) (pc : Word) : (retireAt s st pc).devBars = s.devBars := rfl
@[simp] theorem retireAt_monitors (s : State) (st : Stream) (pc : Word) : (retireAt s st pc).monitors = s.monitors := rfl
@[simp] theorem retireAt_loose (s : State) (st : Stream) (pc : Word) : (retireAt s st pc).loose = s.loose := rfl
@[simp] theorem retireAt_counters (s : State) (st : Stream) (pc : Word) : (retireAt s st pc).counters = s.counters := rfl
@[simp] theorem retireAt_jobs (s : State) (st : Stream) (pc : Word) : (retireAt s st pc).jobs = s.jobs := rfl
@[simp] theorem retireAt_samples (s : State) (st : Stream) (pc : Word) : (retireAt s st pc).samples = s.samples := rfl
@[simp] theorem retireAt_settling (s : State) (st : Stream) (pc : Word) : (retireAt s st pc).settling = s.settling := rfl
@[simp] theorem retireAt_yields (s : State) (st : Stream) (pc : Word) : (retireAt s st pc).yields = s.yields := rfl
@[simp] theorem retireAt_trapq (s : State) (st : Stream) (pc : Word) : (retireAt s st pc).trapq = s.trapq := rfl
@[simp] theorem retireAt_seq (s : State) (st : Stream) (pc : Word) : (retireAt s st pc).seq = s.seq := rfl
@[simp] theorem retireAt_stamp (s : State) (st : Stream) (pc : Word) : (retireAt s st pc).stamp = s.stamp := rfl
@[simp] theorem retireAt_nextJob (s : State) (st : Stream) (pc : Word) : (retireAt s st pc).nextJob = s.nextJob := rfl
@[simp] theorem retireAt_nextCmd (s : State) (st : Stream) (pc : Word) : (retireAt s st pc).nextCmd = s.nextCmd := rfl
@[simp] theorem retireAt_invPend (s : State) (st : Stream) (pc : Word) : (retireAt s st pc).invPend = s.invPend := rfl
@[simp] theorem retireAt_jwrites (s : State) (st : Stream) (pc : Word) : (retireAt s st pc).jwrites = s.jwrites := rfl
@[simp] theorem retireAt_sent (s : State) (st : Stream) (pc : Word) : (retireAt s st pc).sent = s.sent := rfl
@[simp] theorem retireAt_cur (s : State) (st : Stream) (pc : Word) : (retireAt s st pc).cur = s.cur := rfl
@[simp] theorem retireAt_curStream (s : State) (st : Stream) (pc : Word) : (retireAt s st pc).curStream = s.curStream := rfl
@[simp] theorem retireAt_inputs (s : State) (st : Stream) (pc : Word) : (retireAt s st pc).inputs = s.inputs := rfl
@[simp] theorem retireAt_schedule (s : State) (st : Stream) (pc : Word) : (retireAt s st pc).schedule = s.schedule := rfl
@[simp] theorem retireAt_rotor (s : State) (st : Stream) (pc : Word) : (retireAt s st pc).rotor = s.rotor := rfl
@[simp] theorem retireAt_freeCtr (s : State) (st : Stream) (pc : Word) : (retireAt s st pc).freeCtr = s.freeCtr := rfl
@[simp] theorem retireAt_walkFills (s : State) (st : Stream) (pc : Word) : (retireAt s st pc).walkFills = s.walkFills := rfl

@[simp] theorem retire_islands (s : State) (st : Stream) (n : Nat) : (retire s st n).islands = s.islands := rfl
@[simp] theorem retire_gov (s : State) (st : Stream) (n : Nat) : (retire s st n).gov = s.gov := rfl
@[simp] theorem retire_pkg (s : State) (st : Stream) (n : Nat) : (retire s st n).pkg = s.pkg := rfl
@[simp] theorem retire_links (s : State) (st : Stream) (n : Nat) : (retire s st n).links = s.links := rfl
@[simp] theorem retire_contexts (s : State) (st : Stream) (n : Nat) : (retire s st n).contexts = s.contexts := rfl
@[simp] theorem retire_slots (s : State) (st : Stream) (n : Nat) : (retire s st n).slots = s.slots := rfl
@[simp] theorem retire_armed (s : State) (st : Stream) (n : Nat) : (retire s st n).armed = s.armed := rfl
@[simp] theorem retire_fclassOp (s : State) (st : Stream) (n : Nat) : (retire s st n).fclassOp = s.fclassOp := rfl
@[simp] theorem retire_disp (s : State) (st : Stream) (n : Nat) : (retire s st n).disp = s.disp := rfl
@[simp] theorem retire_mem (s : State) (st : Stream) (n : Nat) : (retire s st n).mem = s.mem := rfl
@[simp] theorem retire_hostMem (s : State) (st : Stream) (n : Nat) : (retire s st n).hostMem = s.hostMem := rfl
@[simp] theorem retire_slices (s : State) (st : Stream) (n : Nat) : (retire s st n).slices = s.slices := rfl
@[simp] theorem retire_astBase (s : State) (st : Stream) (n : Nat) : (retire s st n).astBase = s.astBase := rfl
@[simp] theorem retire_owned (s : State) (st : Stream) (n : Nat) : (retire s st n).owned = s.owned := rfl
@[simp] theorem retire_engTlb (s : State) (st : Stream) (n : Nat) : (retire s st n).engTlb = s.engTlb := rfl
@[simp] theorem retire_home (s : State) (st : Stream) (n : Nat) : (retire s st n).home = s.home := rfl
@[simp] theorem retire_devBars (s : State) (st : Stream) (n : Nat) : (retire s st n).devBars = s.devBars := rfl
@[simp] theorem retire_monitors (s : State) (st : Stream) (n : Nat) : (retire s st n).monitors = s.monitors := rfl
@[simp] theorem retire_loose (s : State) (st : Stream) (n : Nat) : (retire s st n).loose = s.loose := rfl
@[simp] theorem retire_counters (s : State) (st : Stream) (n : Nat) : (retire s st n).counters = s.counters := rfl
@[simp] theorem retire_jobs (s : State) (st : Stream) (n : Nat) : (retire s st n).jobs = s.jobs := rfl
@[simp] theorem retire_samples (s : State) (st : Stream) (n : Nat) : (retire s st n).samples = s.samples := rfl
@[simp] theorem retire_settling (s : State) (st : Stream) (n : Nat) : (retire s st n).settling = s.settling := rfl
@[simp] theorem retire_yields (s : State) (st : Stream) (n : Nat) : (retire s st n).yields = s.yields := rfl
@[simp] theorem retire_trapq (s : State) (st : Stream) (n : Nat) : (retire s st n).trapq = s.trapq := rfl
@[simp] theorem retire_seq (s : State) (st : Stream) (n : Nat) : (retire s st n).seq = s.seq := rfl
@[simp] theorem retire_stamp (s : State) (st : Stream) (n : Nat) : (retire s st n).stamp = s.stamp := rfl
@[simp] theorem retire_nextJob (s : State) (st : Stream) (n : Nat) : (retire s st n).nextJob = s.nextJob := rfl
@[simp] theorem retire_nextCmd (s : State) (st : Stream) (n : Nat) : (retire s st n).nextCmd = s.nextCmd := rfl
@[simp] theorem retire_invPend (s : State) (st : Stream) (n : Nat) : (retire s st n).invPend = s.invPend := rfl
@[simp] theorem retire_jwrites (s : State) (st : Stream) (n : Nat) : (retire s st n).jwrites = s.jwrites := rfl
@[simp] theorem retire_sent (s : State) (st : Stream) (n : Nat) : (retire s st n).sent = s.sent := rfl
@[simp] theorem retire_cur (s : State) (st : Stream) (n : Nat) : (retire s st n).cur = s.cur := rfl
@[simp] theorem retire_curStream (s : State) (st : Stream) (n : Nat) : (retire s st n).curStream = s.curStream := rfl
@[simp] theorem retire_inputs (s : State) (st : Stream) (n : Nat) : (retire s st n).inputs = s.inputs := rfl
@[simp] theorem retire_schedule (s : State) (st : Stream) (n : Nat) : (retire s st n).schedule = s.schedule := rfl
@[simp] theorem retire_rotor (s : State) (st : Stream) (n : Nat) : (retire s st n).rotor = s.rotor := rfl
@[simp] theorem retire_freeCtr (s : State) (st : Stream) (n : Nat) : (retire s st n).freeCtr = s.freeCtr := rfl
@[simp] theorem retire_walkFills (s : State) (st : Stream) (n : Nat) : (retire s st n).walkFills = s.walkFills := rfl

@[simp] theorem modIsland_cores (s : State) (i : IslandId) (f : Island → Island) : (modIsland s i f).cores = s.cores := rfl
@[simp] theorem modIsland_gov (s : State) (i : IslandId) (f : Island → Island) : (modIsland s i f).gov = s.gov := rfl
@[simp] theorem modIsland_pkg (s : State) (i : IslandId) (f : Island → Island) : (modIsland s i f).pkg = s.pkg := rfl
@[simp] theorem modIsland_links (s : State) (i : IslandId) (f : Island → Island) : (modIsland s i f).links = s.links := rfl
@[simp] theorem modIsland_contexts (s : State) (i : IslandId) (f : Island → Island) : (modIsland s i f).contexts = s.contexts := rfl
@[simp] theorem modIsland_slots (s : State) (i : IslandId) (f : Island → Island) : (modIsland s i f).slots = s.slots := rfl
@[simp] theorem modIsland_armed (s : State) (i : IslandId) (f : Island → Island) : (modIsland s i f).armed = s.armed := rfl
@[simp] theorem modIsland_fclassOp (s : State) (i : IslandId) (f : Island → Island) : (modIsland s i f).fclassOp = s.fclassOp := rfl
@[simp] theorem modIsland_disp (s : State) (i : IslandId) (f : Island → Island) : (modIsland s i f).disp = s.disp := rfl
@[simp] theorem modIsland_mem (s : State) (i : IslandId) (f : Island → Island) : (modIsland s i f).mem = s.mem := rfl
@[simp] theorem modIsland_hostMem (s : State) (i : IslandId) (f : Island → Island) : (modIsland s i f).hostMem = s.hostMem := rfl
@[simp] theorem modIsland_slices (s : State) (i : IslandId) (f : Island → Island) : (modIsland s i f).slices = s.slices := rfl
@[simp] theorem modIsland_astBase (s : State) (i : IslandId) (f : Island → Island) : (modIsland s i f).astBase = s.astBase := rfl
@[simp] theorem modIsland_owned (s : State) (i : IslandId) (f : Island → Island) : (modIsland s i f).owned = s.owned := rfl
@[simp] theorem modIsland_engTlb (s : State) (i : IslandId) (f : Island → Island) : (modIsland s i f).engTlb = s.engTlb := rfl
@[simp] theorem modIsland_home (s : State) (i : IslandId) (f : Island → Island) : (modIsland s i f).home = s.home := rfl
@[simp] theorem modIsland_devBars (s : State) (i : IslandId) (f : Island → Island) : (modIsland s i f).devBars = s.devBars := rfl
@[simp] theorem modIsland_monitors (s : State) (i : IslandId) (f : Island → Island) : (modIsland s i f).monitors = s.monitors := rfl
@[simp] theorem modIsland_loose (s : State) (i : IslandId) (f : Island → Island) : (modIsland s i f).loose = s.loose := rfl
@[simp] theorem modIsland_counters (s : State) (i : IslandId) (f : Island → Island) : (modIsland s i f).counters = s.counters := rfl
@[simp] theorem modIsland_jobs (s : State) (i : IslandId) (f : Island → Island) : (modIsland s i f).jobs = s.jobs := rfl
@[simp] theorem modIsland_samples (s : State) (i : IslandId) (f : Island → Island) : (modIsland s i f).samples = s.samples := rfl
@[simp] theorem modIsland_settling (s : State) (i : IslandId) (f : Island → Island) : (modIsland s i f).settling = s.settling := rfl
@[simp] theorem modIsland_yields (s : State) (i : IslandId) (f : Island → Island) : (modIsland s i f).yields = s.yields := rfl
@[simp] theorem modIsland_trapq (s : State) (i : IslandId) (f : Island → Island) : (modIsland s i f).trapq = s.trapq := rfl
@[simp] theorem modIsland_seq (s : State) (i : IslandId) (f : Island → Island) : (modIsland s i f).seq = s.seq := rfl
@[simp] theorem modIsland_stamp (s : State) (i : IslandId) (f : Island → Island) : (modIsland s i f).stamp = s.stamp := rfl
@[simp] theorem modIsland_nextJob (s : State) (i : IslandId) (f : Island → Island) : (modIsland s i f).nextJob = s.nextJob := rfl
@[simp] theorem modIsland_nextCmd (s : State) (i : IslandId) (f : Island → Island) : (modIsland s i f).nextCmd = s.nextCmd := rfl
@[simp] theorem modIsland_invPend (s : State) (i : IslandId) (f : Island → Island) : (modIsland s i f).invPend = s.invPend := rfl
@[simp] theorem modIsland_jwrites (s : State) (i : IslandId) (f : Island → Island) : (modIsland s i f).jwrites = s.jwrites := rfl
@[simp] theorem modIsland_sent (s : State) (i : IslandId) (f : Island → Island) : (modIsland s i f).sent = s.sent := rfl
@[simp] theorem modIsland_cur (s : State) (i : IslandId) (f : Island → Island) : (modIsland s i f).cur = s.cur := rfl
@[simp] theorem modIsland_curStream (s : State) (i : IslandId) (f : Island → Island) : (modIsland s i f).curStream = s.curStream := rfl
@[simp] theorem modIsland_inputs (s : State) (i : IslandId) (f : Island → Island) : (modIsland s i f).inputs = s.inputs := rfl
@[simp] theorem modIsland_schedule (s : State) (i : IslandId) (f : Island → Island) : (modIsland s i f).schedule = s.schedule := rfl
@[simp] theorem modIsland_rotor (s : State) (i : IslandId) (f : Island → Island) : (modIsland s i f).rotor = s.rotor := rfl
@[simp] theorem modIsland_freeCtr (s : State) (i : IslandId) (f : Island → Island) : (modIsland s i f).freeCtr = s.freeCtr := rfl
@[simp] theorem modIsland_walkFills (s : State) (i : IslandId) (f : Island → Island) : (modIsland s i f).walkFills = s.walkFills := rfl

@[simp] theorem chargeExternal_gov (s : State) (c : CoreId) (n : Nat) : (chargeExternal s c n).gov = s.gov := rfl
@[simp] theorem chargeExternal_pkg (s : State) (c : CoreId) (n : Nat) : (chargeExternal s c n).pkg = s.pkg := rfl
@[simp] theorem chargeExternal_links (s : State) (c : CoreId) (n : Nat) : (chargeExternal s c n).links = s.links := rfl
@[simp] theorem chargeExternal_contexts (s : State) (c : CoreId) (n : Nat) : (chargeExternal s c n).contexts = s.contexts := rfl
@[simp] theorem chargeExternal_slots (s : State) (c : CoreId) (n : Nat) : (chargeExternal s c n).slots = s.slots := rfl
@[simp] theorem chargeExternal_armed (s : State) (c : CoreId) (n : Nat) : (chargeExternal s c n).armed = s.armed := rfl
@[simp] theorem chargeExternal_fclassOp (s : State) (c : CoreId) (n : Nat) : (chargeExternal s c n).fclassOp = s.fclassOp := rfl
@[simp] theorem chargeExternal_disp (s : State) (c : CoreId) (n : Nat) : (chargeExternal s c n).disp = s.disp := rfl
@[simp] theorem chargeExternal_mem (s : State) (c : CoreId) (n : Nat) : (chargeExternal s c n).mem = s.mem := rfl
@[simp] theorem chargeExternal_hostMem (s : State) (c : CoreId) (n : Nat) : (chargeExternal s c n).hostMem = s.hostMem := rfl
@[simp] theorem chargeExternal_slices (s : State) (c : CoreId) (n : Nat) : (chargeExternal s c n).slices = s.slices := rfl
@[simp] theorem chargeExternal_astBase (s : State) (c : CoreId) (n : Nat) : (chargeExternal s c n).astBase = s.astBase := rfl
@[simp] theorem chargeExternal_owned (s : State) (c : CoreId) (n : Nat) : (chargeExternal s c n).owned = s.owned := rfl
@[simp] theorem chargeExternal_engTlb (s : State) (c : CoreId) (n : Nat) : (chargeExternal s c n).engTlb = s.engTlb := rfl
@[simp] theorem chargeExternal_home (s : State) (c : CoreId) (n : Nat) : (chargeExternal s c n).home = s.home := rfl
@[simp] theorem chargeExternal_devBars (s : State) (c : CoreId) (n : Nat) : (chargeExternal s c n).devBars = s.devBars := rfl
@[simp] theorem chargeExternal_monitors (s : State) (c : CoreId) (n : Nat) : (chargeExternal s c n).monitors = s.monitors := rfl
@[simp] theorem chargeExternal_loose (s : State) (c : CoreId) (n : Nat) : (chargeExternal s c n).loose = s.loose := rfl
@[simp] theorem chargeExternal_counters (s : State) (c : CoreId) (n : Nat) : (chargeExternal s c n).counters = s.counters := rfl
@[simp] theorem chargeExternal_jobs (s : State) (c : CoreId) (n : Nat) : (chargeExternal s c n).jobs = s.jobs := rfl
@[simp] theorem chargeExternal_samples (s : State) (c : CoreId) (n : Nat) : (chargeExternal s c n).samples = s.samples := rfl
@[simp] theorem chargeExternal_settling (s : State) (c : CoreId) (n : Nat) : (chargeExternal s c n).settling = s.settling := rfl
@[simp] theorem chargeExternal_yields (s : State) (c : CoreId) (n : Nat) : (chargeExternal s c n).yields = s.yields := rfl
@[simp] theorem chargeExternal_trapq (s : State) (c : CoreId) (n : Nat) : (chargeExternal s c n).trapq = s.trapq := rfl
@[simp] theorem chargeExternal_seq (s : State) (c : CoreId) (n : Nat) : (chargeExternal s c n).seq = s.seq := rfl
@[simp] theorem chargeExternal_stamp (s : State) (c : CoreId) (n : Nat) : (chargeExternal s c n).stamp = s.stamp := rfl
@[simp] theorem chargeExternal_nextJob (s : State) (c : CoreId) (n : Nat) : (chargeExternal s c n).nextJob = s.nextJob := rfl
@[simp] theorem chargeExternal_nextCmd (s : State) (c : CoreId) (n : Nat) : (chargeExternal s c n).nextCmd = s.nextCmd := rfl
@[simp] theorem chargeExternal_invPend (s : State) (c : CoreId) (n : Nat) : (chargeExternal s c n).invPend = s.invPend := rfl
@[simp] theorem chargeExternal_jwrites (s : State) (c : CoreId) (n : Nat) : (chargeExternal s c n).jwrites = s.jwrites := rfl
@[simp] theorem chargeExternal_sent (s : State) (c : CoreId) (n : Nat) : (chargeExternal s c n).sent = s.sent := rfl
@[simp] theorem chargeExternal_cur (s : State) (c : CoreId) (n : Nat) : (chargeExternal s c n).cur = s.cur := rfl
@[simp] theorem chargeExternal_curStream (s : State) (c : CoreId) (n : Nat) : (chargeExternal s c n).curStream = s.curStream := rfl
@[simp] theorem chargeExternal_inputs (s : State) (c : CoreId) (n : Nat) : (chargeExternal s c n).inputs = s.inputs := rfl
@[simp] theorem chargeExternal_schedule (s : State) (c : CoreId) (n : Nat) : (chargeExternal s c n).schedule = s.schedule := rfl
@[simp] theorem chargeExternal_rotor (s : State) (c : CoreId) (n : Nat) : (chargeExternal s c n).rotor = s.rotor := rfl
@[simp] theorem chargeExternal_freeCtr (s : State) (c : CoreId) (n : Nat) : (chargeExternal s c n).freeCtr = s.freeCtr := rfl
@[simp] theorem chargeExternal_walkFills (s : State) (c : CoreId) (n : Nat) : (chargeExternal s c n).walkFills = s.walkFills := rfl

/-! ### The fields of a core -/

@[simp] theorem getCore_modCtx_busy (s : State) (c : CoreId) (f : Ctx → Ctx) :
    (getCore (modCtx s c f) c).busy = (getCore s c).busy := by simp
@[simp] theorem getCore_modCtx_regs (s : State) (c : CoreId) (f : Ctx → Ctx) :
    (getCore (modCtx s c f) c).regs = (getCore s c).regs := by simp
@[simp] theorem getCore_modCtx_banks (s : State) (c : CoreId) (f : Ctx → Ctx) :
    (getCore (modCtx s c f) c).banks = (getCore s c).banks := by simp
@[simp] theorem getCore_modCtx_freshRegs (s : State) (c : CoreId) (f : Ctx → Ctx) :
    (getCore (modCtx s c f) c).freshRegs = (getCore s c).freshRegs := by simp
@[simp] theorem getCore_modCtx_freshScratch (s : State) (c : CoreId) (f : Ctx → Ctx) :
    (getCore (modCtx s c f) c).freshScratch = (getCore s c).freshScratch := by simp
@[simp] theorem getCore_modCtx_freshBanks (s : State) (c : CoreId) (f : Ctx → Ctx) :
    (getCore (modCtx s c f) c).freshBanks = (getCore s c).freshBanks := by simp
@[simp] theorem getCore_modCtx_dirtyRegs (s : State) (c : CoreId) (f : Ctx → Ctx) :
    (getCore (modCtx s c f) c).dirtyRegs = (getCore s c).dirtyRegs := by simp
@[simp] theorem getCore_modCtx_dirtyScratch (s : State) (c : CoreId) (f : Ctx → Ctx) :
    (getCore (modCtx s c f) c).dirtyScratch = (getCore s c).dirtyScratch := by simp
@[simp] theorem getCore_modCtx_l1 (s : State) (c : CoreId) (f : Ctx → Ctx) :
    (getCore (modCtx s c f) c).l1 = (getCore s c).l1 := by simp
@[simp] theorem getCore_modCtx_ver (s : State) (c : CoreId) (f : Ctx → Ctx) :
    (getCore (modCtx s c f) c).ver = (getCore s c).ver := by simp
@[simp] theorem getCore_modCtx_fills (s : State) (c : CoreId) (f : Ctx → Ctx) :
    (getCore (modCtx s c f) c).fills = (getCore s c).fills := by simp
@[simp] theorem getCore_modCtx_tlb (s : State) (c : CoreId) (f : Ctx → Ctx) :
    (getCore (modCtx s c f) c).tlb = (getCore s c).tlb := by simp
@[simp] theorem getCore_modCtx_itlb (s : State) (c : CoreId) (f : Ctx → Ctx) :
    (getCore (modCtx s c f) c).itlb = (getCore s c).itlb := by simp
@[simp] theorem getCore_modCtx_icache (s : State) (c : CoreId) (f : Ctx → Ctx) :
    (getCore (modCtx s c f) c).icache = (getCore s c).icache := by simp
@[simp] theorem getCore_modCtx_rings (s : State) (c : CoreId) (f : Ctx → Ctx) :
    (getCore (modCtx s c f) c).rings = (getCore s c).rings := by simp
@[simp] theorem getCore_modCtx_scCache (s : State) (c : CoreId) (f : Ctx → Ctx) :
    (getCore (modCtx s c f) c).scCache = (getCore s c).scCache := by simp
@[simp] theorem getCore_modCtx_fence (s : State) (c : CoreId) (f : Ctx → Ctx) :
    (getCore (modCtx s c f) c).fence = (getCore s c).fence := by simp
@[simp] theorem getCore_modCtx_fwshare (s : State) (c : CoreId) (f : Ctx → Ctx) :
    (getCore (modCtx s c f) c).fwshare = (getCore s c).fwshare := by simp
@[simp] theorem getCore_modCtx_fw (s : State) (c : CoreId) (f : Ctx → Ctx) :
    (getCore (modCtx s c f) c).fw = (getCore s c).fw := by simp
@[simp] theorem getCore_modCtx_offline (s : State) (c : CoreId) (f : Ctx → Ctx) :
    (getCore (modCtx s c f) c).offline = (getCore s c).offline := by simp
@[simp] theorem getCore_modCtx_stop (s : State) (c : CoreId) (f : Ctx → Ctx) :
    (getCore (modCtx s c f) c).stop = (getCore s c).stop := by simp
@[simp] theorem getCore_modCtx_latched (s : State) (c : CoreId) (f : Ctx → Ctx) :
    (getCore (modCtx s c f) c).latched = (getCore s c).latched := by simp
@[simp] theorem getCore_modCtx_blocked (s : State) (c : CoreId) (f : Ctx → Ctx) :
    (getCore (modCtx s c f) c).blocked = (getCore s c).blocked := by simp
@[simp] theorem getCore_modCtx_preempt (s : State) (c : CoreId) (f : Ctx → Ctx) :
    (getCore (modCtx s c f) c).preempt = (getCore s c).preempt := by simp
@[simp] theorem getCore_modCtx_exclude (s : State) (c : CoreId) (f : Ctx → Ctx) :
    (getCore (modCtx s c f) c).exclude = (getCore s c).exclude := by simp
@[simp] theorem getCore_modCtx_lastTask (s : State) (c : CoreId) (f : Ctx → Ctx) :
    (getCore (modCtx s c f) c).lastTask = (getCore s c).lastTask := by simp
@[simp] theorem getCore_modCtx_dbSlot (s : State) (c : CoreId) (f : Ctx → Ctx) :
    (getCore (modCtx s c f) c).dbSlot = (getCore s c).dbSlot := by simp
@[simp] theorem getCore_modCtx_dbMask (s : State) (c : CoreId) (f : Ctx → Ctx) :
    (getCore (modCtx s c f) c).dbMask = (getCore s c).dbMask := by simp
@[simp] theorem getCore_modCtx_dbOut (s : State) (c : CoreId) (f : Ctx → Ctx) :
    (getCore (modCtx s c f) c).dbOut = (getCore s c).dbOut := by simp
@[simp] theorem getCore_modCtx_dbSent (s : State) (c : CoreId) (f : Ctx → Ctx) :
    (getCore (modCtx s c f) c).dbSent = (getCore s c).dbSent := by simp
@[simp] theorem getCore_modCtx_ir (s : State) (c : CoreId) (f : Ctx → Ctx) :
    (getCore (modCtx s c f) c).ir = (getCore s c).ir := by simp
@[simp] theorem getCore_modCtx_emBusy (s : State) (c : CoreId) (f : Ctx → Ctx) :
    (getCore (modCtx s c f) c).emBusy = (getCore s c).emBusy := by simp
@[simp] theorem getCore_modCtx_emValid (s : State) (c : CoreId) (f : Ctx → Ctx) :
    (getCore (modCtx s c f) c).emValid = (getCore s c).emValid := by simp
@[simp] theorem getCore_modCtx_emBase (s : State) (c : CoreId) (f : Ctx → Ctx) :
    (getCore (modCtx s c f) c).emBase = (getCore s c).emBase := by simp
@[simp] theorem getCore_modCtx_jio (s : State) (c : CoreId) (f : Ctx → Ctx) :
    (getCore (modCtx s c f) c).jio = (getCore s c).jio := by simp

@[simp] theorem curCore_modCur_busy (s : State) (f : Ctx → Ctx) : (curCore (modCur s f)).busy = (curCore s).busy :=
  getCore_modCtx_busy s s.cur f
@[simp] theorem curCore_modCur_regs (s : State) (f : Ctx → Ctx) : (curCore (modCur s f)).regs = (curCore s).regs :=
  getCore_modCtx_regs s s.cur f
@[simp] theorem curCore_modCur_banks (s : State) (f : Ctx → Ctx) : (curCore (modCur s f)).banks = (curCore s).banks :=
  getCore_modCtx_banks s s.cur f
@[simp] theorem curCore_modCur_freshRegs (s : State) (f : Ctx → Ctx) : (curCore (modCur s f)).freshRegs = (curCore s).freshRegs :=
  getCore_modCtx_freshRegs s s.cur f
@[simp] theorem curCore_modCur_freshScratch (s : State) (f : Ctx → Ctx) : (curCore (modCur s f)).freshScratch = (curCore s).freshScratch :=
  getCore_modCtx_freshScratch s s.cur f
@[simp] theorem curCore_modCur_freshBanks (s : State) (f : Ctx → Ctx) : (curCore (modCur s f)).freshBanks = (curCore s).freshBanks :=
  getCore_modCtx_freshBanks s s.cur f
@[simp] theorem curCore_modCur_dirtyRegs (s : State) (f : Ctx → Ctx) : (curCore (modCur s f)).dirtyRegs = (curCore s).dirtyRegs :=
  getCore_modCtx_dirtyRegs s s.cur f
@[simp] theorem curCore_modCur_dirtyScratch (s : State) (f : Ctx → Ctx) : (curCore (modCur s f)).dirtyScratch = (curCore s).dirtyScratch :=
  getCore_modCtx_dirtyScratch s s.cur f
@[simp] theorem curCore_modCur_l1 (s : State) (f : Ctx → Ctx) : (curCore (modCur s f)).l1 = (curCore s).l1 :=
  getCore_modCtx_l1 s s.cur f
@[simp] theorem curCore_modCur_ver (s : State) (f : Ctx → Ctx) : (curCore (modCur s f)).ver = (curCore s).ver :=
  getCore_modCtx_ver s s.cur f
@[simp] theorem curCore_modCur_fills (s : State) (f : Ctx → Ctx) : (curCore (modCur s f)).fills = (curCore s).fills :=
  getCore_modCtx_fills s s.cur f
@[simp] theorem curCore_modCur_tlb (s : State) (f : Ctx → Ctx) : (curCore (modCur s f)).tlb = (curCore s).tlb :=
  getCore_modCtx_tlb s s.cur f
@[simp] theorem curCore_modCur_itlb (s : State) (f : Ctx → Ctx) : (curCore (modCur s f)).itlb = (curCore s).itlb :=
  getCore_modCtx_itlb s s.cur f
@[simp] theorem curCore_modCur_icache (s : State) (f : Ctx → Ctx) : (curCore (modCur s f)).icache = (curCore s).icache :=
  getCore_modCtx_icache s s.cur f
@[simp] theorem curCore_modCur_rings (s : State) (f : Ctx → Ctx) : (curCore (modCur s f)).rings = (curCore s).rings :=
  getCore_modCtx_rings s s.cur f
@[simp] theorem curCore_modCur_scCache (s : State) (f : Ctx → Ctx) : (curCore (modCur s f)).scCache = (curCore s).scCache :=
  getCore_modCtx_scCache s s.cur f
@[simp] theorem curCore_modCur_fence (s : State) (f : Ctx → Ctx) : (curCore (modCur s f)).fence = (curCore s).fence :=
  getCore_modCtx_fence s s.cur f
@[simp] theorem curCore_modCur_fwshare (s : State) (f : Ctx → Ctx) : (curCore (modCur s f)).fwshare = (curCore s).fwshare :=
  getCore_modCtx_fwshare s s.cur f
@[simp] theorem curCore_modCur_fw (s : State) (f : Ctx → Ctx) : (curCore (modCur s f)).fw = (curCore s).fw :=
  getCore_modCtx_fw s s.cur f
@[simp] theorem curCore_modCur_offline (s : State) (f : Ctx → Ctx) : (curCore (modCur s f)).offline = (curCore s).offline :=
  getCore_modCtx_offline s s.cur f
@[simp] theorem curCore_modCur_stop (s : State) (f : Ctx → Ctx) : (curCore (modCur s f)).stop = (curCore s).stop :=
  getCore_modCtx_stop s s.cur f
@[simp] theorem curCore_modCur_latched (s : State) (f : Ctx → Ctx) : (curCore (modCur s f)).latched = (curCore s).latched :=
  getCore_modCtx_latched s s.cur f
@[simp] theorem curCore_modCur_blocked (s : State) (f : Ctx → Ctx) : (curCore (modCur s f)).blocked = (curCore s).blocked :=
  getCore_modCtx_blocked s s.cur f
@[simp] theorem curCore_modCur_preempt (s : State) (f : Ctx → Ctx) : (curCore (modCur s f)).preempt = (curCore s).preempt :=
  getCore_modCtx_preempt s s.cur f
@[simp] theorem curCore_modCur_exclude (s : State) (f : Ctx → Ctx) : (curCore (modCur s f)).exclude = (curCore s).exclude :=
  getCore_modCtx_exclude s s.cur f
@[simp] theorem curCore_modCur_lastTask (s : State) (f : Ctx → Ctx) : (curCore (modCur s f)).lastTask = (curCore s).lastTask :=
  getCore_modCtx_lastTask s s.cur f
@[simp] theorem curCore_modCur_dbSlot (s : State) (f : Ctx → Ctx) : (curCore (modCur s f)).dbSlot = (curCore s).dbSlot :=
  getCore_modCtx_dbSlot s s.cur f
@[simp] theorem curCore_modCur_dbMask (s : State) (f : Ctx → Ctx) : (curCore (modCur s f)).dbMask = (curCore s).dbMask :=
  getCore_modCtx_dbMask s s.cur f
@[simp] theorem curCore_modCur_dbOut (s : State) (f : Ctx → Ctx) : (curCore (modCur s f)).dbOut = (curCore s).dbOut :=
  getCore_modCtx_dbOut s s.cur f
@[simp] theorem curCore_modCur_dbSent (s : State) (f : Ctx → Ctx) : (curCore (modCur s f)).dbSent = (curCore s).dbSent :=
  getCore_modCtx_dbSent s s.cur f
@[simp] theorem curCore_modCur_ir (s : State) (f : Ctx → Ctx) : (curCore (modCur s f)).ir = (curCore s).ir :=
  getCore_modCtx_ir s s.cur f
@[simp] theorem curCore_modCur_emBusy (s : State) (f : Ctx → Ctx) : (curCore (modCur s f)).emBusy = (curCore s).emBusy :=
  getCore_modCtx_emBusy s s.cur f
@[simp] theorem curCore_modCur_emValid (s : State) (f : Ctx → Ctx) : (curCore (modCur s f)).emValid = (curCore s).emValid :=
  getCore_modCtx_emValid s s.cur f
@[simp] theorem curCore_modCur_emBase (s : State) (f : Ctx → Ctx) : (curCore (modCur s f)).emBase = (curCore s).emBase :=
  getCore_modCtx_emBase s s.cur f
@[simp] theorem curCore_modCur_jio (s : State) (f : Ctx → Ctx) : (curCore (modCur s f)).jio = (curCore s).jio :=
  getCore_modCtx_jio s s.cur f

/-! ### The fields of a task -/

@[simp] theorem xSet_task (t : Ctx) (n : Fin 64) (v : Word) : (xSet t n v).task = t.task := by
  unfold xSet; split <;> rfl
@[simp] theorem xSet_asid (t : Ctx) (n : Fin 64) (v : Word) : (xSet t n v).asid = t.asid := by
  unfold xSet; split <;> rfl
@[simp] theorem xSet_context (t : Ctx) (n : Fin 64) (v : Word) : (xSet t n v).context = t.context := by
  unfold xSet; split <;> rfl
@[simp] theorem xSet_system (t : Ctx) (n : Fin 64) (v : Word) : (xSet t n v).system = t.system := by
  unfold xSet; split <;> rfl
@[simp] theorem xSet_entry (t : Ctx) (n : Fin 64) (v : Word) : (xSet t n v).entry = t.entry := by
  unfold xSet; split <;> rfl
@[simp] theorem xSet_atEntry (t : Ctx) (n : Fin 64) (v : Word) : (xSet t n v).atEntry = t.atEntry := by
  unfold xSet; split <;> rfl
@[simp] theorem xSet_streams (t : Ctx) (n : Fin 64) (v : Word) : (xSet t n v).streams = t.streams := by
  unfold xSet; split <;> rfl
@[simp] theorem xSet_steer (t : Ctx) (n : Fin 64) (v : Word) : (xSet t n v).steer = t.steer := by
  unfold xSet; split <;> rfl
@[simp] theorem xSet_pr (t : Ctx) (n : Fin 64) (v : Word) : (xSet t n v).pr = t.pr := by
  unfold xSet; split <;> rfl
@[simp] theorem xSet_lc (t : Ctx) (n : Fin 64) (v : Word) : (xSet t n v).lc = t.lc := by
  unfold xSet; split <;> rfl
@[simp] theorem xSet_a (t : Ctx) (n : Fin 64) (v : Word) : (xSet t n v).a = t.a := by
  unfold xSet; split <;> rfl
@[simp] theorem xSet_aBusy (t : Ctx) (n : Fin 64) (v : Word) : (xSet t n v).aBusy = t.aBusy := by
  unfold xSet; split <;> rfl
@[simp] theorem xSet_k (t : Ctx) (n : Fin 64) (v : Word) : (xSet t n v).k = t.k := by
  unfold xSet; split <;> rfl
@[simp] theorem xSet_rl (t : Ctx) (n : Fin 64) (v : Word) : (xSet t n v).rl = t.rl := by
  unfold xSet; split <;> rfl
@[simp] theorem xSet_args (t : Ctx) (n : Fin 64) (v : Word) : (xSet t n v).args = t.args := by
  unfold xSet; split <;> rfl
@[simp] theorem xSet_variants (t : Ctx) (n : Fin 64) (v : Word) : (xSet t n v).variants = t.variants := by
  unfold xSet; split <;> rfl
@[simp] theorem xSet_launched (t : Ctx) (n : Fin 64) (v : Word) : (xSet t n v).launched = t.launched := by
  unfold xSet; split <;> rfl
@[simp] theorem xSet_csr (t : Ctx) (n : Fin 64) (v : Word) : (xSet t n v).csr = t.csr := by
  unfold xSet; split <;> rfl
@[simp] theorem xSet_q (t : Ctx) (n : Fin 64) (v : Word) : (xSet t n v).q = t.q := by
  unfold xSet; split <;> rfl
@[simp] theorem xSet_tokens (t : Ctx) (n : Fin 64) (v : Word) : (xSet t n v).tokens = t.tokens := by
  unfold xSet; split <;> rfl
@[simp] theorem xSet_slm (t : Ctx) (n : Fin 64) (v : Word) : (xSet t n v).slm = t.slm := by
  unfold xSet; split <;> rfl
@[simp] theorem xSet_windows (t : Ctx) (n : Fin 64) (v : Word) : (xSet t n v).windows = t.windows := by
  unfold xSet; split <;> rfl
@[simp] theorem xSet_aq (t : Ctx) (n : Fin 64) (v : Word) : (xSet t n v).aq = t.aq := by
  unfold xSet; split <;> rfl
@[simp] theorem xSet_spec (t : Ctx) (n : Fin 64) (v : Word) : (xSet t n v).spec = t.spec := by
  unfold xSet; split <;> rfl
@[simp] theorem xSet_vcyc (t : Ctx) (n : Fin 64) (v : Word) : (xSet t n v).vcyc = t.vcyc := by
  unfold xSet; split <;> rfl
@[simp] theorem xSet_vstall (t : Ctx) (n : Fin 64) (v : Word) : (xSet t n v).vstall = t.vstall := by
  unfold xSet; split <;> rfl
@[simp] theorem xSet_vpend (t : Ctx) (n : Fin 64) (v : Word) : (xSet t n v).vpend = t.vpend := by
  unfold xSet; split <;> rfl
@[simp] theorem xSet_m (t : Ctx) (n : Fin 64) (v : Word) : (xSet t n v).m = t.m := by
  unfold xSet; split <;> rfl
@[simp] theorem xSet_pmode (t : Ctx) (n : Fin 64) (v : Word) : (xSet t n v).pmode = t.pmode := by
  unfold xSet; split <;> rfl
@[simp] theorem xSet_ppend (t : Ctx) (n : Fin 64) (v : Word) : (xSet t n v).ppend = t.ppend := by
  unfold xSet; split <;> rfl
@[simp] theorem xSet_acct (t : Ctx) (n : Fin 64) (v : Word) : (xSet t n v).acct = t.acct := by
  unfold xSet; split <;> rfl
@[simp] theorem xSet_handling (t : Ctx) (n : Fin 64) (v : Word) : (xSet t n v).handling = t.handling := by
  unfold xSet; split <;> rfl
@[simp] theorem xSet_warn (t : Ctx) (n : Fin 64) (v : Word) : (xSet t n v).warn = t.warn := by
  unfold xSet; split <;> rfl
@[simp] theorem xSet_barFile (t : Ctx) (n : Fin 64) (v : Word) : (xSet t n v).barFile = t.barFile := by
  unfold xSet; split <;> rfl
@[simp] theorem xSet_fmtPushed (t : Ctx) (n : Fin 64) (v : Word) : (xSet t n v).fmtPushed = t.fmtPushed := by
  unfold xSet; split <;> rfl
@[simp] theorem xSet_fmtFirst (t : Ctx) (n : Fin 64) (v : Word) : (xSet t n v).fmtFirst = t.fmtFirst := by
  unfold xSet; split <;> rfl
@[simp] theorem xSet_trigger (t : Ctx) (n : Fin 64) (v : Word) : (xSet t n v).trigger = t.trigger := by
  unfold xSet; split <;> rfl
@[simp] theorem xSet_triggered (t : Ctx) (n : Fin 64) (v : Word) : (xSet t n v).triggered = t.triggered := by
  unfold xSet; split <;> rfl
@[simp] theorem xSet_ahead (t : Ctx) (n : Fin 64) (v : Word) : (xSet t n v).ahead = t.ahead := by
  unfold xSet; split <;> rfl
@[simp] theorem xSet_yieldPhase (t : Ctx) (n : Fin 64) (v : Word) : (xSet t n v).yieldPhase = t.yieldPhase := by
  unfold xSet; split <;> rfl

@[simp] theorem pSet_task (t : Ctx) (n : Fin 8) (b : Bool) : (pSet t n b).task = t.task := by
  unfold pSet; split <;> rfl
@[simp] theorem pSet_asid (t : Ctx) (n : Fin 8) (b : Bool) : (pSet t n b).asid = t.asid := by
  unfold pSet; split <;> rfl
@[simp] theorem pSet_context (t : Ctx) (n : Fin 8) (b : Bool) : (pSet t n b).context = t.context := by
  unfold pSet; split <;> rfl
@[simp] theorem pSet_system (t : Ctx) (n : Fin 8) (b : Bool) : (pSet t n b).system = t.system := by
  unfold pSet; split <;> rfl
@[simp] theorem pSet_entry (t : Ctx) (n : Fin 8) (b : Bool) : (pSet t n b).entry = t.entry := by
  unfold pSet; split <;> rfl
@[simp] theorem pSet_atEntry (t : Ctx) (n : Fin 8) (b : Bool) : (pSet t n b).atEntry = t.atEntry := by
  unfold pSet; split <;> rfl
@[simp] theorem pSet_streams (t : Ctx) (n : Fin 8) (b : Bool) : (pSet t n b).streams = t.streams := by
  unfold pSet; split <;> rfl
@[simp] theorem pSet_steer (t : Ctx) (n : Fin 8) (b : Bool) : (pSet t n b).steer = t.steer := by
  unfold pSet; split <;> rfl
@[simp] theorem pSet_x (t : Ctx) (n : Fin 8) (b : Bool) : (pSet t n b).x = t.x := by
  unfold pSet; split <;> rfl
@[simp] theorem pSet_lc (t : Ctx) (n : Fin 8) (b : Bool) : (pSet t n b).lc = t.lc := by
  unfold pSet; split <;> rfl
@[simp] theorem pSet_a (t : Ctx) (n : Fin 8) (b : Bool) : (pSet t n b).a = t.a := by
  unfold pSet; split <;> rfl
@[simp] theorem pSet_aBusy (t : Ctx) (n : Fin 8) (b : Bool) : (pSet t n b).aBusy = t.aBusy := by
  unfold pSet; split <;> rfl
@[simp] theorem pSet_k (t : Ctx) (n : Fin 8) (b : Bool) : (pSet t n b).k = t.k := by
  unfold pSet; split <;> rfl
@[simp] theorem pSet_rl (t : Ctx) (n : Fin 8) (b : Bool) : (pSet t n b).rl = t.rl := by
  unfold pSet; split <;> rfl
@[simp] theorem pSet_args (t : Ctx) (n : Fin 8) (b : Bool) : (pSet t n b).args = t.args := by
  unfold pSet; split <;> rfl
@[simp] theorem pSet_variants (t : Ctx) (n : Fin 8) (b : Bool) : (pSet t n b).variants = t.variants := by
  unfold pSet; split <;> rfl
@[simp] theorem pSet_launched (t : Ctx) (n : Fin 8) (b : Bool) : (pSet t n b).launched = t.launched := by
  unfold pSet; split <;> rfl
@[simp] theorem pSet_csr (t : Ctx) (n : Fin 8) (b : Bool) : (pSet t n b).csr = t.csr := by
  unfold pSet; split <;> rfl
@[simp] theorem pSet_q (t : Ctx) (n : Fin 8) (b : Bool) : (pSet t n b).q = t.q := by
  unfold pSet; split <;> rfl
@[simp] theorem pSet_tokens (t : Ctx) (n : Fin 8) (b : Bool) : (pSet t n b).tokens = t.tokens := by
  unfold pSet; split <;> rfl
@[simp] theorem pSet_slm (t : Ctx) (n : Fin 8) (b : Bool) : (pSet t n b).slm = t.slm := by
  unfold pSet; split <;> rfl
@[simp] theorem pSet_windows (t : Ctx) (n : Fin 8) (b : Bool) : (pSet t n b).windows = t.windows := by
  unfold pSet; split <;> rfl
@[simp] theorem pSet_aq (t : Ctx) (n : Fin 8) (b : Bool) : (pSet t n b).aq = t.aq := by
  unfold pSet; split <;> rfl
@[simp] theorem pSet_spec (t : Ctx) (n : Fin 8) (b : Bool) : (pSet t n b).spec = t.spec := by
  unfold pSet; split <;> rfl
@[simp] theorem pSet_vcyc (t : Ctx) (n : Fin 8) (b : Bool) : (pSet t n b).vcyc = t.vcyc := by
  unfold pSet; split <;> rfl
@[simp] theorem pSet_vstall (t : Ctx) (n : Fin 8) (b : Bool) : (pSet t n b).vstall = t.vstall := by
  unfold pSet; split <;> rfl
@[simp] theorem pSet_vpend (t : Ctx) (n : Fin 8) (b : Bool) : (pSet t n b).vpend = t.vpend := by
  unfold pSet; split <;> rfl
@[simp] theorem pSet_m (t : Ctx) (n : Fin 8) (b : Bool) : (pSet t n b).m = t.m := by
  unfold pSet; split <;> rfl
@[simp] theorem pSet_pmode (t : Ctx) (n : Fin 8) (b : Bool) : (pSet t n b).pmode = t.pmode := by
  unfold pSet; split <;> rfl
@[simp] theorem pSet_ppend (t : Ctx) (n : Fin 8) (b : Bool) : (pSet t n b).ppend = t.ppend := by
  unfold pSet; split <;> rfl
@[simp] theorem pSet_acct (t : Ctx) (n : Fin 8) (b : Bool) : (pSet t n b).acct = t.acct := by
  unfold pSet; split <;> rfl
@[simp] theorem pSet_handling (t : Ctx) (n : Fin 8) (b : Bool) : (pSet t n b).handling = t.handling := by
  unfold pSet; split <;> rfl
@[simp] theorem pSet_warn (t : Ctx) (n : Fin 8) (b : Bool) : (pSet t n b).warn = t.warn := by
  unfold pSet; split <;> rfl
@[simp] theorem pSet_barFile (t : Ctx) (n : Fin 8) (b : Bool) : (pSet t n b).barFile = t.barFile := by
  unfold pSet; split <;> rfl
@[simp] theorem pSet_fmtPushed (t : Ctx) (n : Fin 8) (b : Bool) : (pSet t n b).fmtPushed = t.fmtPushed := by
  unfold pSet; split <;> rfl
@[simp] theorem pSet_fmtFirst (t : Ctx) (n : Fin 8) (b : Bool) : (pSet t n b).fmtFirst = t.fmtFirst := by
  unfold pSet; split <;> rfl
@[simp] theorem pSet_trigger (t : Ctx) (n : Fin 8) (b : Bool) : (pSet t n b).trigger = t.trigger := by
  unfold pSet; split <;> rfl
@[simp] theorem pSet_triggered (t : Ctx) (n : Fin 8) (b : Bool) : (pSet t n b).triggered = t.triggered := by
  unfold pSet; split <;> rfl
@[simp] theorem pSet_ahead (t : Ctx) (n : Fin 8) (b : Bool) : (pSet t n b).ahead = t.ahead := by
  unfold pSet; split <;> rfl
@[simp] theorem pSet_yieldPhase (t : Ctx) (n : Fin 8) (b : Bool) : (pSet t n b).yieldPhase = t.yieldPhase := by
  unfold pSet; split <;> rfl

@[simp] theorem aSet_task (t : Ctx) (n : Fin 32) (v : VAddr) : (aSet t n v).task = t.task := by
  unfold aSet; split <;> rfl
@[simp] theorem aSet_asid (t : Ctx) (n : Fin 32) (v : VAddr) : (aSet t n v).asid = t.asid := by
  unfold aSet; split <;> rfl
@[simp] theorem aSet_context (t : Ctx) (n : Fin 32) (v : VAddr) : (aSet t n v).context = t.context := by
  unfold aSet; split <;> rfl
@[simp] theorem aSet_system (t : Ctx) (n : Fin 32) (v : VAddr) : (aSet t n v).system = t.system := by
  unfold aSet; split <;> rfl
@[simp] theorem aSet_entry (t : Ctx) (n : Fin 32) (v : VAddr) : (aSet t n v).entry = t.entry := by
  unfold aSet; split <;> rfl
@[simp] theorem aSet_atEntry (t : Ctx) (n : Fin 32) (v : VAddr) : (aSet t n v).atEntry = t.atEntry := by
  unfold aSet; split <;> rfl
@[simp] theorem aSet_streams (t : Ctx) (n : Fin 32) (v : VAddr) : (aSet t n v).streams = t.streams := by
  unfold aSet; split <;> rfl
@[simp] theorem aSet_steer (t : Ctx) (n : Fin 32) (v : VAddr) : (aSet t n v).steer = t.steer := by
  unfold aSet; split <;> rfl
@[simp] theorem aSet_x (t : Ctx) (n : Fin 32) (v : VAddr) : (aSet t n v).x = t.x := by
  unfold aSet; split <;> rfl
@[simp] theorem aSet_pr (t : Ctx) (n : Fin 32) (v : VAddr) : (aSet t n v).pr = t.pr := by
  unfold aSet; split <;> rfl
@[simp] theorem aSet_lc (t : Ctx) (n : Fin 32) (v : VAddr) : (aSet t n v).lc = t.lc := by
  unfold aSet; split <;> rfl
@[simp] theorem aSet_aBusy (t : Ctx) (n : Fin 32) (v : VAddr) : (aSet t n v).aBusy = t.aBusy := by
  unfold aSet; split <;> rfl
@[simp] theorem aSet_k (t : Ctx) (n : Fin 32) (v : VAddr) : (aSet t n v).k = t.k := by
  unfold aSet; split <;> rfl
@[simp] theorem aSet_rl (t : Ctx) (n : Fin 32) (v : VAddr) : (aSet t n v).rl = t.rl := by
  unfold aSet; split <;> rfl
@[simp] theorem aSet_args (t : Ctx) (n : Fin 32) (v : VAddr) : (aSet t n v).args = t.args := by
  unfold aSet; split <;> rfl
@[simp] theorem aSet_variants (t : Ctx) (n : Fin 32) (v : VAddr) : (aSet t n v).variants = t.variants := by
  unfold aSet; split <;> rfl
@[simp] theorem aSet_launched (t : Ctx) (n : Fin 32) (v : VAddr) : (aSet t n v).launched = t.launched := by
  unfold aSet; split <;> rfl
@[simp] theorem aSet_csr (t : Ctx) (n : Fin 32) (v : VAddr) : (aSet t n v).csr = t.csr := by
  unfold aSet; split <;> rfl
@[simp] theorem aSet_q (t : Ctx) (n : Fin 32) (v : VAddr) : (aSet t n v).q = t.q := by
  unfold aSet; split <;> rfl
@[simp] theorem aSet_tokens (t : Ctx) (n : Fin 32) (v : VAddr) : (aSet t n v).tokens = t.tokens := by
  unfold aSet; split <;> rfl
@[simp] theorem aSet_slm (t : Ctx) (n : Fin 32) (v : VAddr) : (aSet t n v).slm = t.slm := by
  unfold aSet; split <;> rfl
@[simp] theorem aSet_windows (t : Ctx) (n : Fin 32) (v : VAddr) : (aSet t n v).windows = t.windows := by
  unfold aSet; split <;> rfl
@[simp] theorem aSet_aq (t : Ctx) (n : Fin 32) (v : VAddr) : (aSet t n v).aq = t.aq := by
  unfold aSet; split <;> rfl
@[simp] theorem aSet_spec (t : Ctx) (n : Fin 32) (v : VAddr) : (aSet t n v).spec = t.spec := by
  unfold aSet; split <;> rfl
@[simp] theorem aSet_vcyc (t : Ctx) (n : Fin 32) (v : VAddr) : (aSet t n v).vcyc = t.vcyc := by
  unfold aSet; split <;> rfl
@[simp] theorem aSet_vstall (t : Ctx) (n : Fin 32) (v : VAddr) : (aSet t n v).vstall = t.vstall := by
  unfold aSet; split <;> rfl
@[simp] theorem aSet_vpend (t : Ctx) (n : Fin 32) (v : VAddr) : (aSet t n v).vpend = t.vpend := by
  unfold aSet; split <;> rfl
@[simp] theorem aSet_m (t : Ctx) (n : Fin 32) (v : VAddr) : (aSet t n v).m = t.m := by
  unfold aSet; split <;> rfl
@[simp] theorem aSet_pmode (t : Ctx) (n : Fin 32) (v : VAddr) : (aSet t n v).pmode = t.pmode := by
  unfold aSet; split <;> rfl
@[simp] theorem aSet_ppend (t : Ctx) (n : Fin 32) (v : VAddr) : (aSet t n v).ppend = t.ppend := by
  unfold aSet; split <;> rfl
@[simp] theorem aSet_acct (t : Ctx) (n : Fin 32) (v : VAddr) : (aSet t n v).acct = t.acct := by
  unfold aSet; split <;> rfl
@[simp] theorem aSet_handling (t : Ctx) (n : Fin 32) (v : VAddr) : (aSet t n v).handling = t.handling := by
  unfold aSet; split <;> rfl
@[simp] theorem aSet_warn (t : Ctx) (n : Fin 32) (v : VAddr) : (aSet t n v).warn = t.warn := by
  unfold aSet; split <;> rfl
@[simp] theorem aSet_barFile (t : Ctx) (n : Fin 32) (v : VAddr) : (aSet t n v).barFile = t.barFile := by
  unfold aSet; split <;> rfl
@[simp] theorem aSet_fmtPushed (t : Ctx) (n : Fin 32) (v : VAddr) : (aSet t n v).fmtPushed = t.fmtPushed := by
  unfold aSet; split <;> rfl
@[simp] theorem aSet_fmtFirst (t : Ctx) (n : Fin 32) (v : VAddr) : (aSet t n v).fmtFirst = t.fmtFirst := by
  unfold aSet; split <;> rfl
@[simp] theorem aSet_trigger (t : Ctx) (n : Fin 32) (v : VAddr) : (aSet t n v).trigger = t.trigger := by
  unfold aSet; split <;> rfl
@[simp] theorem aSet_triggered (t : Ctx) (n : Fin 32) (v : VAddr) : (aSet t n v).triggered = t.triggered := by
  unfold aSet; split <;> rfl
@[simp] theorem aSet_ahead (t : Ctx) (n : Fin 32) (v : VAddr) : (aSet t n v).ahead = t.ahead := by
  unfold aSet; split <;> rfl
@[simp] theorem aSet_yieldPhase (t : Ctx) (n : Fin 32) (v : VAddr) : (aSet t n v).yieldPhase = t.yieldPhase := by
  unfold aSet; split <;> rfl

@[simp] theorem modStream_task (t : Ctx) (st : Stream) (f : StreamState → StreamState) : (modStream t st f).task = t.task := rfl
@[simp] theorem modStream_asid (t : Ctx) (st : Stream) (f : StreamState → StreamState) : (modStream t st f).asid = t.asid := rfl
@[simp] theorem modStream_context (t : Ctx) (st : Stream) (f : StreamState → StreamState) : (modStream t st f).context = t.context := rfl
@[simp] theorem modStream_system (t : Ctx) (st : Stream) (f : StreamState → StreamState) : (modStream t st f).system = t.system := rfl
@[simp] theorem modStream_entry (t : Ctx) (st : Stream) (f : StreamState → StreamState) : (modStream t st f).entry = t.entry := rfl
@[simp] theorem modStream_atEntry (t : Ctx) (st : Stream) (f : StreamState → StreamState) : (modStream t st f).atEntry = t.atEntry := rfl
@[simp] theorem modStream_steer (t : Ctx) (st : Stream) (f : StreamState → StreamState) : (modStream t st f).steer = t.steer := rfl
@[simp] theorem modStream_x (t : Ctx) (st : Stream) (f : StreamState → StreamState) : (modStream t st f).x = t.x := rfl
@[simp] theorem modStream_pr (t : Ctx) (st : Stream) (f : StreamState → StreamState) : (modStream t st f).pr = t.pr := rfl
@[simp] theorem modStream_lc (t : Ctx) (st : Stream) (f : StreamState → StreamState) : (modStream t st f).lc = t.lc := rfl
@[simp] theorem modStream_a (t : Ctx) (st : Stream) (f : StreamState → StreamState) : (modStream t st f).a = t.a := rfl
@[simp] theorem modStream_aBusy (t : Ctx) (st : Stream) (f : StreamState → StreamState) : (modStream t st f).aBusy = t.aBusy := rfl
@[simp] theorem modStream_k (t : Ctx) (st : Stream) (f : StreamState → StreamState) : (modStream t st f).k = t.k := rfl
@[simp] theorem modStream_rl (t : Ctx) (st : Stream) (f : StreamState → StreamState) : (modStream t st f).rl = t.rl := rfl
@[simp] theorem modStream_args (t : Ctx) (st : Stream) (f : StreamState → StreamState) : (modStream t st f).args = t.args := rfl
@[simp] theorem modStream_variants (t : Ctx) (st : Stream) (f : StreamState → StreamState) : (modStream t st f).variants = t.variants := rfl
@[simp] theorem modStream_launched (t : Ctx) (st : Stream) (f : StreamState → StreamState) : (modStream t st f).launched = t.launched := rfl
@[simp] theorem modStream_csr (t : Ctx) (st : Stream) (f : StreamState → StreamState) : (modStream t st f).csr = t.csr := rfl
@[simp] theorem modStream_q (t : Ctx) (st : Stream) (f : StreamState → StreamState) : (modStream t st f).q = t.q := rfl
@[simp] theorem modStream_tokens (t : Ctx) (st : Stream) (f : StreamState → StreamState) : (modStream t st f).tokens = t.tokens := rfl
@[simp] theorem modStream_slm (t : Ctx) (st : Stream) (f : StreamState → StreamState) : (modStream t st f).slm = t.slm := rfl
@[simp] theorem modStream_windows (t : Ctx) (st : Stream) (f : StreamState → StreamState) : (modStream t st f).windows = t.windows := rfl
@[simp] theorem modStream_aq (t : Ctx) (st : Stream) (f : StreamState → StreamState) : (modStream t st f).aq = t.aq := rfl
@[simp] theorem modStream_spec (t : Ctx) (st : Stream) (f : StreamState → StreamState) : (modStream t st f).spec = t.spec := rfl
@[simp] theorem modStream_vcyc (t : Ctx) (st : Stream) (f : StreamState → StreamState) : (modStream t st f).vcyc = t.vcyc := rfl
@[simp] theorem modStream_vstall (t : Ctx) (st : Stream) (f : StreamState → StreamState) : (modStream t st f).vstall = t.vstall := rfl
@[simp] theorem modStream_vpend (t : Ctx) (st : Stream) (f : StreamState → StreamState) : (modStream t st f).vpend = t.vpend := rfl
@[simp] theorem modStream_m (t : Ctx) (st : Stream) (f : StreamState → StreamState) : (modStream t st f).m = t.m := rfl
@[simp] theorem modStream_pmode (t : Ctx) (st : Stream) (f : StreamState → StreamState) : (modStream t st f).pmode = t.pmode := rfl
@[simp] theorem modStream_ppend (t : Ctx) (st : Stream) (f : StreamState → StreamState) : (modStream t st f).ppend = t.ppend := rfl
@[simp] theorem modStream_acct (t : Ctx) (st : Stream) (f : StreamState → StreamState) : (modStream t st f).acct = t.acct := rfl
@[simp] theorem modStream_handling (t : Ctx) (st : Stream) (f : StreamState → StreamState) : (modStream t st f).handling = t.handling := rfl
@[simp] theorem modStream_warn (t : Ctx) (st : Stream) (f : StreamState → StreamState) : (modStream t st f).warn = t.warn := rfl
@[simp] theorem modStream_barFile (t : Ctx) (st : Stream) (f : StreamState → StreamState) : (modStream t st f).barFile = t.barFile := rfl
@[simp] theorem modStream_fmtPushed (t : Ctx) (st : Stream) (f : StreamState → StreamState) : (modStream t st f).fmtPushed = t.fmtPushed := rfl
@[simp] theorem modStream_fmtFirst (t : Ctx) (st : Stream) (f : StreamState → StreamState) : (modStream t st f).fmtFirst = t.fmtFirst := rfl
@[simp] theorem modStream_trigger (t : Ctx) (st : Stream) (f : StreamState → StreamState) : (modStream t st f).trigger = t.trigger := rfl
@[simp] theorem modStream_triggered (t : Ctx) (st : Stream) (f : StreamState → StreamState) : (modStream t st f).triggered = t.triggered := rfl
@[simp] theorem modStream_ahead (t : Ctx) (st : Stream) (f : StreamState → StreamState) : (modStream t st f).ahead = t.ahead := rfl
@[simp] theorem modStream_yieldPhase (t : Ctx) (st : Stream) (f : StreamState → StreamState) : (modStream t st f).yieldPhase = t.yieldPhase := rfl

@[simp] theorem modQ_task (t : Ctx) (f : Queues → Queues) : (modQ t f).task = t.task := rfl
@[simp] theorem modQ_asid (t : Ctx) (f : Queues → Queues) : (modQ t f).asid = t.asid := rfl
@[simp] theorem modQ_context (t : Ctx) (f : Queues → Queues) : (modQ t f).context = t.context := rfl
@[simp] theorem modQ_system (t : Ctx) (f : Queues → Queues) : (modQ t f).system = t.system := rfl
@[simp] theorem modQ_entry (t : Ctx) (f : Queues → Queues) : (modQ t f).entry = t.entry := rfl
@[simp] theorem modQ_atEntry (t : Ctx) (f : Queues → Queues) : (modQ t f).atEntry = t.atEntry := rfl
@[simp] theorem modQ_streams (t : Ctx) (f : Queues → Queues) : (modQ t f).streams = t.streams := rfl
@[simp] theorem modQ_steer (t : Ctx) (f : Queues → Queues) : (modQ t f).steer = t.steer := rfl
@[simp] theorem modQ_x (t : Ctx) (f : Queues → Queues) : (modQ t f).x = t.x := rfl
@[simp] theorem modQ_pr (t : Ctx) (f : Queues → Queues) : (modQ t f).pr = t.pr := rfl
@[simp] theorem modQ_lc (t : Ctx) (f : Queues → Queues) : (modQ t f).lc = t.lc := rfl
@[simp] theorem modQ_a (t : Ctx) (f : Queues → Queues) : (modQ t f).a = t.a := rfl
@[simp] theorem modQ_aBusy (t : Ctx) (f : Queues → Queues) : (modQ t f).aBusy = t.aBusy := rfl
@[simp] theorem modQ_k (t : Ctx) (f : Queues → Queues) : (modQ t f).k = t.k := rfl
@[simp] theorem modQ_rl (t : Ctx) (f : Queues → Queues) : (modQ t f).rl = t.rl := rfl
@[simp] theorem modQ_args (t : Ctx) (f : Queues → Queues) : (modQ t f).args = t.args := rfl
@[simp] theorem modQ_variants (t : Ctx) (f : Queues → Queues) : (modQ t f).variants = t.variants := rfl
@[simp] theorem modQ_launched (t : Ctx) (f : Queues → Queues) : (modQ t f).launched = t.launched := rfl
@[simp] theorem modQ_csr (t : Ctx) (f : Queues → Queues) : (modQ t f).csr = t.csr := rfl
@[simp] theorem modQ_tokens (t : Ctx) (f : Queues → Queues) : (modQ t f).tokens = t.tokens := rfl
@[simp] theorem modQ_slm (t : Ctx) (f : Queues → Queues) : (modQ t f).slm = t.slm := rfl
@[simp] theorem modQ_windows (t : Ctx) (f : Queues → Queues) : (modQ t f).windows = t.windows := rfl
@[simp] theorem modQ_aq (t : Ctx) (f : Queues → Queues) : (modQ t f).aq = t.aq := rfl
@[simp] theorem modQ_spec (t : Ctx) (f : Queues → Queues) : (modQ t f).spec = t.spec := rfl
@[simp] theorem modQ_vcyc (t : Ctx) (f : Queues → Queues) : (modQ t f).vcyc = t.vcyc := rfl
@[simp] theorem modQ_vstall (t : Ctx) (f : Queues → Queues) : (modQ t f).vstall = t.vstall := rfl
@[simp] theorem modQ_vpend (t : Ctx) (f : Queues → Queues) : (modQ t f).vpend = t.vpend := rfl
@[simp] theorem modQ_m (t : Ctx) (f : Queues → Queues) : (modQ t f).m = t.m := rfl
@[simp] theorem modQ_pmode (t : Ctx) (f : Queues → Queues) : (modQ t f).pmode = t.pmode := rfl
@[simp] theorem modQ_ppend (t : Ctx) (f : Queues → Queues) : (modQ t f).ppend = t.ppend := rfl
@[simp] theorem modQ_acct (t : Ctx) (f : Queues → Queues) : (modQ t f).acct = t.acct := rfl
@[simp] theorem modQ_handling (t : Ctx) (f : Queues → Queues) : (modQ t f).handling = t.handling := rfl
@[simp] theorem modQ_warn (t : Ctx) (f : Queues → Queues) : (modQ t f).warn = t.warn := rfl
@[simp] theorem modQ_barFile (t : Ctx) (f : Queues → Queues) : (modQ t f).barFile = t.barFile := rfl
@[simp] theorem modQ_fmtPushed (t : Ctx) (f : Queues → Queues) : (modQ t f).fmtPushed = t.fmtPushed := rfl
@[simp] theorem modQ_fmtFirst (t : Ctx) (f : Queues → Queues) : (modQ t f).fmtFirst = t.fmtFirst := rfl
@[simp] theorem modQ_trigger (t : Ctx) (f : Queues → Queues) : (modQ t f).trigger = t.trigger := rfl
@[simp] theorem modQ_triggered (t : Ctx) (f : Queues → Queues) : (modQ t f).triggered = t.triggered := rfl
@[simp] theorem modQ_ahead (t : Ctx) (f : Queues → Queues) : (modQ t f).ahead = t.ahead := rfl
@[simp] theorem modQ_yieldPhase (t : Ctx) (f : Queues → Queues) : (modQ t f).yieldPhase = t.yieldPhase := rfl

@[simp] theorem clearWaits_task (t : Ctx) : (clearWaits t).task = t.task := rfl
@[simp] theorem clearWaits_asid (t : Ctx) : (clearWaits t).asid = t.asid := rfl
@[simp] theorem clearWaits_context (t : Ctx) : (clearWaits t).context = t.context := rfl
@[simp] theorem clearWaits_system (t : Ctx) : (clearWaits t).system = t.system := rfl
@[simp] theorem clearWaits_entry (t : Ctx) : (clearWaits t).entry = t.entry := rfl
@[simp] theorem clearWaits_atEntry (t : Ctx) : (clearWaits t).atEntry = t.atEntry := rfl
@[simp] theorem clearWaits_steer (t : Ctx) : (clearWaits t).steer = t.steer := rfl
@[simp] theorem clearWaits_x (t : Ctx) : (clearWaits t).x = t.x := rfl
@[simp] theorem clearWaits_pr (t : Ctx) : (clearWaits t).pr = t.pr := rfl
@[simp] theorem clearWaits_lc (t : Ctx) : (clearWaits t).lc = t.lc := rfl
@[simp] theorem clearWaits_a (t : Ctx) : (clearWaits t).a = t.a := rfl
@[simp] theorem clearWaits_aBusy (t : Ctx) : (clearWaits t).aBusy = t.aBusy := rfl
@[simp] theorem clearWaits_k (t : Ctx) : (clearWaits t).k = t.k := rfl
@[simp] theorem clearWaits_rl (t : Ctx) : (clearWaits t).rl = t.rl := rfl
@[simp] theorem clearWaits_args (t : Ctx) : (clearWaits t).args = t.args := rfl
@[simp] theorem clearWaits_variants (t : Ctx) : (clearWaits t).variants = t.variants := rfl
@[simp] theorem clearWaits_launched (t : Ctx) : (clearWaits t).launched = t.launched := rfl
@[simp] theorem clearWaits_csr (t : Ctx) : (clearWaits t).csr = t.csr := rfl
@[simp] theorem clearWaits_q (t : Ctx) : (clearWaits t).q = t.q := rfl
@[simp] theorem clearWaits_tokens (t : Ctx) : (clearWaits t).tokens = t.tokens := rfl
@[simp] theorem clearWaits_slm (t : Ctx) : (clearWaits t).slm = t.slm := rfl
@[simp] theorem clearWaits_windows (t : Ctx) : (clearWaits t).windows = t.windows := rfl
@[simp] theorem clearWaits_aq (t : Ctx) : (clearWaits t).aq = t.aq := rfl
@[simp] theorem clearWaits_spec (t : Ctx) : (clearWaits t).spec = t.spec := rfl
@[simp] theorem clearWaits_vcyc (t : Ctx) : (clearWaits t).vcyc = t.vcyc := rfl
@[simp] theorem clearWaits_vstall (t : Ctx) : (clearWaits t).vstall = t.vstall := rfl
@[simp] theorem clearWaits_vpend (t : Ctx) : (clearWaits t).vpend = t.vpend := rfl
@[simp] theorem clearWaits_m (t : Ctx) : (clearWaits t).m = t.m := rfl
@[simp] theorem clearWaits_pmode (t : Ctx) : (clearWaits t).pmode = t.pmode := rfl
@[simp] theorem clearWaits_ppend (t : Ctx) : (clearWaits t).ppend = t.ppend := rfl
@[simp] theorem clearWaits_acct (t : Ctx) : (clearWaits t).acct = t.acct := rfl
@[simp] theorem clearWaits_handling (t : Ctx) : (clearWaits t).handling = t.handling := rfl
@[simp] theorem clearWaits_warn (t : Ctx) : (clearWaits t).warn = t.warn := rfl
@[simp] theorem clearWaits_barFile (t : Ctx) : (clearWaits t).barFile = t.barFile := rfl
@[simp] theorem clearWaits_fmtPushed (t : Ctx) : (clearWaits t).fmtPushed = t.fmtPushed := rfl
@[simp] theorem clearWaits_fmtFirst (t : Ctx) : (clearWaits t).fmtFirst = t.fmtFirst := rfl
@[simp] theorem clearWaits_trigger (t : Ctx) : (clearWaits t).trigger = t.trigger := rfl
@[simp] theorem clearWaits_triggered (t : Ctx) : (clearWaits t).triggered = t.triggered := rfl
@[simp] theorem clearWaits_ahead (t : Ctx) : (clearWaits t).ahead = t.ahead := rfl
@[simp] theorem clearWaits_yieldPhase (t : Ctx) : (clearWaits t).yieldPhase = t.yieldPhase := rfl

@[simp] theorem aSet64_task (t : Ctx) (n : Fin 32) (v : Nat) : (aSet64 t n v).task = t.task := aSet_task t n _
@[simp] theorem aSet64_asid (t : Ctx) (n : Fin 32) (v : Nat) : (aSet64 t n v).asid = t.asid := aSet_asid t n _
@[simp] theorem aSet64_context (t : Ctx) (n : Fin 32) (v : Nat) : (aSet64 t n v).context = t.context := aSet_context t n _
@[simp] theorem aSet64_system (t : Ctx) (n : Fin 32) (v : Nat) : (aSet64 t n v).system = t.system := aSet_system t n _
@[simp] theorem aSet64_entry (t : Ctx) (n : Fin 32) (v : Nat) : (aSet64 t n v).entry = t.entry := aSet_entry t n _
@[simp] theorem aSet64_atEntry (t : Ctx) (n : Fin 32) (v : Nat) : (aSet64 t n v).atEntry = t.atEntry := aSet_atEntry t n _
@[simp] theorem aSet64_streams (t : Ctx) (n : Fin 32) (v : Nat) : (aSet64 t n v).streams = t.streams := aSet_streams t n _
@[simp] theorem aSet64_steer (t : Ctx) (n : Fin 32) (v : Nat) : (aSet64 t n v).steer = t.steer := aSet_steer t n _
@[simp] theorem aSet64_x (t : Ctx) (n : Fin 32) (v : Nat) : (aSet64 t n v).x = t.x := aSet_x t n _
@[simp] theorem aSet64_pr (t : Ctx) (n : Fin 32) (v : Nat) : (aSet64 t n v).pr = t.pr := aSet_pr t n _
@[simp] theorem aSet64_lc (t : Ctx) (n : Fin 32) (v : Nat) : (aSet64 t n v).lc = t.lc := aSet_lc t n _
@[simp] theorem aSet64_aBusy (t : Ctx) (n : Fin 32) (v : Nat) : (aSet64 t n v).aBusy = t.aBusy := aSet_aBusy t n _
@[simp] theorem aSet64_k (t : Ctx) (n : Fin 32) (v : Nat) : (aSet64 t n v).k = t.k := aSet_k t n _
@[simp] theorem aSet64_rl (t : Ctx) (n : Fin 32) (v : Nat) : (aSet64 t n v).rl = t.rl := aSet_rl t n _
@[simp] theorem aSet64_args (t : Ctx) (n : Fin 32) (v : Nat) : (aSet64 t n v).args = t.args := aSet_args t n _
@[simp] theorem aSet64_variants (t : Ctx) (n : Fin 32) (v : Nat) : (aSet64 t n v).variants = t.variants := aSet_variants t n _
@[simp] theorem aSet64_launched (t : Ctx) (n : Fin 32) (v : Nat) : (aSet64 t n v).launched = t.launched := aSet_launched t n _
@[simp] theorem aSet64_csr (t : Ctx) (n : Fin 32) (v : Nat) : (aSet64 t n v).csr = t.csr := aSet_csr t n _
@[simp] theorem aSet64_q (t : Ctx) (n : Fin 32) (v : Nat) : (aSet64 t n v).q = t.q := aSet_q t n _
@[simp] theorem aSet64_tokens (t : Ctx) (n : Fin 32) (v : Nat) : (aSet64 t n v).tokens = t.tokens := aSet_tokens t n _
@[simp] theorem aSet64_slm (t : Ctx) (n : Fin 32) (v : Nat) : (aSet64 t n v).slm = t.slm := aSet_slm t n _
@[simp] theorem aSet64_windows (t : Ctx) (n : Fin 32) (v : Nat) : (aSet64 t n v).windows = t.windows := aSet_windows t n _
@[simp] theorem aSet64_aq (t : Ctx) (n : Fin 32) (v : Nat) : (aSet64 t n v).aq = t.aq := aSet_aq t n _
@[simp] theorem aSet64_spec (t : Ctx) (n : Fin 32) (v : Nat) : (aSet64 t n v).spec = t.spec := aSet_spec t n _
@[simp] theorem aSet64_vcyc (t : Ctx) (n : Fin 32) (v : Nat) : (aSet64 t n v).vcyc = t.vcyc := aSet_vcyc t n _
@[simp] theorem aSet64_vstall (t : Ctx) (n : Fin 32) (v : Nat) : (aSet64 t n v).vstall = t.vstall := aSet_vstall t n _
@[simp] theorem aSet64_vpend (t : Ctx) (n : Fin 32) (v : Nat) : (aSet64 t n v).vpend = t.vpend := aSet_vpend t n _
@[simp] theorem aSet64_m (t : Ctx) (n : Fin 32) (v : Nat) : (aSet64 t n v).m = t.m := aSet_m t n _
@[simp] theorem aSet64_pmode (t : Ctx) (n : Fin 32) (v : Nat) : (aSet64 t n v).pmode = t.pmode := aSet_pmode t n _
@[simp] theorem aSet64_ppend (t : Ctx) (n : Fin 32) (v : Nat) : (aSet64 t n v).ppend = t.ppend := aSet_ppend t n _
@[simp] theorem aSet64_acct (t : Ctx) (n : Fin 32) (v : Nat) : (aSet64 t n v).acct = t.acct := aSet_acct t n _
@[simp] theorem aSet64_handling (t : Ctx) (n : Fin 32) (v : Nat) : (aSet64 t n v).handling = t.handling := aSet_handling t n _
@[simp] theorem aSet64_warn (t : Ctx) (n : Fin 32) (v : Nat) : (aSet64 t n v).warn = t.warn := aSet_warn t n _
@[simp] theorem aSet64_barFile (t : Ctx) (n : Fin 32) (v : Nat) : (aSet64 t n v).barFile = t.barFile := aSet_barFile t n _
@[simp] theorem aSet64_fmtPushed (t : Ctx) (n : Fin 32) (v : Nat) : (aSet64 t n v).fmtPushed = t.fmtPushed := aSet_fmtPushed t n _
@[simp] theorem aSet64_fmtFirst (t : Ctx) (n : Fin 32) (v : Nat) : (aSet64 t n v).fmtFirst = t.fmtFirst := aSet_fmtFirst t n _
@[simp] theorem aSet64_trigger (t : Ctx) (n : Fin 32) (v : Nat) : (aSet64 t n v).trigger = t.trigger := aSet_trigger t n _
@[simp] theorem aSet64_triggered (t : Ctx) (n : Fin 32) (v : Nat) : (aSet64 t n v).triggered = t.triggered := aSet_triggered t n _
@[simp] theorem aSet64_ahead (t : Ctx) (n : Fin 32) (v : Nat) : (aSet64 t n v).ahead = t.ahead := aSet_ahead t n _
@[simp] theorem aSet64_yieldPhase (t : Ctx) (n : Fin 32) (v : Nat) : (aSet64 t n v).yieldPhase = t.yieldPhase := aSet_yieldPhase t n _

/-! ### Registers, streams and islands -/

theorem xGet_xSet (t : Ctx) (n m : Fin 64) (v : Word) :
    xGet (xSet t n v) m = if m = n ∧ n ≠ 0 then v else xGet t m := by
  unfold xGet xSet
  by_cases hn : n = 0
  · simp [hn]
  · by_cases hm : m = n
    · subst hm; simp [hn, Vector.get_eq_getElem]
    · have : n.val ≠ m.val := fun e => hm (Fin.ext e.symm)
      simp [hn, hm, Vector.get_eq_getElem, this]

theorem getLsbD_setBit {w : Nat} (v : BitVec w) (i j : Nat) (b : Bool) (h : i < w) :
    (setBit v i b).getLsbD j = if j = i then b else v.getLsbD j := by
  unfold setBit
  by_cases hj : j < w
  · cases b <;> by_cases e : j = i <;>
      simp only [BitVec.getLsbD_or, BitVec.getLsbD_and, BitVec.getLsbD_not, BitVec.getLsbD_ofNat, Nat.testBit_two_pow,
        if_true, if_false, Bool.false_eq_true, e, hj, h, decide_true, Bool.true_and, Bool.or_true, Bool.and_true,
        Bool.not_true, Bool.and_false, eq_comm (a := i)] <;>
      simp
  · have e : j ≠ i := fun e => hj (e ▸ h)
    simp [e, BitVec.getLsbD_of_ge, Nat.le_of_not_lt hj]

theorem pGet_pSet (t : Ctx) (n m : Fin 8) (b : Bool) :
    pGet (pSet t n b) m = if m = n ∧ n ≠ 0 then b else pGet t m := by
  unfold pGet pSet
  by_cases hn : n = 0
  · simp [hn]
  · by_cases hm : m = n
    · subst hm
      have h := getLsbD_setBit t.pr m.val m.val b m.isLt
      rw [if_pos rfl] at h
      rw [if_neg hn, if_pos ⟨rfl, hn⟩]
      exact (congrArg (decide (m = 0) || ·) h).trans (by simp [hn])
    · have e : m.val ≠ n.val := fun e => hm (Fin.ext e)
      have h := getLsbD_setBit t.pr n.val m.val b n.isLt
      rw [if_neg e] at h
      rw [if_neg hn, if_neg (fun e => hm e.1)]
      exact congrArg (decide (m = 0) || ·) h

theorem aGet_aSet (t : Ctx) (n m : Fin 32) (v : VAddr) :
    aGet (aSet t n v) m = if m = n ∧ n ≠ 0 then v else aGet t m := by
  unfold aGet aSet
  by_cases hn : n = 0
  · simp [hn]
  · by_cases hm : m = n
    · subst hm; simp [hn, Vector.get_eq_getElem]
    · have : n.val ≠ m.val := fun e => hm (Fin.ext e.symm)
      simp [hn, hm, Vector.get_eq_getElem, this]

@[simp] theorem getStream_modStream_self (t : Ctx) (st : Stream) (f : StreamState → StreamState) :
    getStream (modStream t st f) st = f (getStream t st) := by
  simp [getStream, modStream, Vector.get_eq_getElem]

theorem getStream_modStream_of_ne (t : Ctx) (st r : Stream) (f : StreamState → StreamState) (h : r ≠ st) :
    getStream (modStream t st f) r = getStream t r := by
  cases st <;> cases r <;> first | exact absurd rfl h | simp [getStream, modStream, sIdx, Vector.get_eq_getElem]

@[simp] theorem modStream_modStream (t : Ctx) (st : Stream) (f g : StreamState → StreamState) :
    modStream (modStream t st f) st g = modStream t st fun x => g (f x) := by
  simp [modStream, getStream, Vector.get_eq_getElem]

@[simp] theorem getStream_xSet (t : Ctx) (n : Fin 64) (v : Word) (st : Stream) :
    getStream (xSet t n v) st = getStream t st := by simp [getStream]
@[simp] theorem getStream_pSet (t : Ctx) (n : Fin 8) (b : Bool) (st : Stream) :
    getStream (pSet t n b) st = getStream t st := by simp [getStream]
@[simp] theorem getStream_aSet (t : Ctx) (n : Fin 32) (v : VAddr) (st : Stream) :
    getStream (aSet t n v) st = getStream t st := by simp [getStream]
@[simp] theorem getStream_modQ (t : Ctx) (f : Queues → Queues) (st : Stream) :
    getStream (modQ t f) st = getStream t st := rfl
@[simp] theorem xGet_modStream (t : Ctx) (st : Stream) (f : StreamState → StreamState) (n : Fin 64) :
    xGet (modStream t st f) n = xGet t n := rfl
@[simp] theorem pGet_modStream (t : Ctx) (st : Stream) (f : StreamState → StreamState) (n : Fin 8) :
    pGet (modStream t st f) n = pGet t n := rfl
@[simp] theorem aGet_modStream (t : Ctx) (st : Stream) (f : StreamState → StreamState) (n : Fin 32) :
    aGet (modStream t st f) n = aGet t n := rfl

@[simp] theorem getIsland_modCur (s : State) (f : Ctx → Ctx) (i : IslandId) :
    getIsland (modCur s f) i = getIsland s i := rfl
@[simp] theorem volt2_modCur (s : State) (f : Ctx → Ctx) (c : CoreId) : volt2 (modCur s f) c = volt2 s c := rfl
@[simp] theorem volt2_modCtx (s : State) (c d : CoreId) (f : Ctx → Ctx) : volt2 (modCtx s c f) d = volt2 s d := rfl
@[simp] theorem getIsland_modIsland_self (s : State) (i : IslandId) (f : Island → Island) :
    getIsland (modIsland s i f) i = f (getIsland s i) := by
  simp [getIsland, modIsland, Vector.get_eq_getElem]

end Sys2Proof.Machine
end

