-- ==== Sys2Proof/Laws/Frame.lean ====
section
/-!
SUPPORT. The frame of a word, said once: when runWord and runCtx answer a state in which the word has completed, and what
that state keeps; and that a task which waits nowhere has no wait to withdraw.
-/
namespace Sys2Proof.Machine

theorem costActive_eq (s : State) (c : CoreId) :
    costActive * 1 * volt2 s c = 60000 * (voltage (getIsland s (islandOf c)).op) ^ 2 := by
  simp [costActive, volt2, Nat.pow_two]

/-- Only the A-stream has a replayable fault of its own. -/
theorem replayGate_of_ne (s : State) (st : Stream) (h : st ≠ .a) : replayGate s st = none := by
  cases st <;> first | exact absurd rfl h | rfl

theorem replayGate_of_none (s : State) (st : Stream) (h : (curCtx s).aq.replay = none) : replayGate s st = none := by
  unfold replayGate; cases st <;> simp [h]

/-- What a retiring word does to its stream. -/
def retiredStream (st : Stream) (pc : Word) (t : Ctx) : Ctx :=
  let t := modStream t st fun x => { x with pc := pc, cidx := x.cidx + 1, waiting := false }
  if st = .a then { t with aq := { t.aq with replay := none, ask := [], now := [], ringWait := none } } else t

/-- What a retiring word leaves of the task. -/
def retiredCtx (s : State) (st : Stream) (pc : Word) (c : Ctx) : Ctx :=
  let c := retiredStream st pc c
  let c := { c with acct := { c.acct with work := c.acct.work + costActive * 1 * volt2 s s.cur } }
  { c with csr := { c.csr with cycle := c.csr.cycle + BitVec.ofNat 64 1 } }

theorem retireAt_eq (s : State) (st : Stream) (pc : Word) : retireAt s st pc = modCur s (retiredCtx s st pc) := by
  let g1 : Ctx → Ctx := fun c => { c with acct := { c.acct with work := c.acct.work + costActive * 1 * volt2 s s.cur } }
  let g2 : Ctx → Ctx := fun c => { c with csr := { c.csr with cycle := c.csr.cycle + BitVec.ofNat 64 1 } }
  have h : retireAt s st pc = modCtx (modCtx (modCtx s s.cur (retiredStream st pc)) s.cur g1) s.cur g2 := rfl
  rw [h, modCtx_modCtx, modCtx_modCtx]; rfl

theorem blankWord_retiredCtx (s : State) (st : Stream) (pc : Word) (c : Ctx) :
    blankWord st (retiredCtx s st pc c) = blankWord st c := by
  cases st <;> simp [blankWord, retiredCtx, retiredStream, modStream, getStream, Vector.get_eq_getElem]

/-- A word that leaves everything but the task alone and retires completes. -/
theorem completes_of_modCur {i : Instr} {s : State} {st : Stream} {pc : Word} {hide f : Ctx → Ctx} {post : State → Prop}
    (he : exec i s = .next (retireAt (modCur s f) st pc))
    (hs : getStream (f (curCtx s)) st = getStream (curCtx s) st)
    (hc : (f (curCtx s)).csr.cycle = (curCtx s).csr.cycle)
    (hw : (f (curCtx s)).acct.work = (curCtx s).acct.work)
    (hh : hide (blankWord st (f (curCtx s))) = hide (blankWord st (curCtx s)))
    (hp : post (retireAt (modCur s f) st pc)) : Completes i s st pc hide post := by
  refine ⟨_, he, ?_, ?_, ?_, ⟨fun _ => rfl, fun _ => rfl⟩, hp⟩
  · rw [retireAt_eq, modCur_modCur]
    constructor <;> rw [curCtx_modCur] <;> cases st <;> simp_all [retiredCtx, retiredStream, getStream, modStream, Vector.get_eq_getElem]
  · rw [retireAt_eq, modCur_modCur]
    constructor
    · rw [curCtx_modCur]; cases st <;> simp [retiredCtx, retiredStream, hc, modStream]
    · rw [curCtx_modCur, ← costActive_eq]; cases st <;> simp [retiredCtx, retiredStream, hw, modStream]
  · unfold SameBut
    rw [retireAt_eq, modCur_modCur, modCur_modCur]
    exact modCur_congr _ _ _ (by rw [blankWord_retiredCtx]; exact hh)

/-- A word over the task's own state completes when its effect answers a task in which its stream, CYCLE and the charged
energy stand as before. -/
theorem completes_of_runCtx {i : Instr} {s : State} {st : Stream} {len : Nat} {f : Ctx → Res Ctx} {u : Ctx}
    {hide : Ctx → Ctx} {post : State → Prop} (he : exec i s = runCtx st len f s) (hr : runs s = true)
    (hg : replayGate s st = none) (hf : f (curCtx s) = .ok u)
    (hs : getStream u st = getStream (curCtx s) st) (hc : u.csr.cycle = (curCtx s).csr.cycle)
    (hw : u.acct.work = (curCtx s).acct.work) (hh : hide (blankWord st u) = hide (blankWord st (curCtx s)))
    (hp : post (retireAt (modCur s fun _ => u) st (after s st len))) :
    Completes i s st (after s st len) hide post := by
  refine completes_of_modCur (f := fun _ => u) ?_ hs hc hw hh hp
  rw [he]
  simp only [runCtx, runWord, hr, if_true, hg, hf, Res.mapTo, Res.andThen, settleWord, retire, after, curCtx_modCur, hs]

/-- A word over the task's own state faults as its effect does; one of the A-stream whose fault comes from no walk. -/
theorem traps_of_runCtx {i : Instr} {s : State} {st : Stream} {len : Nat} {f : Ctx → Res Ctx} {cause : Cause}
    {detail : Nat} {faddr : VAddr} (he : exec i s = runCtx st len f s) (hr : runs s = true)
    (hg : replayGate s st = none) (hf : f (curCtx s) = .trap cause detail faddr) (hc : cause ≠ .pageFault)
    (hk : st = .a → chargeFault s cause detail faddr = s) : Traps i s st cause detail faddr len := by
  unfold Traps
  rw [he]
  cases cause <;>
    first
    | exact absurd rfl hc
    | (simp only [runCtx, runWord, hr, if_true, hg, hf, Res.mapTo, Res.andThen, settleWord]
       by_cases h : st = .a <;> simp [h, hk])

/-- A word over the task's own state waits when its effect does, outside a handler. -/
theorem waits_of_runCtx {i : Instr} {s : State} {st : Stream} {len : Nat} {f : Ctx → Res Ctx}
    (he : exec i s = runCtx st len f s) (hr : runs s = true) (hg : replayGate s st = none)
    (hf : f (curCtx s) = .wait) (hh : st = .s → (curCtx s).csr.inHandler = false) : Waits i s st := by
  unfold Waits
  rw [he]
  cases st <;>
    simp_all [runCtx, runWord, Res.mapTo, Res.andThen, settleWord, waitWord]

/-- In a handler a wait of the S-stream is a fault. -/
theorem traps_of_wait {i : Instr} {s : State} {len : Nat} {f : Ctx → Res Ctx}
    (he : exec i s = runCtx .s len f s) (hr : runs s = true) (hf : f (curCtx s) = .wait)
    (hh : (curCtx s).csr.inHandler = true) : Traps i s .s .queue 2 0 len := by
  unfold Traps
  rw [he]
  simp [runCtx, runWord, hr, hf, Res.mapTo, Res.andThen, settleWord, waitWord, hh, replayGate_of_ne s .s (by decide)]

/-- What the state after a retiring word shows of the task: all but the fields that every word changes. -/
theorem curCtx_retireAt (s : State) (st : Stream) (pc : Word) (f : Ctx → Ctx) :
    curCtx (retireAt (modCur s f) st pc) = retiredCtx (modCur s f) st pc (f (curCtx s)) := by
  rw [retireAt_eq, curCtx_modCur, curCtx_modCur]

theorem retiredCtx_s_x (s : State) (st : Stream) (pc : Word) (c : Ctx) (n : Fin 64) :
    xGet (retiredCtx s st pc c) n = xGet c n := by
  cases st <;> rfl
theorem retiredCtx_pr (s : State) (st : Stream) (pc : Word) (c : Ctx) (n : Fin 8) :
    pGet (retiredCtx s st pc c) n = pGet c n := by
  cases st <;> rfl
theorem retiredCtx_a (s : State) (st : Stream) (pc : Word) (c : Ctx) (n : Fin 32) :
    aGet (retiredCtx s st pc c) n = aGet c n := by
  cases st <;> rfl

/-- After a word that gave X[d] the value v. -/
theorem holdsX_retireAt (s : State) (st : Stream) (pc : Word) (c : Ctx) (d : Fin 64) (v : Word) :
    HoldsX (retireAt (modCur s fun _ => xSet c d v) st pc) d v := by
  unfold HoldsX
  rw [curCtx_retireAt, retiredCtx_s_x, xGet_xSet]
  by_cases h : d = 0 <;> simp [h, xGet]

theorem holdsP_retireAt (s : State) (st : Stream) (pc : Word) (c : Ctx) (d : Fin 8) (v : Bool) :
    HoldsP (retireAt (modCur s fun _ => pSet c d v) st pc) d v := by
  unfold HoldsP
  rw [curCtx_retireAt, retiredCtx_pr, pGet_pSet]
  by_cases h : d = 0 <;> simp [h, pGet]

theorem holdsA_retireAt (s : State) (st : Stream) (pc : Word) (c : Ctx) (d : Fin 32) (v : VAddr) :
    HoldsA (retireAt (modCur s fun _ => aSet c d v) st pc) d v := by
  unfold HoldsA
  rw [curCtx_retireAt, retiredCtx_a, aGet_aSet]
  by_cases h : d = 0 <;> simp [h, aGet]

/-- Hiding X[d] hides a write of it. -/
theorem hideX_xSet (st : Stream) (t : Ctx) (d : Fin 64) (v : Word) :
    hideX d (blankWord st (xSet t d v)) = hideX d (blankWord st t) := by
  unfold hideX xSet
  split
  · rfl
  · cases st <;> simp [blankWord, modStream, getStream]

theorem hideP_pSet (st : Stream) (t : Ctx) (d : Fin 8) (b : Bool) :
    hideP d (blankWord st (pSet t d b)) = hideP d (blankWord st t) := by
  unfold hideP pSet
  split
  · rfl
  · have h : ∀ v : BitVec 8, setBit (setBit v d.val b) d.val false = setBit v d.val false := by
      intro v
      apply BitVec.eq_of_getLsbD_eq
      intro i _
      rw [getLsbD_setBit _ _ _ _ d.isLt, getLsbD_setBit _ _ _ _ d.isLt, getLsbD_setBit _ _ _ _ d.isLt]
      split <;> rfl
    cases st <;> simp [blankWord, modStream, getStream, h]

theorem hideA_aSet (st : Stream) (t : Ctx) (d : Fin 32) (v : VAddr) :
    hideA d (blankWord st (aSet t d v)) = hideA d (blankWord st t) := by
  unfold hideA aSet
  split
  · rfl
  · cases st <;> simp [blankWord, modStream, getStream]

/-- A word that writes one value to X[d] completes. -/
theorem completes_of_scalarWord {i : Instr} {s : State} {d : Fin 64} {f : Ctx → Word} {v : Word}
    (hr : runs s = true) (he : exec i s = scalarWord d f s) (hv : f (curCtx s) = v) :
    Completes i s .s (after s .s 4) (hideX d) fun t => HoldsX t d v :=
  completes_of_runCtx he hr (replayGate_of_ne s .s (by decide)) (congrArg (fun v => Res.ok (xSet _ d v)) hv)
    (by simp) (by simp) (by simp) (hideX_xSet _ _ _ _) (holdsX_retireAt _ _ _ _ _ _)

/-- A change that leaves the task as it is changes nothing. -/
theorem modCtx_of_fixed {s : State} {c : CoreId} {f : Ctx → Ctx} (h : f (getCore s c).ctx = (getCore s c).ctx) :
    modCtx s c f = s := by
  show setCore s c { getCore s c with ctx := f (getCore s c).ctx } = s
  rw [h]
  exact setCore_getCore s c

/-- A change of a task changes no core's rings. -/
@[simp] theorem rings_modCtx (s : State) (c d : CoreId) (f : Ctx → Ctx) :
    (getCore (modCtx s c f) d).rings = (getCore s d).rings := by
  by_cases h : d = c
  · subst h; simp
  · exact congrArg Core.rings (getCore_modCore_of_ne s c d _ h)

/-- A ring at which core c does not wait keeps its waiters. -/
theorem Ring.unwaited {r : Ring} {c : CoreId} (h : c ∉ r.waiters) :
    { r with waiters := r.waiters.filter (· != c) } = r := by
  have : r.waiters.filter (· != c) = r.waiters := List.filter_eq_self.2 fun d hd => by
    simpa using fun e : d = c => h (e ▸ hd)
  rw [this]

/-- A task that waits nowhere has no wait to withdraw (10 R271). -/
theorem withdrawWaits_none {s : State} {c : CoreId} (w : (getCore s c).ctx.aq.waita = .none)
    (r : (getCore s c).ctx.aq.ringWait = none) (n : (getCore s c).ctx.aq.scWait = .none) (m : s.monitors = [])
    (f : s.counters = []) (k : ∀ d, ∀ x ∈ (getCore s d).rings, c ∉ x.waiters) : withdrawWaits s c = s := by
  have told : tellWithdrawn s c = s := by unfold tellWithdrawn; rw [w]
  have rings : s.cores.map (fun k => { k with rings := k.rings.map fun r =>
      { r with waiters := r.waiters.filter (· != c) } }) = s.cores := by
    ext1 i hi
    have e : s.cores[i].rings.map (fun r => { r with waiters := r.waiters.filter (· != c) }) = s.cores[i].rings := by
      ext1 j hj
      rw [Vector.getElem_map]
      exact Ring.unwaited (k ⟨i, hi⟩ _ (Vector.getElem_mem hj))
    rw [Vector.getElem_map, e]
  have same : { s with monitors := [], counters := [], cores := s.cores } = s := by rw [← m, ← f]
  have waits : { (getCore s c).ctx.aq with waita := .none, ringWait := none, scWait := .none } = (getCore s c).ctx.aq := by
    rw [← w, ← r, ← n]
  unfold withdrawWaits
  simp only [told, rings, m, f, List.map_nil, List.filter_nil, same, n]
  refine modCtx_of_fixed ?_
  simp only [w, n, waits]

end Sys2Proof.Machine
end

