-- ==== Sys2Proof/Laws/Memory.lean ====
section
/-!
SUPPORT. The laws of byte memories: every operation keeps the canonical form, a byte that was written reads as written,
every other byte reads as before, and two memories in canonical form that read alike are the same memory.
-/
namespace Sys2Proof.Machine

/-- The canonical form of a memory that lists a byte. -/
theorem memWfFrom_cons (lo : Nat) (e : Host.Cell) (r : Memory) :
    memWfFrom lo (e :: r) = true ↔ lo ≤ e.1 ∧ e.2 ≠ 0 ∧ memWfFrom (e.1 + 1) r = true := by
  rw [memWfFrom]
  simp only [Bool.and_eq_true, decide_eq_true_eq, bne_iff_ne, ne_eq, and_assoc]

theorem memWfFrom_weaken {lo lo' : Nat} (h : lo' ≤ lo) {m : Memory} (hm : memWfFrom lo m = true) :
    memWfFrom lo' m = true := by
  cases m with
  | nil => rfl
  | cons e r => rw [memWfFrom_cons] at hm ⊢; exact ⟨by omega, hm.2⟩

/-- A byte below the first listed address reads as 0. -/
theorem memRead_below {lo : Nat} {m : Memory} (hm : memWfFrom lo m = true) {a : Nat} (ha : a < lo) : memRead m a = 0 := by
  cases m with
  | nil => rfl
  | cons e r =>
    rw [memWfFrom_cons] at hm
    simp only [memRead]; rw [if_neg (by omega), if_pos (by omega)]

theorem memWfFrom_memWrite {lo : Nat} {m : Memory} (hm : memWfFrom lo m = true) {a : Nat} (ha : lo ≤ a) (v : Byte) :
    memWfFrom lo (memWrite m a v) = true := by
  induction m generalizing lo with
  | nil =>
    unfold memWrite
    split
    · rfl
    · next h => exact (memWfFrom_cons _ _ _).mpr ⟨ha, h, rfl⟩
  | cons e r ih =>
    obtain ⟨k, w⟩ := e
    have hc := (memWfFrom_cons _ _ _).mp hm
    unfold memWrite
    split
    · next h1 =>
      split
      · exact memWfFrom_weaken (by have := hc.1; simp at this; omega) hc.2.2
      · next h2 => exact (memWfFrom_cons _ _ _).mpr ⟨ha, h2, h1 ▸ hc.2.2⟩
    · split
      · next h2 =>
        split
        · exact hm
        · next h3 =>
          exact (memWfFrom_cons _ _ _).mpr ⟨ha, h3, (memWfFrom_cons _ _ _).mpr ⟨Nat.succ_le_of_lt h2, hc.2⟩⟩
      · next h1 h2 => exact (memWfFrom_cons _ _ _).mpr ⟨hc.1, hc.2.1, ih hc.2.2 (by simp; omega)⟩

/-- Reading after a write of one byte. -/
theorem memRead_memWrite {m : Memory} (hm : Memory.wf m = true) (a : Nat) (v : Byte) (b : Nat) :
    memRead (memWrite m a v) b = if b = a then v else memRead m b := by
  suffices ∀ lo, memWfFrom lo m = true → memRead (memWrite m a v) b = if b = a then v else memRead m b from this 0 hm
  clear hm
  intro lo hm
  induction m generalizing lo with
  | nil =>
    unfold memWrite
    split
    · next h => simp only [memRead, h]; split <;> rfl
    · simp only [memRead]
      by_cases h' : b = a
      · rw [if_pos h', if_pos h'.symm]
      · rw [if_neg h', if_neg (fun h => h' h.symm)]; split <;> rfl
  | cons e r ih =>
    obtain ⟨k, w⟩ := e
    rw [memWfFrom_cons] at hm; simp only at hm
    have hr := ih (k + 1) hm.2.2
    unfold memWrite
    split
    · next hk =>
      subst hk
      by_cases hb : b = k
      · subst hb
        split
        · next hv => simp [hv, memRead_below hm.2.2 (Nat.lt_succ_self _)]
        · simp [memRead]
      · have hn : ¬k = b := fun h => hb h.symm
        split
        · simp only [memRead, if_neg hn]
          split
          · exact memRead_below hm.2.2 (by omega)
          · rfl
        · simp only [memRead, if_neg hn]
    · next hk =>
      split
      · next hlt =>
        split
        · next hv =>
          by_cases hb : b = a
          · subst hb; simp only [memRead, if_neg hk, if_pos hlt, if_true, hv]
          · rw [if_neg hb]
        · by_cases hb : b = a
          · subst hb; simp [memRead]
          · have hn : ¬a = b := fun h => hb h.symm
            simp only [memRead, if_neg hb, if_neg hn]
            split
            · rw [if_neg (by omega), if_pos (by omega)]
            · rfl
      · simp only [memRead, hr]
        by_cases hb : b = a
        · subst hb; rw [if_neg hk, if_neg (by omega)]; simp
        · simp only [if_neg hb]

theorem memWrite_wf {m : Memory} (hm : Memory.wf m = true) (a : Nat) (v : Byte) : Memory.wf (memWrite m a v) = true :=
  memWfFrom_memWrite hm (Nat.zero_le a) v

theorem memWriteN_wf {m : Memory} (hm : Memory.wf m = true) (a : Nat) (l : List Byte) :
    Memory.wf (memWriteN m a l) = true := by
  induction l generalizing m a with
  | nil => exact hm
  | cons b r ih => exact ih (memWrite_wf hm a b) (a + 1)

/-- Reading after a write of several bytes. -/
theorem memRead_memWriteN {m : Memory} (hm : Memory.wf m = true) (a : Nat) (l : List Byte) (b : Nat) :
    memRead (memWriteN m a l) b = if h : a ≤ b ∧ b - a < l.length then l[b - a]'h.2 else memRead m b := by
  induction l generalizing m a with
  | nil => simp [memWriteN]
  | cons x r ih =>
    rw [memWriteN, ih (memWrite_wf hm a x), memRead_memWrite hm]
    by_cases hb : b = a
    · subst hb; simp
    · by_cases h1 : a + 1 ≤ b ∧ b - (a + 1) < r.length
      · rw [dif_pos h1, dif_pos ⟨by omega, by simp; omega⟩]
        have : b - a = (b - (a + 1)) + 1 := by omega
        simp [this]
      · rw [dif_neg h1, if_neg hb, dif_neg]
        simp only [List.length_cons]; omega

theorem memPut_wf {m : Memory} (hm : Memory.wf m = true) (a n v : Nat) : Memory.wf (memPut m a n v) = true :=
  memWriteN_wf hm a _

theorem memPlace_wf {m : Memory} (hm : Memory.wf m = true) (lo : Nat) (part : Memory) :
    Memory.wf (memPlace m lo part) = true := by
  unfold memPlace
  induction part generalizing m with
  | nil => exact hm
  | cons e r ih => exact ih (memWrite_wf hm _ _)

theorem memWfFrom_filter {lo : Nat} {m : Memory} (hm : memWfFrom lo m = true) (p : Host.Cell → Bool) :
    memWfFrom lo (m.filter p) = true := by
  induction m generalizing lo with
  | nil => rfl
  | cons e r ih =>
    rw [memWfFrom_cons] at hm
    rw [List.filter_cons]
    split
    · exact (memWfFrom_cons _ _ _).mpr ⟨hm.1, hm.2.1, ih hm.2.2⟩
    · exact memWfFrom_weaken (by omega) (ih hm.2.2)

theorem memClear_wf {m : Memory} (hm : Memory.wf m = true) (lo hi : Nat) : Memory.wf (memClear m lo hi) = true :=
  memWfFrom_filter hm _

/-- Reading after a range was cleared. -/
theorem memRead_memClear {m : Memory} (hm : Memory.wf m = true) (lo hi b : Nat) :
    memRead (memClear m lo hi) b = if lo ≤ b ∧ b < hi then 0 else memRead m b := by
  suffices ∀ k, memWfFrom k m = true → memRead (memClear m lo hi) b = if lo ≤ b ∧ b < hi then 0 else memRead m b from
    this 0 hm
  clear hm
  intro k hm
  induction m generalizing k with
  | nil => simp [memClear, memRead]
  | cons e r ih =>
    obtain ⟨n, w⟩ := e
    rw [memWfFrom_cons] at hm; simp only at hm
    have hr := ih (n + 1) hm.2.2
    have hw : memWfFrom (n + 1) (memClear r lo hi) = true := memWfFrom_filter hm.2.2 _
    unfold memClear at hr hw ⊢
    rw [List.filter_cons]
    by_cases hn : lo ≤ n ∧ n < hi
    · rw [if_neg (by simp [hn]), hr]
      by_cases hb : lo ≤ b ∧ b < hi
      · rw [if_pos hb, if_pos hb]
      · rw [if_neg hb, if_neg hb]
        simp only [memRead]
        rw [if_neg (by omega)]
        split
        · exact memRead_below hm.2.2 (by omega)
        · rfl
    · rw [if_pos (by simp; omega)]
      simp only [memRead]
      by_cases hb : n = b
      · subst hb; rw [if_pos rfl, if_pos rfl, if_neg hn]
      · rw [if_neg hb, if_neg hb, hr]
        split
        · simp
        · rfl

/-- Two memories in canonical form that read alike at every address are equal. -/
theorem memory_ext {m n : Memory} (hm : Memory.wf m = true) (hn : Memory.wf n = true)
    (h : ∀ a, memRead m a = memRead n a) : m = n := by
  suffices ∀ lo, memWfFrom lo m = true → memWfFrom lo n = true → m = n from this 0 hm hn
  clear hm hn
  intro lo hm hn
  induction m generalizing lo n with
  | nil =>
    cases n with
    | nil => rfl
    | cons e r =>
      have := h e.1
      rw [memWfFrom_cons] at hn
      simp [memRead] at this
      exact absurd this.symm hn.2.1
  | cons e r ih =>
    obtain ⟨k, v⟩ := e
    rw [memWfFrom_cons] at hm; simp only at hm
    cases n with
    | nil =>
      have := h k
      simp [memRead] at this
      exact absurd this hm.2.1
    | cons f q =>
      obtain ⟨j, w⟩ := f
      rw [memWfFrom_cons] at hn; simp only at hn
      have hk := h k
      have hj := h j
      simp only [memRead, if_true] at hk hj
      have he : k = j := by
        by_contra hne
        rcases Nat.lt_or_gt_of_ne hne with hlt | hlt
        · rw [if_neg (fun h => hne h.symm), if_pos hlt] at hk; exact hm.2.1 hk
        · rw [if_neg hne, if_pos hlt] at hj; exact hn.2.1 hj.symm
      subst he
      rw [if_pos rfl] at hk
      subst hk
      congr 1
      refine ih (fun a => ?_) (k + 1) hm.2.2 hn.2.2
      by_cases ha : a < k + 1
      · rw [memRead_below hm.2.2 ha, memRead_below hn.2.2 ha]
      · have := h a
        simp only [memRead] at this
        rwa [if_neg (by omega), if_neg (by omega), if_neg (by omega), if_neg (by omega)] at this

theorem reset_memories_wf : Memory.wf State.reset.mem = true ∧ Memory.wf State.reset.hostMem = true := ⟨rfl, rfl⟩

end Sys2Proof.Machine
end

