-- ==== Sys2Proof/Tests/Slice0.lean ====
section
/-!
SUPPORT. Tests of the words: for each family, words written out from the encoding tables of 13 R353 to R364 and the rules
of 14 to 18 with the instruction that each stands for, every instruction once; and for each check of WellFormed, a word
that it refuses. And for the statements, states and operands that meet their hypotheses: test_meets_<what>.
-/
namespace Sys2Proof

/-- 14 R380 to R387. -/
theorem test_decode_integer_words_1 : ∀ e ∈ [
    (0x01854BC0, Instr.add 33 20 47),
    (0x01854BC1, Instr.sub 33 20 47),
    (0x01854BC2, Instr.and 33 20 47),
    (0x01854BC3, Instr.or 33 20 47),
    (0x01854BC4, Instr.xor 33 20 47),
    (0x01854BC5, Instr.sll 33 20 47),
    (0x01854BC6, Instr.srl 33 20 47),
    (0x01854BC7, Instr.sra 33 20 47),
    (0x01854BC8, Instr.min 33 20 47),
    (0x01854BC9, Instr.max 33 20 47),
    (0x01854BCA, Instr.minn 33 20 47),
    (0x01854BCB, Instr.maxn 33 20 47),
    (0x0185400C, Instr.clz 33 20),
    (0x0185400D, Instr.ctz 33 20),
    (0x0185400E, Instr.popc 33 20),
    (0x021BD240, Instr.mul 6 61 9),
    (0x021BD241, Instr.mulh 6 61 9),
    (0x021BD242, Instr.mulhn 6 61 9),
    (0x021BD243, Instr.div 6 61 9),
    (0x021BD244, Instr.divn 6 61 9),
    (0x021BD245, Instr.rem 6 61 9),
    (0x021BD246, Instr.remn 6 61 9),
    (0x082B3FFB, Instr.addi 10 51 (-5)),
    (0x092B3FFB, Instr.andi 10 51 (-5))],
     decodeTableWord 32 e.1 = some e.2 := by decide +kernel

/-- 14 R380 to R387. -/
theorem test_decode_integer_words_2 : ∀ e ∈ [
    (0x0A2B3FFB, Instr.ori 10 51 (-5)),
    (0x0B2B3FFB, Instr.xori 10 51 (-5)),
    (0x0C2B3025, Instr.slli 10 51 37),
    (0x0D2B3025, Instr.srli 10 51 37),
    (0x0E2B3025, Instr.srai 10 51 37),
    (0x10260000, Instr.liw 9 (-131072)),
    (0x1127FFFF, Instr.lis 9 262143),
    (0x14B21480, Instr.cmp 5 4 33 18),
    (0x15A61FF9, Instr.cmpi 5 1 33 (-7)),
    (0x16D58009, Instr.plog 6 5 3 9),
    (0x171C8245, Instr.sel 7 8 9 5),
    (0x180A8FF8, Instr.lds 2 40 (-8)),
    (0x190A8010, Instr.sts 2 40 16),
    (0x1A080005, Instr.ldarg 2 5)],
     decodeTableWord 32 e.1 = some e.2 := by decide +kernel

/-- 14 R388 to R402; 12 R340. -/
theorem test_decode_s_stream_words_1 : ∀ e ∈ [
    (0x20546000, Instr.qpush 21 3),
    (0x21544000, Instr.qpop 21 2),
    (0x22550000, Instr.qstat 21 8),
    (0x2400000E, Instr.tsig 14),
    (0x2500000E, Instr.twait 14),
    (0x2830003D, Instr.csrr 12 0x3D),
    (0x2930D015, Instr.csrw 12 13 0x15),
    (0x2A30D015, Instr.csrs 12 13 0x15),
    (0x2B30D015, Instr.csrc 12 13 0x15),
    (0x30004143, Instr.nestw 4 5 3),
    (0x3100C000, Instr.fmtpush 12),
    (0x34083000, Instr.evpop 2 3),
    (0x35083000, Instr.evwait 2 3),
    (0x38080006, Instr.budget 2 6),
    (0x39080001, Instr.joule 2 1),
    (0x3A089000, Instr.varsel 2 9 0),
    (0x40000FFF, Instr.trap 4095),
    (0x41000000, Instr.rett),
    (0x42000000, Instr.trigger),
    (0x4814600F, Instr.specon 5 6 15),
    (0x49146000, Instr.speccommit 5 6),
    (0x4A000000, Instr.specabort),
    (0x7018417F, Instr.launch 6 4 5 63),
    (0x71004146, Instr.invr 4 5 true 2)],
     decodeTableWord 32 e.1 = some e.2 := by decide +kernel

/-- 14 R388 to R402; 12 R340. -/
theorem test_decode_s_stream_words_2 : ∀ e ∈ [
    (0x72184140, Instr.reclass 6 4 5),
    (0x73184001, Instr.haltc 6 4 true)],
     decodeTableWord 32 e.1 = some e.2 := by decide +kernel

/-- 13 R355. -/
theorem test_decode_shared_control_words : ∀ e ∈ [
    (0xF0090000, Instr.nopx 9),
    (0xF1D0FFFB, Instr.br 6 true (-5)),
    (0xF203FFFE, Instr.loop 3 (-2)),
    (0xF3400007, Instr.call 2 false 7),
    (0xF4290000, Instr.calli 41),
    (0xF5F00000, Instr.ret 7 true),
    (0xF6000201, Instr.yield 513),
    (0xF7200000, Instr.endw 1 false)],
     decodeTableWord 32 e.1 = some e.2 := by decide +kernel

/-- 13 R356 to R358; 15 R409 to R420; 08 R227. -/
theorem test_decode_access_words_1 : ∀ e ∈ [
    (0x80000000, Instr.anop),
    (0x818F9200, Instr.aadd 17 30 9),
    (0x828FA000, Instr.aaddi 17 30 (-8192)),
    (0x838F9200, Instr.asub 17 30 9),
    (0x848F923F, Instr.ashadd 17 30 9 63),
    (0x8717C0FE, Instr.amovi 2 31 0xFE),
    (0x88180007, Instr.areloc 3 7),
    (0x9010E400, Instr.lq 2 3 4 (-1024)),
    (0x9348DBFF, Instr.sq 9 3 3 1023),
    (0x9548D7FF, Instr.lx 9 3 2 (-1)),
    (0x9648CFFF, Instr.sx 9 3 1 (-1)),
    (0x9708E005, Instr.pref 1 3 4 5),
    (0x9C000000, Instr.mark),
    (0xB000000B, Instr.barr 11),
    (0xB100000B, Instr.bwait 11),
    (0xB3000000, Instr.brot),
    (0xBD054000, Instr.job 21),
    (0xBE054000, Instr.sample 21),
    (0x85200000, Instr.amovq 4 0 0),
    (0x8501C001, Instr.amovq 0 7 1),
    (0x86300009, Instr.aregRead 6 2 1),
    (0x86018018, Instr.aregWrite 6 2 0),
    (0x91189213, Instr.lqs 3 2 9 true 3),
    (0x92088602, Instr.lqg 1 2 3 2)],
     decodeTableWord 32 e.1 = some e.2 := by decide +kernel

/-- 13 R356 to R358; 15 R409 to R420; 08 R227. -/
theorem test_decode_access_words_2 : ∀ e ∈ [
    (0x9440860B, Instr.sqs 8 2 3 false true 3),
    (0x98406000, Instr.append 8 1 4),
    (0x9D000001, Instr.acq 1),
    (0x9E000002, Instr.rel 2),
    (0x9F000004, Instr.fence 4)],
     decodeTableWord 32 e.1 = some e.2 := by decide +kernel

/-- 15 R421 to R437. -/
theorem test_decode_synchronisation_words : ∀ e ∈ [
    (0xA0388637, Instr.amo 7 2 3 true true 7),
    (0xA1388620, Instr.acas 7 2 3 true false),
    (0xA2008618, Instr.red 2 3 false true 8),
    (0xA3288610, Instr.waita 5 2 3 true),
    (0xA8298043, Instr.rclaim 5 6 67),
    (0xA92987FF, Instr.rpub 5 6 2047),
    (0xAA298043, Instr.rwaitf 5 6 67),
    (0xAB018043, Instr.rfree 6 67),
    (0xAC298043, Instr.rstatRead 5 6 67),
    (0xAC29A043, Instr.rstatSet 5 6 67),
    (0xB2010001, Instr.bexpect 4 1),
    (0xB8204FFF, Instr.scdecWait 4 1 4095),
    (0xB8205FFF, Instr.scdecTry 4 1 4095),
    (0xB8206FFF, Instr.scdecRes 4 1 4095),
    (0xB9204007, Instr.scinc 4 1 7),
    (0xBA204007, Instr.scrd 4 1 7),
    (0xBB204007, Instr.scrdx 4 1 7),
    (0xBC204007, Instr.scinit 4 1 7),
    (0xBF480001, Instr.srpop 9 true)],
     decodeTableWord 32 e.1 = some e.2 := by decide +kernel

/-- 13 R359 and R360; 16. -/
theorem test_decode_vector_words_1 : ∀ e ∈ [
    (0x0005F0C80142100AC0180033, Instr.vadd ⟨8, 3, false, 1, true, 10, 8, 322, 0, 200, -8, 5, 0, 0⟩),
    (0x0005F0C80142100BC0280035, Instr.vsub ⟨8, 3, false, 2, true, 11, 8, 322, 0, 200, -8, 5, 0, 0⟩),
    (0x0005F0C80142100CC0380037, Instr.vmul ⟨8, 3, false, 3, true, 12, 8, 322, 0, 200, -8, 5, 0, 0⟩),
    (0x0005F0C80142100DC0480033, Instr.vfma ⟨8, 3, false, 1, true, 13, 8, 322, 0, 200, -8, 5, 0, 0⟩),
    (0x0005F0C80142100EC0580035, Instr.vfms ⟨8, 3, false, 2, true, 14, 8, 322, 0, 200, -8, 5, 0, 0⟩),
    (0x0005F0C80142100FC0680037, Instr.vnfma ⟨8, 3, false, 3, true, 15, 8, 322, 0, 200, -8, 5, 0, 0⟩),
    (0x0000101E1014100AC079FFF0, Instr.vmin ⟨9, 4095, false, 0, false, 10, 8, 20, 8, 30, 8, 0, 0, 0⟩),
    (0x0000101E1014100AC089FFF0, Instr.vmax ⟨9, 4095, false, 0, false, 10, 8, 20, 8, 30, 8, 0, 0, 0⟩),
    (0x000000001014100AC0910010, Instr.vabs ⟨1, 1, false, 0, false, 10, 8, 20, 8, 0, 0, 0, 0, 0⟩),
    (0x000000001014100AC0A10010, Instr.vneg ⟨1, 1, false, 0, false, 10, 8, 20, 8, 0, 0, 0, 0, 0⟩),
    (0x0000101E1014100AC0B80016, Instr.vdiv ⟨8, 1, false, 3, false, 10, 8, 20, 8, 30, 8, 0, 0, 0⟩),
    (0x000000001014100AC0C80010, Instr.vsqrt ⟨8, 1, false, 0, false, 10, 8, 20, 8, 0, 0, 0, 0, 0⟩),
    (0x000000001014100AC0D80010, Instr.vrcp ⟨8, 1, false, 0, false, 10, 8, 20, 8, 0, 0, 0, 0, 0⟩),
    (0x000000001014100AC0E80010, Instr.vrsq ⟨8, 1, false, 0, false, 10, 8, 20, 8, 0, 0, 0, 0, 0⟩),
    (0x000000001014100AC0F80010, Instr.vexp2 ⟨8, 1, false, 0, false, 10, 8, 20, 8, 0, 0, 0, 0, 0⟩),
    (0x000000001014100AC1080010, Instr.vlog2 ⟨8, 1, false, 0, false, 10, 8, 20, 8, 0, 0, 0, 0, 0⟩),
    (0x000000001014100AC1180010, Instr.vtanh ⟨8, 1, false, 0, false, 10, 8, 20, 8, 0, 0, 0, 0, 0⟩),
    (0x0000101E1014100AC20A0010, Instr.viadd ⟨10, 1, false, 0, false, 10, 8, 20, 8, 30, 8, 0, 0, 0⟩),
    (0x0000101E1014100AC21A0010, Instr.visub ⟨10, 1, false, 0, false, 10, 8, 20, 8, 30, 8, 0, 0, 0⟩),
    (0x0000101E1014100AC22A0010, Instr.vimul ⟨10, 1, false, 0, false, 10, 8, 20, 8, 30, 8, 0, 0, 0⟩),
    (0x0000101E1014100AC23A0010, Instr.vimad ⟨10, 1, false, 0, false, 10, 8, 20, 8, 30, 8, 0, 0, 0⟩),
    (0x0000101E1014100AC24C0010, Instr.vand ⟨12, 1, false, 0, false, 10, 8, 20, 8, 30, 8, 0, 0, 0⟩),
    (0x0000101E1014100AC25C0010, Instr.vor ⟨12, 1, false, 0, false, 10, 8, 20, 8, 30, 8, 0, 0, 0⟩),
    (0x0000101E1014100AC26C0010, Instr.vxor ⟨12, 1, false, 0, false, 10, 8, 20, 8, 30, 8, 0, 0, 0⟩)],
     decodeTableWord 96 e.1 = some e.2 := by decide +kernel

/-- 13 R359 and R360; 16. -/
theorem test_decode_vector_words_2 : ∀ e ∈ [
    (0x000000001014100AC27A0010, Instr.vnot ⟨10, 1, false, 0, false, 10, 8, 20, 8, 0, 0, 0, 0, 0⟩),
    (0x8180000010071007C28A0010, Instr.vshl ⟨10, 1, false, 0, false, 7, 8, 7, 8, 0, 0, 0, 0, 259⟩),
    (0x8180000010071007C29A0010, Instr.vshr ⟨10, 1, false, 0, false, 7, 8, 7, 8, 0, 0, 0, 0, 259⟩),
    (0x8180000010071007C2AA0010, Instr.vsra ⟨10, 1, false, 0, false, 7, 8, 7, 8, 0, 0, 0, 0, 259⟩),
    (0x0200101E10140003C4080010, Instr.vcmp ⟨8, 1, false, 0, false, 3, 0, 20, 8, 30, 8, 0, 0, 4⟩),
    (0x0006101E1014100AC4180010, Instr.vsel ⟨8, 1, false, 0, false, 10, 8, 20, 8, 30, 8, 6, 0, 0⟩),
    (0x0000000300020001C4200010, Instr.kand ⟨0, 1, false, 0, false, 1, 0, 2, 0, 3, 0, 0, 0, 0⟩),
    (0x0000000300020001C4300010, Instr.kor ⟨0, 1, false, 0, false, 1, 0, 2, 0, 3, 0, 0, 0, 0⟩),
    (0x0000000300020001C4400010, Instr.kxor ⟨0, 1, false, 0, false, 1, 0, 2, 0, 3, 0, 0, 0, 0⟩),
    (0x0000000000020001C4500010, Instr.knot ⟨0, 1, false, 0, false, 1, 0, 2, 0, 0, 0, 0, 0, 0⟩),
    (0x0000000000040000C4600010, Instr.kpop ⟨0, 1, false, 0, false, 0, 0, 4, 0, 0, 0, 0, 0, 0⟩),
    (0x000800001014100AC5080010, Instr.vcvt ⟨8, 1, false, 0, false, 10, 8, 20, 8, 0, 0, 0, 1, 0⟩),
    (0x0040103C10081028C5160080, Instr.vqcb ⟨6, 8, false, 0, false, 40, 8, 8, 8, 60, 8, 0, 8, 0⟩),
    (0x0030103C10081028C5280080, Instr.vdq ⟨8, 8, false, 0, false, 40, 8, 8, 8, 60, 8, 0, 6, 0⟩),
    (0x0040103C10081028C5350080, Instr.vpack ⟨5, 8, false, 0, false, 40, 8, 8, 8, 60, 8, 0, 8, 0⟩),
    (0x0028000010081028C54B0080, Instr.vunpack ⟨11, 8, false, 0, false, 40, 8, 8, 8, 0, 0, 0, 5, 0⟩),
    (0x000000001014100AC6080010, Instr.vrsum ⟨8, 1, false, 0, false, 10, 8, 20, 8, 0, 0, 0, 0, 0⟩),
    (0x000000001014100AC6180010, Instr.vrmax ⟨8, 1, false, 0, false, 10, 8, 20, 8, 0, 0, 0, 0, 0⟩),
    (0x000000001014100AC6280010, Instr.vrmin ⟨8, 1, false, 0, false, 10, 8, 20, 8, 0, 0, 0, 0, 0⟩),
    (0x000000001014100AC6380010, Instr.vargmax ⟨8, 1, false, 0, false, 10, 8, 20, 8, 0, 0, 0, 0, 0⟩),
    (0x000000001014100AC6480010, Instr.vscan ⟨8, 1, false, 0, false, 10, 8, 20, 8, 0, 0, 0, 0, 0⟩),
    (0x0000101E1014100AC7080010, Instr.vperm ⟨8, 1, false, 0, false, 10, 8, 20, 8, 30, 8, 0, 0, 0⟩),
    (0x018000001014100AC7180010, Instr.vshuf ⟨8, 1, false, 0, false, 10, 8, 20, 8, 0, 0, 0, 0, 3⟩),
    (0x018000001014100AC7280010, Instr.vbcast ⟨8, 1, false, 0, false, 10, 8, 20, 8, 0, 0, 0, 0, 3⟩)],
     decodeTableWord 96 e.1 = some e.2 := by decide +kernel

/-- 13 R359 and R360; 16. -/
theorem test_decode_vector_words_3 : ∀ e ∈ [
    (0x000000000000100AC73A0010, Instr.viota ⟨10, 1, false, 0, false, 10, 8, 0, 0, 0, 0, 0, 0, 0⟩),
    (0x000000001014100AC74C0010, Instr.vmov ⟨12, 1, false, 0, false, 10, 8, 20, 8, 0, 0, 0, 0, 0⟩),
    (0x000000001014100AC7580080, Instr.vtrans ⟨8, 8, false, 0, false, 10, 8, 20, 8, 0, 0, 0, 0, 0⟩),
    (0x0000000000140000C8000010, Instr.vsq ⟨0, 1, false, 0, false, 0, 0, 20, 0, 0, 0, 0, 0, 0⟩),
    (0x0000000000000000C8100010, Instr.vsetvlc ⟨0, 1, false, 0, false, 0, 0, 0, 0, 0, 0, 0, 0, 0⟩),
    (0x0000000010140000C8290040, Instr.vaccept ⟨9, 4, false, 0, false, 0, 0, 20, 8, 0, 0, 0, 0, 0⟩)],
     decodeTableWord 96 e.1 = some e.2 := by decide +kernel

/-- 13 R361 and R362; 17. -/
theorem test_decode_matrix_words : ∀ e ∈ [
    (0x00003FFD555400080100460004FFFF7F07FF7FBFD01F9000, Instr.mstep ⟨true, true, true, true, 9, 191, 383, 1023, 63, true, 65535, 4, 6, true, 256, 8, 349524, 2047⟩),
    (0x00003FFD555400080100460004FFFF7F07FF7FBFD02D9000, Instr.mnest ⟨true, true, false, true, 9, 191, 383, 1023, 63, true, 65535, 4, 6, true, 256, 8, 349524, 2047⟩),
    (0x0000040000000000000000000000000000007F3FD0363000, Instr.mzero ⟨false, true, true, false, 3, 63, 127, 0, 0, false, 0, 0, 0, false, 0, 0, 0, 128⟩),
    (0x00000400000C0000000000000900070500007F3FD0463000, Instr.mdrain ⟨false, true, true, false, 3, 63, 127, 0, 5, false, 7, 9, 0, false, 0, 0, 12, 128⟩),
    (0x0000040000000000000300000000000000007F3FD0563000, Instr.mscale ⟨false, true, true, false, 3, 63, 127, 0, 0, false, 0, 0, 0, false, 3, 0, 0, 128⟩),
    (0x0000000000000000000000000000020000000000D0600000, Instr.mrowmask ⟨false, false, false, false, 0, 0, 0, 0, 0, false, 2, 0, 0, false, 0, 0, 0, 0⟩),
    (0x0000000000000000000000000000000000000000D0743000, Instr.mtest ⟨false, true, false, false, 3, 0, 0, 0, 0, false, 0, 0, 0, false, 0, 0, 0, 0⟩),
    (0x0000000000000000000000000000000000000000D0800000, Instr.mfence ⟨false, false, false, false, 0, 0, 0, 0, 0, false, 0, 0, 0, false, 0, 0, 0, 0⟩),
    (0x0000000000000000000000000000000000000000D0905000, Instr.msig ⟨false, false, false, false, 5, 0, 0, 0, 0, false, 0, 0, 0, false, 0, 0, 0, 0⟩),
    (0x0000000000000000000000000000000000000000D0A03000, Instr.mwait ⟨false, false, false, false, 3, 0, 0, 0, 0, false, 0, 0, 0, false, 0, 0, 0, 0⟩),
    (0x0000000000000000000000000900070500000000D0B00000, Instr.mpin ⟨false, false, false, false, 0, 0, 0, 0, 5, false, 7, 9, 0, false, 0, 0, 0, 0⟩),
    (0x0000000000000000000000000900070500000000D0B80000, Instr.mpinUnpin ⟨true, false, false, false, 0, 0, 0, 0, 5, false, 7, 9, 0, false, 0, 0, 0, 0⟩),
    (0x0000000000000000000000000000000000000000D0C00000, Instr.mstat ⟨false, false, false, false, 0, 0, 0, 0, 0, false, 0, 0, 0, false, 0, 0, 0, 0⟩)],
     decodeTableWord 192 e.1 = some e.2 := by decide +kernel

/-- 13 R363 and R364; 18. -/
theorem test_decode_sum_product_words : ∀ e ∈ [
    (0x00000000000000000000007FF1008007C0040501E010C000, Instr.psub ⟨0, 24576, 1, 1029, 7680, 1, 513, 2047, 0, 0, 0, 0, 0⟩),
    (0x00000000000000000000007FF1008007C0040501E020C000, Instr.psubd ⟨0, 24576, 1, 1029, 7680, 1, 513, 2047, 0, 0, 0, 0, 0⟩),
    (0x00000000000000000000007FF1008007C0040501E030C000, Instr.pmaxp ⟨0, 24576, 1, 1029, 7680, 1, 513, 2047, 0, 0, 0, 0, 0⟩),
    (0x0000000000000000001C120020008003C0E40100E0410006, Instr.psum ⟨1, 3, 0, 1025, 7687, 0, 1, 2, 3593, 0, 0, 0, 0⟩),
    (0x0000000000000000000000000000000000064000E0510000, Instr.pload ⟨1, 0, 0, 1600, 0, 0, 0, 0, 0, 0, 0, 0, 0⟩),
    (0x0000000000000000000000000000000000064000E0600000, Instr.pstore ⟨0, 0, 0, 1600, 0, 0, 0, 0, 0, 0, 0, 0, 0⟩),
    (0x0000000000000000000000002000800000040100E0700004, Instr.pnorm ⟨0, 2, 0, 1025, 0, 0, 1, 2, 0, 0, 0, 0, 0⟩),
    (0x0000000000000000000000002000800000040100E0880004, Instr.pcvt ⟨8, 2, 0, 1025, 0, 0, 1, 2, 0, 0, 0, 0, 0⟩),
    (0x0000000000000000000000000000000000000000E09E0000, Instr.pmode ⟨14, 0, 0, 0, 0, 0, 0, 0, 0, 0, 0, 0, 0⟩),
    (0x0000000000000000000000000000000000000000E0A05000, Instr.psig ⟨0, 10240, 0, 0, 0, 0, 0, 0, 0, 0, 0, 0, 0⟩),
    (0x0000000000000000000000000000000000000000E0B05000, Instr.pwait ⟨0, 10240, 0, 0, 0, 0, 0, 0, 0, 0, 0, 0, 0⟩),
    (0x0000000000000000000000000000000000000000E0C00000, Instr.pfence ⟨0, 0, 0, 0, 0, 0, 0, 0, 0, 0, 0, 0, 0⟩)],
     decodeTableWord 192 e.1 = some e.2 := by decide +kernel

/-! ### Words that WellFormed refuses -/

/-- A word with two sources that the V-stream accepts: FP32, one segment (16 R446). -/
def testV : VFields := ⟨8, 1, false, 0, false, 10, 8, 20, 8, 30, 8, 0, 0, 0⟩
/-- A tile of 64 by 128 elements (13 R361). -/
def testM : MFields := ⟨false, false, false, false, 0, 63, 127, 0, 0, false, 0, 0, 0, false, 0, 0, 0, 128⟩
/-- No field set. -/
def zeroM : MFields := ⟨false, false, false, false, 0, 0, 0, 0, 0, false, 0, 0, 0, false, 0, 0, 0, 0⟩
/-- No field set. -/
def zeroP : PFields := ⟨0, 0, 0, 0, 0, 0, 0, 0, 0, 0, 0, 0, 0⟩

/-- 13 R353 and R365; 14 R383, R387, R388, R394, R400; 04 R116, R124; 12 R340: reserved codes and numbers. -/
theorem test_refused_s_words : ∀ i ∈ [
    Instr.cmp 1 6 2 3, .cmp 1 7 2 3, .cmpi 1 6 2 0, .cmpi 1 7 2 0, .ldarg 1 6, .ldarg 1 4095, .qpush 1 0,
    .qpush 1 2, .qpush 1 4, .qpush 1 31, .qpop 1 1, .qpop 1 3, .qpop 1 9, .qstat 1 9, .qstat 1 31, .csrr 1 4,
    .csrr 1 0x17, .csrr 1 0xFFF, .csrw 1 2 0x3E, .csrs 1 2 0x36, .csrc 1 2 0x22, .nestw 1 2 6, .budget 1 7,
    .joule 1 4, .specon 1 2 0, .invr 1 2 false 0], i.wellFormed = false := by decide

/-- 15 R410 to R421; 08 R227: queues, sizes, windows, scopes and operations that a word does not accept. -/
theorem test_refused_a_words : ∀ i ∈ [
    Instr.amovq 1 0 3, .amovq 1 0 1, .amovq 1 0 2, .aregRead 1 3 0, .aregWrite 1 3 0, .lq 8 1 0 0, .lq 13 1 0 0,
    .lq 15 1 0 0, .lq 16 1 0 0, .lq 0 1 5 0, .lq 12 1 4 0, .lqs 8 1 2 false 0, .lqs 0 1 2 true 4,
    .lqs 12 1 2 true 3, .lqs 12 1 2 false 4, .lqs 0 1 2 false 5, .lqg 12 1 2 0, .lqg 8 1 2 0, .lqg 0 1 2 4,
    .sq 0 1 0 0, .sq 12 1 0 0, .sq 14 1 0 0, .sq 13 1 4 0, .sq 8 1 7 0, .sqs 0 1 2 false false 0,
    .sqs 8 1 2 true false 4, .sqs 13 1 2 true false 3, .sqs 13 1 2 false false 4, .lx 1 2 4 0, .lx 1 2 5 0,
    .sx 1 2 4 0, .pref 2 1 0 0, .pref 0 1 5 0, .append 7 0 0, .append 12 0 0, .append 8 4 0, .append 13 0 4,
    .append 8 0 5, .acq 5, .rel 5, .fence 7, .amo 1 2 3 false false 10, .amo 1 2 3 false true 9,
    .red 2 3 false false 4, .red 2 3 false false 15, .red 2 3 false true 9], i.wellFormed = false := by decide

/-- 16 R446 and R447; 06 R180; 16 R442: formats, operands, the mask field and fields that the word does not use. -/
theorem test_refused_v_float : ∀ i ∈ [
    Instr.vadd { testV with fmt := 2 }, .vadd { testV with fmt := 14 }, .vadd { testV with va := 328 },
    .vadd { testV with vb := 333 }, .vadd { testV with va := 320 }, .vadd { testV with vd := 320 },
    .vadd { testV with vd := 328 }, .vadd { testV with k := 1 }, .vadd { testV with fmt2 := 1 },
    .vadd { testV with imm := 1 }, .vadd { testV with fmt := 13, va := 320, sa := 0 },
    .vmul { testV with fmt := 13 }, .vfma { testV with fmt := 9 }, .vfma { testV with vd := 328, sd := 0 },
    .vfma { testV with imm := 1 }, .vmin { testV with rnd := 1 }, .vmin { testV with sat := true },
    .vmin { testV with fmt := 2 }, .vabs { testV with vb := 1 }, .vneg { testV with vb := 0, sb := 0, fmt := 9 },
    .vsqrt { testV with vb := 1 }, .vsqrt { testV with vb := 0, sb := 8 },
    .vtanh { testV with vb := 0, sb := 0, fmt := 13 }], i.wellFormed = false := by decide

/-- 16 R448 to R450: formats, rounding, SAT, shift counts and conditions. -/
theorem test_refused_v_integer : ∀ i ∈ [
    Instr.viadd { testV with fmt := 8 }, .viadd { testV with fmt := 9, rnd := 1 },
    .vimad { testV with fmt := 9, vd := 328, sd := 0 }, .vand { testV with fmt := 9, sat := true },
    .vnot { testV with fmt := 9 }, .vshl { testV with fmt := 9, imm := 1 },
    .vshl { testV with fmt := 9, imm := 0x101 }, .vshl { testV with fmt := 9, vb := 0, sb := 0, imm := 0x121 },
    .vshl { testV with fmt := 9, sat := true }, .vcmp { testV with vd := 8, sd := 0 },
    .vcmp { testV with vd := 3 }, .vcmp { testV with vd := 3, sd := 0, imm := 7 },
    .vcmp { testV with fmt := 9, vd := 3, sd := 0, imm := 6 }], i.wellFormed = false := by decide

/-- 16 R451 to R465; 12 R346: mask words, conversions, block-scaled moves, reductions, permutes and transfers. -/
theorem test_refused_v_masks_and_moves : ∀ i ∈ [
    Instr.vsel { testV with masked := true }, .vsel { testV with fmt := 5 },
    .kand ⟨0, 1, false, 0, false, 8, 0, 2, 0, 3, 0, 0, 0, 0⟩,
    .kand ⟨0, 2, false, 0, false, 1, 0, 2, 0, 3, 0, 0, 0, 0⟩,
    .kor ⟨1, 1, false, 0, false, 1, 0, 2, 0, 3, 0, 0, 0, 0⟩,
    .knot ⟨0, 1, false, 0, false, 1, 0, 2, 0, 3, 0, 0, 0, 0⟩,
    .kpop ⟨0, 1, false, 0, false, 1, 0, 2, 0, 0, 0, 0, 0, 0⟩, .vcvt { testV with vb := 0, sb := 0, fmt2 := 8 },
    .vcvt { testV with vb := 0, sb := 0, fmt2 := 13, fmt := 9 },
    .vcvt { testV with vb := 0, sb := 0, fmt := 14, fmt2 := 8, rnd := 1 },
    .vqcb { testV with fmt := 5, fmt2 := 8 }, .vqcb { testV with fmt := 6, fmt2 := 8, vb := 320, sb := 0 },
    .vqcb { testV with fmt := 6, fmt2 := 8, rnd := 1 }, .vdq { testV with fmt2 := 8 },
    .vdq { testV with fmt2 := 5, masked := true }, .vpack { testV with fmt := 6, fmt2 := 8 },
    .vpack { testV with fmt := 5, fmt2 := 11 }, .vunpack { testV with fmt := 11, fmt2 := 7, vb := 0, sb := 0 },
    .vrsum { testV with vb := 0, sb := 0, fmt := 2 }, .vrmax { testV with vb := 0, sb := 0, rnd := 1 },
    .vargmax { testV with vb := 0, sb := 0, sat := true }, .vscan { testV with vb := 3 },
    .vperm { testV with vb := 332, sb := 0 }, .vshuf { testV with imm := 6 }, .vshuf { testV with imm := 8 },
    .vshuf { testV with imm := 4 }, .vbcast { testV with vb := 0, sb := 0, imm := 64 },
    .vbcast { testV with va := 332, sa := 0, vb := 0, sb := 0 }, .viota { testV with fmt := 9 },
    .vmov { testV with fmt := 15, vb := 0, sb := 0 }, .vtrans { testV with vb := 0, sb := 0, masked := true },
    .vsq { testV with vb := 0, sb := 0 }, .vsetvlc { testV with fmt := 0 },
    .vaccept { testV with vb := 0, sb := 0, vd := 0, sd := 0 }], i.wellFormed = false := by decide

/-- 13 R361; 17 R474 to R486: limits, the Token field and fields that the word does not use. -/
theorem test_refused_m_words : ∀ i ∈ [
    Instr.mstep { testM with mt := 192 }, .mstep { testM with nt := 384 }, .mstep { testM with cIdx := 349525 },
    .mstep { testM with tok := 1 }, .mnest { testM with mt := 255 }, .mzero { testM with unpin := true },
    .mzero { testM with acc := true }, .mzero { testM with kt := 1 }, .mzero { testM with aOff := 1 },
    .mzero { testM with bLd := 1 }, .mscale { testM with aOff := 320 }, .mscale { testM with bOff := 320 },
    .mscale { testM with bLay := true }, .mdrain { testM with bOff := 1 },
    .mdrain { testM with bLay := true, aOff := 1 }, .mdrain { testM with bLay := true, bSlice := 1 },
    .mrowmask testM, .mrowmask { zeroM with rmask := true }, .mrowmask { zeroM with aOff := 320 },
    .mtest { zeroM with tok := 1 }, .msig { zeroM with sig := true },
    .mwait { zeroM with acc := true }, .mpin { zeroM with aLd := 0 },
    .mpin { zeroM with unpin := true, aLd := 1 }, .mpinUnpin { zeroM with unpin := false },
    .mstat { zeroM with bOff := 1 }], i.wellFormed = false := by decide

/-- 13 R363; 18 R490 to R501: a walk that does not end, bits after it, and fields that the word does not use. -/
theorem test_refused_p_words : ∀ i ∈ [
    Instr.psub { zeroP with shape := 0x7FFF }, .psub { zeroP with shape := 0x4001 },
    .psub { zeroP with shape := 0x4000, ops := 2 }, .psub { zeroP with shape := 0x4000, l2 := 1 },
    .psub { zeroP with mode := 1 }, .psub { zeroP with wb := 1 },
    .psub { zeroP with shape := 0x4000, ops := 1, wb := 1 }, .psum { zeroP with shape := 8 },
    .psum { zeroP with mode := 2 }, .psum { zeroP with ops := 1 }, .psum { zeroP with l1 := 1 },
    .psum { zeroP with wb := 1 }, .pnorm { zeroP with mode := 1 }, .pnorm { zeroP with wb := 1 },
    .pcvt { zeroP with mode := 1 }, .pload { zeroP with mode := 2 }, .pload { zeroP with shape := 1 },
    .pload { zeroP with l0 := 1 }, .pmode { zeroP with mode := 1 }, .pmode { zeroP with dst := 1 },
    .psig { zeroP with shape := 1 }, .psig { zeroP with dst := 1 }, .pfence { zeroP with shape := 2048 }], i.wellFormed = false := by decide

open Sys2Proof.Machine

-- Every test waits for the kernel, which keeps a thread each where they are elaborated side by side.
set_option Elab.async false

/-! ### The hypotheses of the statements are met -/

/-- A task of ASID 5 past its entry word, with every stream enabled. -/
def probeCtx : Ctx :=
  { Ctx.launch with
    task := ⟨1, 0⟩, asid := 5, atEntry := false
    streams := Vector.replicate 5 ⟨0x1000, true, false, 0, [], 0, false⟩ }

/-- The state after reset with such a task, changed by f, on tile core 0; its stream st has the turn. -/
def probe (st : Stream) (f : Ctx → Ctx) : State :=
  { modCore State.reset 0 fun k => { k with busy := true, ctx := f probeCtx } with cur := 0, curStream := st }

/-- No core waits at a ring of such a state. -/
theorem probe_rings (st : Stream) (f : Ctx → Ctx) (d : CoreId) :
    (getCore (probe st f) d).rings = Vector.replicate 32 ⟨0, 0, []⟩ := by
  have reset : (getCore State.reset d).rings = Vector.replicate 32 ⟨0, 0, []⟩ := by decide +revert +kernel
  by_cases h : d = 0
  · subst h; exact reset
  · exact Eq.trans (congrArg Core.rings (getCore_modCore_of_ne State.reset 0 d
      (fun k => { k with busy := true, ctx := f probeCtx }) h)) reset

/-- A task with nothing on its way, and whose core waits nowhere, is quiet. -/
theorem quiet_of {s : State} {c : CoreId} (waits : withdrawWaits s c = s) (rest : let k := getCore s c; let q :=
    k.ctx.aq
    q.loads = [] ∧ q.stores = [] ∧ q.inflight = [] ∧ q.waita = .none ∧ q.scWait = .none ∧ k.ctx.vpend = [] ∧
      k.ctx.ppend = [] ∧ k.ctx.m.cmd = none ∧ k.ctx.m.mtest = none ∧ k.ctx.spec.closings = [] ∧
      samplesOf s k.ctx.task = []) : Quiet s c := by
  obtain ⟨a, b, c, d, e, f, g, h, i, j, k⟩ := rest
  constructor <;> assumption

/-- The same task in system mode on the primary dispatch core. -/
def probeHub (f : Ctx → Ctx) : State :=
  { modCore State.reset 64 fun k => { k with busy := true, ctx := f { probeCtx with system := true } } with
    cur := 64, curStream := .s }

/-- A round of one carried token. -/
def probeRound : Round := ⟨0, 1, 0x400000, 0, []⟩
/-- The task with streams S and A in that round. -/
def inRound (c : Ctx) : Ctx :=
  { c with spec := { c.spec with rounds := #v[some probeRound, some probeRound, none, none, none] } }

/-- A task of kernel 1 that a dump saved, with no slot. -/
def savedTask (ref : TaskRef) (c : Ctx) : SavedTask :=
  { ref := ref, ctx := c, rings := Vector.replicate 32 ⟨0, 0, []⟩, mode := .dump, base := none, switchAt := none
    emCore := none, emPieces := [], jobs := [], hold := 0, island := 0 }

/-- Job 0 of the task on core 0, with this card. -/
def jobWith (card : BitVec 512) (phase : JobPhase) : Job :=
  { num := 0, task := ⟨1, 0⟩, core := 0, asid := 5, context := 0, card := card, cardVa := 0, bar := none, fence := 0
    phase := phase, engine := 0, row := 0, col := 0, moved := 0, status := 0, replay := none, io := EngIo.none
    matched := false, buf := [], ending := false, kept := false }

/-- A request of one draw, with an engine. -/
def testSample : Sample :=
  { num := 0, task := ⟨1, 0⟩, core := 0, asid := 5, desc := 0, cardVa := 0, specN := none, fence := 0, engine := some 1
    drawn := 0, bad := false, cancelled := false, decided := none, replay := none, io := EngIo.none, kept := false }

/-- IntegerWordsComputeTheTable: a running task, and both corners of division. -/
theorem test_meets_IntegerWords :
    let s := probe .s fun c => xSet (xSet c 1 0x8000000000000000) 2 0xFFFFFFFFFFFFFFFF
    runs s = true ∧ xGet (curCtx s) 0 = 0 ∧ xGet (curCtx s) 1 = 0x8000000000000000 ∧
      xGet (curCtx s) 2 = 0xFFFFFFFFFFFFFFFF := by decide +kernel

/-- The tables of the integer words name every form once. -/
theorem test_meets_IntegerTables : (registerTable 3 1 2).map Prod.fst = [.add 3 1 2, .sub 3 1 2, .and 3 1 2,
    .or 3 1 2, .xor 3 1 2,
      .sll 3 1 2, .srl 3 1 2, .sra 3 1 2, .min 3 1 2, .max 3 1 2, .minn 3 1 2, .maxn 3 1 2, .clz 3 1, .ctz 3 1,
          .popc 3 1,
      .mul 3 1 2, .mulh 3 1 2, .mulhn 3 1 2, .div 3 1 2, .divn 3 1 2, .rem 3 1 2, .remn 3 1 2] ∧
    (immediateTable 3 1 2 4 5 6 7).map Prod.fst = [.addi 3 1 5, .andi 3 1 5, .ori 3 1 5, .xori 3 1 5, .slli 3 1 6,
      .srli 3 1 6, .srai 3 1 6, .liw 3 7, .lis 3 7, .sel 3 1 2 4] := by decide

/-- PredicateWordsSetTheirPredicate: the last condition that is a word, GEN. -/
theorem test_meets_PredicateWords : runs (probe .s id) = true ∧ (5 : BitVec 3).toNat ≤ 5 := by decide +kernel

/-- ScalarLocalMemoryWords: the first and the last doubleword, the addresses past either end, and one that is misaligned.
-/
theorem test_meets_ScalarLocalMemory :
    let s := probe .s fun c => xSet c 1 16376
    runs s = true ∧ Memory.wf (curCtx s).slm = true ∧ slmAddress s 0 0 = (0 : Nat) ∧
        slmAddress s 1 0 = (16376 : Nat) ∧
      slmAddress s 0 (-1) < 0 ∧ slmAddress s 1 1 + 8 > 16384 ∧
      (0 ≤ slmAddress s 1 (-1) ∧ slmAddress s 1 (-1) + 8 ≤ 16384 ∧ slmAddress s 1 (-1) % 8 ≠ 0) ∧
      (5 : BitVec 12).toNat < 6 ∧ 6 ≤ (6 : BitVec 12).toNat := by decide +kernel

/-- QueueWordsKeepOrder: every queue with room and with an entry. -/
theorem test_meets_QueueWords :
    let s := probe .s fun c => { c with q := { c.q with
      qas := [⟨0, some 7, false⟩], qsa := List.replicate 31 ⟨3, false⟩, qvs := [⟨9, false⟩], qb :=
          List.replicate 15 ⟨1, false⟩ } }
    runs s = true ∧ (getStream (curCtx s) .a).enabled = true ∧ (getStream (curCtx s) .v).enabled = true ∧
      (curCtx s).q.qsa.length < 32 ∧ (curCtx s).q.qb.length < 16 ∧ (curCtx s).q.qas = [⟨0, some 7, false⟩] ∧
      (curCtx s).q.qvs = [⟨9, false⟩] ∧ (curCtx s).csr.inHandler = false := by decide +kernel

/-- QueueWordsKeepOrder: full queues, a load that has not returned and an empty queue, in a handler and outside; and
streams that are not enabled. -/
theorem test_meets_QueueWaits :
    let s (h : Bool) := probe .s fun c => { c with csr := { c.csr with inHandler := h }, q := { c.q with
      qas := [⟨0, none, false⟩], qsa := List.replicate 32 ⟨3, false⟩, qb := List.replicate 16 ⟨1, false⟩ } }
    let u := probe .s fun c => { c with streams := Vector.replicate 5 StreamState.off }
    (∀ h, runs (s h) = true ∧ (curCtx (s h)).csr.inHandler = h ∧ (getStream (curCtx (s h)) .a).enabled = true ∧
      (getStream (curCtx (s h)) .v).enabled = true ∧ 32 ≤ (curCtx (s h)).q.qsa.length ∧
      16 ≤ (curCtx (s h)).q.qb.length ∧ (curCtx (s h)).q.qas.head? = some ⟨0, none, false⟩ ∧
      (curCtx (s h)).q.qvs = []) ∧
    runs u = true ∧ (getStream (curCtx u) .a).enabled = false ∧ (getStream (curCtx u) .v).enabled = false :=
  ⟨fun h => by cases h <;> decide +kernel, by decide +kernel⟩

/-- QueueWordsKeepOrder: QSTAT of queue 8, the last, and of number 9. -/
theorem test_meets_Qstat : (entriesOf (curCtx (probe .s id)))[(8 : BitVec 5).toNat]? = some 0 ∧
    8 < (9 : BitVec 5).toNat := by
  decide +kernel

/-- TokensAndEventsAreTaken: tokens at 0, 254 and 255, in a handler and outside; a record in the event queue, and none.
-/
theorem test_meets_TokensAndEvents :
    let s := probe .s fun c => { c with
      tokens := (c.tokens.set 1 254).set 2 255, q := { c.q with events := [⟨5, false⟩] } }
    let u := probe .s fun c => { c with tokens := c.tokens.set 2 255, csr := { c.csr with inHandler := true } }
    (runs s = true ∧ (curCtx s).csr.inHandler = false ∧ ((curCtx s).tokens.get 0).toNat = 0 ∧
      ((curCtx s).tokens.get 1).toNat < 255 ∧ 0 < ((curCtx s).tokens.get 1).toNat ∧
      ((curCtx s).tokens.get 2).toNat = 255 ∧ (curCtx s).q.events = [⟨5, false⟩]) ∧
    runs u = true ∧ (curCtx u).csr.inHandler = true ∧ ((curCtx u).tokens.get 0).toNat = 0 ∧
      ((curCtx u).tokens.get 2).toNat = 255 ∧ (curCtx u).q.events = [] := by decide +kernel

/-- CsrrReadsTheFieldMap: registers of both ends of the map, a stream behind the word, and BBASE in a handler. -/
theorem test_meets_Csrr :
    let s := probe .s id
    let u := probe .s fun c => modStream { c with csr := { c.csr with inHandler := true } } .a fun x =>
        { x with pc := 0x800 }
    runs s = true ∧ csrValue s 0x000 = some 0 ∧ csrValue s 0x003 = some 0x3F00 ∧ csrValue s 0x03D = some 0 ∧
      othersDone (probe .s fun c => modStream c .a fun x => { x with pc := 0x800 }) = false ∧
      (curCtx s).csr.inHandler = false ∧ csrValue u 0x03C = some 0 := by decide +kernel

/-- CsrWordsWriteOrFault: a register of the mask table with no stream behind the word, and a write in task mode. -/
theorem test_meets_CsrWrites :
    let s := probe .s fun c =>
        { c with streams := Vector.replicate 5 { StreamState.off with enabled := true, pc := 0x2000 } }
    runs s = true ∧ othersDone s = true ∧ (0x003, 0x3F00) ∈ csrMasks ∧ csrValue s 0x003 = some 0x3F00 ∧
      (0x03B, 0x1FFFFFFFF) ∈ csrMasks ∧ csrValue s 0x03B = some 0 ∧ (curCtx s).system = false ∧
      (0x03D : BitVec 12).toNat ∈ [0x001, 0x020, 0x030, 0x031, 0x032, 0x033, 0x034, 0x035, 0x03C, 0x03D] :=
          by decide +kernel

/-- CsrWordsWriteOrFault: the registers whose values are shaped, TSTAT, and in system mode a read-only register, FWSHARE
and BBASE; each of the write forms. -/
theorem test_meets_ShapedCsrs :
    let s := probe .s fun c => { c with
      system := true, streams := Vector.replicate 5 ⟨0x2000, true, false, 0, [], 0, false⟩ }
    runs s = true ∧ othersDone s = true ∧ (curCtx s).system = true ∧
      (∀ n, n ∈ (0x002 : BitVec 12) :: 0x001 :: 0x020 :: shapedCsrs → (csrValue s n.toNat).isSome = true) ∧
      ∀ v, WritesValue s (.csrw 3 0 0x002) 3 0 0x002 v 0 0 ∧ WritesValue s (.csrs 3 0 0x010) 3 0 0x010 v v 0 ∧
        WritesValue s (.csrc 3 0 0x020) 3 0 0x020 v v 0 := by
  refine ⟨by decide +kernel, by decide +kernel, by decide +kernel, by decide +kernel, fun v => ?_⟩
  have zero : ∀ u : State, xGet (curCtx u) 0 = 0 := fun _ => rfl
  exact ⟨.inl ⟨rfl, (zero _).symm, (zero _).symm⟩, .inr (.inl ⟨rfl, by simp [zero], (zero _).symm⟩),
    .inr (.inr ⟨rfl, by simp [zero]; exact (BitVec.and_allOnes (x := v)).symm, rfl⟩)⟩

/-- FormatEnergyAndVariantWords: a format queue with 31 entries, with 30, and full; no M-stream; and the selectors. -/
theorem test_meets_FormatAndEnergyWords :
    let n (k : Nat) := probe .s fun c => { c with q := { c.q with fmt := List.replicate k ⟨.format 0, false⟩ } }
    let u := probe .s fun c => { c with streams := Vector.replicate 5 StreamState.off }
    runs (n 31) = true ∧ (getStream (curCtx (n 31)) .m).enabled = true ∧ formatEntries (curCtx (n 31)) = 31 ∧
      formatEntries (curCtx (n 30)) = 30 ∧ formatEntries (curCtx (n 32)) = 32 ∧
      (curCtx (n 32)).csr.inHandler = false ∧ (5 : BitVec 3).toNat ≤ 5 ∧ 6 ≤ (6 : BitVec 3).toNat ∧
      (getStream (curCtx u) .m).enabled = false ∧ (budgetTable u)[(6 : BitVec 12).toNat]? = some 0 ∧
      6 < (7 : BitVec 12).toNat ∧ othersDone u = true ∧
      othersDone (probe .s fun c => modStream c .a fun x => { x with pc := 0x800 }) = false := by decide +kernel

/-- FormatEnergyAndVariantWords: a valid variant, numbers below and above the variants, an invalid one, and a round. -/
theorem test_meets_Varsel :
    let s := probe .s fun c => xSet { c with variants := c.variants.set 3 ⟨0, 0, true, 0, 0⟩ } 1 3
    roundOf (curCtx s) .s = none ∧ (xGet (curCtx s) 1).toInt + (0 : BitVec 12).toInt = (3 : Fin 4).val ∧
      ((curCtx s).variants.get 3).valid = true ∧ ((curCtx s).variants.get 0).valid = false ∧
      (xGet (curCtx s) 0).toInt + (-1 : BitVec 12).toInt < 0 ∧ 3 < (xGet (curCtx s) 1).toInt + (1 : BitVec 12).toInt ∧
      roundOf (curCtx (probe .s inRound)) .s ≠ none := by decide +kernel

/-- A task with a handler installed. -/
def trapCtx : Ctx → Ctx := fun c => { c with csr := { c.csr with tvec := 0x2001 } }

/-- UserTrapStartsTheHandler and TRAP: a quiet task with a handler. -/
theorem test_meets_Handled : Handled (probe .s trapCtx) 0 ∧ Quiet (probe .s trapCtx) 0 ∧
    Memory.wf (getCore (probe .s trapCtx) 0).ctx.slm = true := by
  refine ⟨by constructor <;> decide +kernel, quiet_of (withdrawWaits_none (by decide +kernel) (by decide +kernel)
    (by decide +kernel) rfl rfl fun d x h => ?_) (by decide +kernel), by decide +kernel⟩
  rw [probe_rings] at h
  rw [Vector.eq_of_mem_replicate h]
  exact List.not_mem_nil

/-- A trap by a word of the A-stream that the handler handles. -/
def testHandling : Handling := ⟨wordTrap (probe .s id) .a .access 0 0 4, 0x1004, false, false, []⟩

/-- TrapAndReturnWords: a handler that handles a word's trap, with ACT RETRY and with ACT SKIP. -/
theorem test_meets_Rett : ∀ act : BitVec 2, act = 0 ∨ act = 1 →
    let s := probe .s fun c => { c with
      handling := some testHandling, csr := { c.csr with inHandler := true, act := act } }
    runs s = true ∧ (curCtx s).csr.inHandler = true ∧ (curCtx s).handling = some testHandling ∧
      (curCtx s).m.suspect = none ∧ (curCtx s).warn = none ∧ testHandling.info.source < 5 ∧ (curCtx s).csr.act ≠ 2 ∧
      ((curCtx s).csr.act = 1 → testHandling.info.len ≠ 0 → testHandling.info.status.toNat / 2 ^ 28 ≠ 15) := by
  rintro _ (rfl | rfl) <;> decide +kernel

/-- TrapAndReturnWords: outside a handler, in a round, and a task that has triggered or not. -/
theorem test_meets_Trigger :
    (curCtx (probe .s id)).csr.inHandler = false ∧ roundOf (curCtx (probe .s inRound)) .s ≠ none ∧
      roundOf (curCtx (probe .s id)) .s = none ∧ (curCtx (probe .s id)).triggered = false ∧
      (curCtx (probe .s fun c => { c with triggered := true })).triggered = true ∧
      (let h := curCtx (probe .s fun c =>
          { c with handling := some testHandling, csr := { c.csr with inHandler := true } })
      h.csr.inHandler = true ∧ h.handling = some testHandling ∧ h.triggered = false) := by decide +kernel

/-- f's task, with the parcel p in the instruction cache, translated, as the word after the one at hand. -/
def probeNext (p : Parcel) (f : Ctx → Ctx) : State :=
  modCore (probe .s f) 0 fun k => { k with
    itlb := [⟨true, 5, 0, 21, 0x43, 0x200000, 0⟩], icache := [⟨0x1000 / 64, 5, p.setWidth 512 <<< 32⟩] }

/-- SpeculativeRoundsOpenAndClose: before a CALL on p0, a carry vector at either end of its range and past them; before
another word; and in a round. -/
theorem test_meets_Specon :
    let cv (v : Word) := probeNext 0xF300_0002 fun c => xSet c 1 v
    NextParcel (cv 0x400000) 0xF3000002 ∧ decodeTableWord 32 0xF3000002 = some (.call 0 false 2) ∧
      NextParcel (probeNext 0 id) 0 ∧ (∀ off, decodeTableWord 32 0 ≠ some (.call 0 false off)) ∧
      roundOf (curCtx (cv 0x400000)) .s = none ∧ (xGet (curCtx (cv 0x400000)) 1).toNat = 0x400000 ∧
      0x400000 % 64 = 0 ∧ 0x43FFC0 + 4 * (15 + 1) ≤ 0x440000 ∧ (xGet (curCtx (cv 0x43FFC0)) 1).toNat = 0x43FFC0 ∧
      (xGet (curCtx (cv 0x440000)) 1).toNat = 0x440000 ∧ (xGet (curCtx (cv 0x3FFFC0)) 1).toNat < 0x400000 ∧
      (xGet (curCtx (cv 0x400004)) 1).toNat % 64 ≠ 0 ∧
      roundOf (curCtx (probeNext 0xF3000002 inRound)) .s ≠ none := by
  refine ⟨by unfold NextParcel; decide +kernel, by decide +kernel, by unfold NextParcel; decide +kernel, ?_,
      by decide +kernel⟩
  intro off h
  have e : decodeTableWord 32 0 = none := by decide +kernel
  rw [e] at h
  cases h

/-- SpeculativeRoundsOpenAndClose: before a NOPX in a round without a journal, L at SpecN and past it; and no round. -/
theorem test_meets_RoundsClose :
    let s := probeNext 0xF0000000 fun c => xSet (xSet (inRound c) 1 1) 2 2
    NextParcel s 0xF0000000 ∧ decodeTableWord 32 0xF0000000 = some (.nopx 0) ∧
        roundOf (curCtx s) .s = some probeRound ∧
      (curCtx s).warn = none ∧ (curCtx s).m.suspect = none ∧ probeRound.journal = 0 ∧
      (xGet (curCtx s) 1).toNat % 16 ≤ probeRound.n ∧ probeRound.n < (xGet (curCtx s) 2).toNat % 16 ∧
      roundOf (curCtx (probe .s id)) .s = none :=
  ⟨by unfold NextParcel; decide +kernel, by decide +kernel⟩

/-- SystemWordsNeedTheirMode: task mode; system mode on another agent; and on the primary dispatch core a block that may
be entered, one that is misaligned, one outside memory, a number in the table, and a queue that is not MAPPED. -/
theorem test_meets_SystemWords :
    let s := { probeHub fun c => xSet (xSet (xSet c 1 0x100) 2 0x104) 3 0x10000000000 with
      disp := { State.reset.disp with numbers := [7], hwqs := State.reset.disp.hwqs.set 1 ⟨0, true, false, false, 1⟩ } }
    (runs (probe .s id) = true ∧ (curCtx (probe .s id)).system = false) ∧
    (runs (probe .s fun c => { c with system := true }) = true ∧
        (probe .s fun c => { c with system := true }).cur.val ≠ 64) ∧
    runs s = true ∧ (curCtx s).system = true ∧ s.cur.val = (if s.disp.primary then 65 else 64) ∧
      (xGet (curCtx s) 1).toNat % 256 = 0 ∧ placeOf s 0x100 = .local ∧ placeOf s (0x100 + 383) = .local ∧
      (xGet (curCtx s) 2).toNat % 256 ≠ 0 ∧ placeOf s (xGet (curCtx s) 3).toNat ≠ .local ∧
      (7 : BitVec 32) ∈ s.disp.numbers ∧ (8 : BitVec 32) ∉ s.disp.numbers ∧ (s.disp.hwqs.get 0).mapped = false ∧
      (s.disp.hwqs.get 1).mapped = true ∧ (s.disp.hwqs.get 1).unmapping = false := by decide +kernel

/-- SystemWordsNeedTheirMode, InvalidationAndReclassWords: HALTC of core 63 and of 64; an INVR of a length of 0, of one
up to the end of a region, past it, and of region 0xF0. -/
theorem test_meets_HaltcAndInvr :
    let s := probeHub fun c => xSet (xSet (xSet (xSet (xSet c 1 63) 2 64) 3 (-4096)) 4 0x1000000) 5 0xF00000
    runs s = true ∧ (curCtx s).system = true ∧ (curCtx s).csr.inHandler = false ∧ (xGet (curCtx s) 1).toNat < 64 ∧
      64 ≤ (xGet (curCtx s) 2).toNat ∧ s.invPend.find? (fun v => v.core == s.cur) = none ∧
      (xGet (curCtx s) 0).toNat / 2 ^ 24 * 4096 = 0 ∧ (xGet (curCtx s) 4).toNat / 2 ^ 24 * 4096 = 4096 ∧
      (xGet (curCtx s) 3).toNat / 4096 * 4096 + 4096 = 2 ^ 64 ∧
      (xGet (curCtx s) 3).toNat / 4096 * 4096 + 2 * 4096 > 2 ^ 64 ∧
      0xF0 ≤ (xGet (curCtx s) 5).toNat / 2 ^ 16 % 256 := by decide +kernel

/-- A launch record of one level, of one task, with one variant. -/
def testRecord : BitVec 2048 :=
  1 + (1 : BitVec 2048) <<< 8 + (1 : BitVec 2048) <<< 96 + (1 : BitVec 2048) <<< 128 + (1 : BitVec 2048) <<< 423

/-- SystemWordsNeedTheirMode: a record that is not refused, and one that is, of another version; a kernel that a launch job
handed over. -/
theorem test_meets_Record :
    ¬RecordRefused false testRecord ∧ RecordRefused false (testRecord + 1) ∧
      (let s := { probeHub id with disp := { State.reset.disp with handed := [⟨8, testRecord, Vector.replicate 8 0, 0, 0, .job 1, none, false⟩] } }
      (s.disp.handed.find? fun h => h.kernel == 8).map (·.relocOk) = some false) := by
  refine ⟨fun h => ?_, .inl (by decide +kernel), by decide +kernel⟩
  repeat (rcases h with h | h; · exact absurd h (by decide +kernel))
  exact absurd h (by decide +kernel)

/-- InvalidationAndReclassWords: no access on its way and no line dirty. -/
theorem test_meets_NothingOut : NothingOut (probeHub id) ∧ NothingDirty (probeHub id) :=
  ⟨⟨by decide +kernel, by decide +kernel, by decide +kernel⟩, by unfold NothingDirty; decide +kernel⟩

/-- A table at 0x10000 for ASID 5, whose AST entry stands at 0xA0, with the leaf pte at L0 for address 0. -/
def withTables (s : State) (pte : Word) : State :=
  { s with mem := [(0xA0, 7), (0xA2, 1), (0x10000, 1), (0x10002, 0x10), (0x10003, 1), (0x11000, 1), (0x11002, 0x20),
      (0x11003, 1), (0x12000, 1), (0x12002, 0x30), (0x12003, 1)] ++
    ((List.range 8).map fun i => (0x13000 + i, pte.extractLsb' (8 * i) 8)).filter fun e => e.2 ≠ 0 }

/-- InvalidationAndReclassWords: RECLASS of a SHARED leaf, of one of another class, of one in the host's memory, and of
no leaf; and an invalidation that has completed. -/
theorem test_meets_Reclass :
    (reclassWalk (withTables (probeHub id) 0x2000037) 5 0).map (fun e => (e.1, e.2.2)) = some (0x13000, 12) ∧
      placeOf (probeHub id) (ptePa 0x2000037) = .local ∧ leafClass 0x2000037 = 1 ∧
      (reclassWalk (withTables (probeHub id) 0x200003B) 5 0).isSome = true ∧ leafClass 0x200003B ≠ 1 ∧
      (reclassWalk (withTables (probeHub id) 0x1000000003B) 5 0).isSome = true ∧
      reclassWalk (probeHub id) 5 0 = none ∧
      (let s := { withTables (probeHub id) 0x2000037 with
        invPend := [⟨64, 0, [(0x20000, 12)], some (0x13000, 0x2000037), true⟩] }
      (s.invPend.find? (fun v => v.core == s.cur)).map (·.done) = some true ∧ physNat s 0x13000 8 = 0x2000037) := by
  decide +kernel

/-- EntryAndYieldWords: a task at its entry word. -/
theorem test_meets_EntryWord : runs (probe .s fun c => { c with atEntry := true }) = true ∧
    (curCtx (probe .s fun c => { c with atEntry := true })).atEntry = true := by decide +kernel

/-- A steering entry of a taken word. -/
def testEntry : SteerEntry := ⟨true, 5, 0x3000, .plain⟩

/-- The S-stream may evaluate a shared control word with one entry fewer than WIN held, and in a handler with WIN held.
-/
theorem test_meets_Steers (f : Ctx → Ctx)
    (h : f = (fun c => { c with steer := List.replicate 63 testEntry, lc := c.lc.set 1 1 }) ∨
      f = fun c => { c with steer := List.replicate 64 testEntry, csr := { c.csr with inHandler := true } }) :
    Steers (probe .s f) ∧ (getStream (curCtx (probe .s f)) .s).ended = false := by
  rcases h with rfl | rfl <;>
    exact ⟨⟨by decide +kernel, by decide +kernel, by decide +kernel, by decide +kernel, fun a b c => by
      have e : ∀ g : Ctx → Ctx, (g probeCtx).yieldPhase = .none → (curCtx (probe .s g)).yieldPhase = .none :=
          fun g h => h
      rw [e _ rfl]; exact YieldPhase.noConfusion⟩, by decide +kernel⟩

/-- SharedWordsSteerTheStreams: loop counters at 0, 1 and 2, CALLI targets, an empty return stack, one of 31 entries and
a full one, of 32 entries and in a handler of 8; and WIN entries held. -/
theorem test_meets_SharedWords :
    let s := probe .s fun c =>
        modStream { c with lc := (c.lc.set 1 1).set 2 2, x := (c.x.set 1 0x2000).set 2 0x2002 } .s fun x =>
      { x with ret := List.replicate 32 0x1800 }
    let u := probe .s fun c => modStream { c with csr := { c.csr with inHandler := true } } .s fun x =>
      { x with ret := List.replicate 8 0x1800 }
    ((curCtx s).lc.get 0 = 0 ∧ (curCtx s).lc.get 1 = 1 ∧ (curCtx s).lc.get 2 ≠ 0 ∧
      (xGet (curCtx s) 1).toNat % 4 = 0 ∧ (xGet (curCtx s) 2).toNat % 4 ≠ 0 ∧
          32 ≤ (getStream (curCtx s) .s).ret.length ∧
      (pGet (curCtx s) 0 ^^ false) = true ∧ (pGet (curCtx s) 1 ^^ false) = false) ∧
    (8 ≤ (getStream (curCtx u) .s).ret.length ∧ (curCtx u).csr.inHandler = true) ∧
    (getStream (curCtx (probe .s id)) .s).ret = [] ∧
    (curCtx (probe .s fun c => { c with steer := List.replicate 64 testEntry })).csr.win ≤
      (curCtx (probe .s fun c => { c with steer := List.replicate 64 testEntry })).steer.length := by decide +kernel

/-- f's task with a yield table of two pairs 4 KiB below the text, which the instruction cache holds, under a leaf. -/
def probeYield (leaf : Word) (f : Ctx → Ctx) : State :=
  modCore (probe .s f) 0 fun k => { k with
    itlb := [⟨true, 5, 2 ^ 64 - 2 ^ 21, 21, leaf, 0x200000, 0⟩]
    icache := [⟨(2 ^ 64 - 4096) / 64, 5, 2 + (0x100 + (0x80 : BitVec 512) <<< 32) <<< 128⟩] }

/-- EntryAndYieldWords: a table of two pairs, with no pre-emption asked and with one; and a page that cannot be executed.
-/
theorem test_meets_Yield :
    let s := probeYield 0x43
    YieldCount (s id) 2 ∧ (1 : BitVec 16).toNat < 2 ∧ 2 ≤ (2 : BitVec 16).toNat ∧ ¬YieldPending (s id) ∧
      (let u := s fun c => { c with yieldPhase := .asked }
      YieldCount u 2 ∧ YieldPending u ∧ yieldTableOk u 2 = true ∧ (yieldEntry u 1).isSome = true ∧
        alone (curCtx u) = false ∧ ∀ st, (getStream (curCtx u) st).popped ≤ (curCtx u).steer.length) ∧
      yieldTable (probeYield 3 id) 1 0 = (.error (2 ^ 64 - 4096), probeYield 3 id) := by
  unfold YieldCount YieldPending
  refine ⟨by decide +kernel, by decide +kernel, by decide +kernel, by decide +kernel, ?_, by decide +kernel⟩
  exact ⟨by decide +kernel, by decide +kernel, by decide +kernel, by decide +kernel, by decide +kernel,
    fun st => by cases st <;> decide +kernel⟩

/-- FollowersTakeTheOutcome: a stream with an entry to pop, and without. -/
theorem test_meets_Followers :
    let s := probe .v fun c => { c with steer := [testEntry] }
    runs s = true ∧ s.curStream = .v ∧ Stream.v ≠ .s ∧ live (curCtx s) .v = true ∧ (curCtx s).atEntry = false ∧
      (curCtx s).yieldPhase = .none ∧
      (curCtx s).steer[(getStream (curCtx s) .v).popped]? = some testEntry ∧ testEntry.mark = .plain ∧
      (curCtx (probe .v id)).steer[(getStream (curCtx (probe .v id)) .v).popped]? = none := by decide +kernel

/-- FollowersTakeTheOutcome: the A-stream with no fault pending, and the M-stream at a taken END with nothing in the
array. -/
theorem test_meets_FollowersOfAAndM :
    let s := probe .m fun c => { c with steer := [testEntry] }
    (curCtx (probe .a id)).aq.replay = none ∧ live (curCtx s) .m = true ∧ (curCtx s).m.cmd = none ∧
        (curCtx s).m.testing = false ∧
      (curCtx s).m.testDue = false ∧ (curCtx s).m.suspect = none := by decide +kernel

/-- Region 0xFE, the own scratchpad, at offset o. -/
def ownScratch (o : Nat) : VAddr := BitVec.ofNat 72 (0xFE * 2 ^ 64 + o)

/-- AddressWordsAndWindows: the A-stream with its registers at hand, and with a load to A[3] out. -/
theorem test_meets_AReady : AReady (probe .a fun c => { c with aBusy := [3] }) [0, 1, 2] ∧
    (∃ x ∈ [0, 3, 2], x ≠ (0 : Fin 32) ∧ x ∈ (curCtx (probe .a fun c => { c with aBusy := [3] })).aBusy) :=
  ⟨⟨by decide +kernel, by decide +kernel, by decide +kernel⟩, 3, by decide +kernel⟩

/-- AddressWordsAndWindows: the sum at the end of the offset range, one past it, and one below 0. -/
theorem test_meets_Effective :
    let c := aSet probeCtx 1 (BitVec.ofNat 72 (7 * 2 ^ 64 + (2 ^ 64 - 2)))
    Effective c 1 1 (BitVec.ofNat 72 (7 * 2 ^ 64 + (2 ^ 64 - 1))) ∧ 2 ^ 64 ≤ offsetOf c 1 + 2 ∧
        offsetOf c 0 + -1 < 0 :=
  ⟨⟨2 ^ 64 - 1, by decide +kernel⟩, by decide +kernel⟩

/-- AddressWordsAndWindows: an entry of S to A and none, A to S with room for one and full, legal and illegal words 1 of a
window, and a round. -/
theorem test_meets_Moves :
    let s := probe .a fun c =>
        { c with q := { c.q with qsa := [⟨4, false⟩], qas := List.replicate 31 ⟨0, some 7, false⟩ } }
    let u := probe .a fun c => { c with q := { c.q with qas := List.replicate 32 ⟨0, some 7, false⟩ } }
    let legal (v : Word) := v.toNat % 256 ≤ 0xEF ∧ v.toNat / 2 ^ 8 % 8 ≤ 4 ∧ v.toNat / 2 ^ 12 % 16 = 0 ∧
        v.toNat / 2 ^ 16 % 8 = 0
    (curCtx s).q.qsa = [⟨4, false⟩] ∧ (curCtx s).q.qas.length < 32 ∧ (curCtx u).q.qsa = [] ∧
        32 ≤ (curCtx u).q.qas.length ∧
      legal 0x4EF ∧ ¬legal 0x4F0 ∧ roundOf (curCtx s) .a = none ∧ roundOf (curCtx (probe .a inRound)) .a ≠ none := by
  decide +kernel

/-- The accesses are allowed and have the pieces ps. -/
def resolvesTo (s : State) (k : WalkKind) (l : List (VAddr × Nat × Nat)) (ps : List Part) : Bool :=
  match resolveAll s (agentOf s.cur) (curCtx s).asid s.cur.val k l with
  | .ok (qs, _) => decide (qs = ps)
  | _ => false

/-- Accesses that are allowed resolve. -/
theorem test_resolves {s : State} {k : WalkKind} {l : List (VAddr × Nat × Nat)} {ps : List Part}
    (h : resolvesTo s k l ps = true) : ∃ u, Resolves s k l ps u := by
  unfold resolvesTo at h
  unfold Resolves
  split at h
  · rename_i qs u e
    exact ⟨u, by rw [e, of_decide_eq_true h]⟩
  · cases h

/-- Loads and stores of 8 bytes and of 256 bytes of the own scratchpad resolve. -/
theorem test_meets_Resolves :
    (∃ u, Resolves (probe .a id) .read [(ownScratch 16, 0, 8)] [⟨scratchBase + 16, 8, 0, 2, false⟩] u) ∧
    (∃ u, Resolves (probe .a id) .write [(ownScratch 16, 0, 8)] [⟨scratchBase + 16, 8, 0, 2, false⟩] u) ∧
    ∃ u, Resolves (probe .a id) .read [(ownScratch 0, 0, 256)] [⟨scratchBase, 256, 0, 2, false⟩] u :=
  ⟨test_resolves (by decide +kernel), test_resolves (by decide +kernel), test_resolves (by decide +kernel)⟩

/-- LoadWordsReserveTheirPlace: LX, LQ and the one-element LQS at A[1], for the last register, queue and size of each.
-/
theorem test_meets_Loads :
    let s := probe .a fun c => aSet (aSet c 1 (ownScratch 16)) 2 0
    (Instr.lx 31 1 3 0).wellFormed = true ∧ (Instr.lq 7 1 3 0).wellFormed = true ∧
        (Instr.lqs 12 1 2 false 3).wellFormed = true ∧
      AReady s [31, 1] ∧ AReady s [1, 2] ∧
          Effective (curCtx s) 1 ((0 : BitVec 11).toInt * bytesOfSize 3) (ownScratch 16) ∧
      Effective (curCtx s) 1 (signedOffsetOf (curCtx s) 2) (ownScratch 16) ∧
      TakesLoad (curCtx s) 7 (.ql 7) ∧ TakesLoad (curCtx s) 12 .qas ∧ TakesLoad (curCtx s) 14 .qap :=
  ⟨by decide +kernel, by decide +kernel, by decide +kernel, ⟨by decide +kernel, by decide +kernel, by decide +kernel⟩,
    ⟨by decide +kernel, by decide +kernel, by decide +kernel⟩, ⟨16, by decide +kernel⟩, ⟨16, by decide +kernel⟩,
    .inl ⟨7, by decide +kernel⟩, .inr (.inl (by decide +kernel)), .inr (.inr (by decide +kernel))⟩

/-- LoadWordsReserveTheirPlace, StoreWordsJoinTheStoreQueue: the strided form of 32 elements of 8 bytes. -/
theorem test_meets_StridedLoad :
    let s := probe .a fun c => aSet (aSet c 1 (ownScratch 0)) 2 16
    let l := (List.range 32).map fun i => (ownScratch (16 * i), 8 * i, 8)
    (Instr.lqs 0 1 2 true 3).wellFormed = true ∧ Elements (curCtx s) 1 8 (fun i =>
        i * signedOffsetOf (curCtx s) 2) l ∧
      ∃ ps u, Resolves s .read l ps u := by
  have h : ∀ i : Fin 32, offsetOf (curCtx (probe .a fun c => aSet (aSet c 1 (ownScratch 0)) 2 16)) 1 +
      i.val * signedOffsetOf (curCtx (probe .a fun c => aSet (aSet c 1 (ownScratch 0)) 2 16)) 2 = (16 * i.val : Nat) ∧
      16 * i.val < 2 ^ 64 ∧ ownScratch (16 * i.val) = (aGet (curCtx (probe .a fun c =>
        aSet (aSet c 1 (ownScratch 0)) 2 16)) 1).extractLsb' 64 8 ++ BitVec.ofNat 64 (16 * i.val) := by decide +kernel
  refine ⟨by decide +kernel, ⟨by decide, fun i hi => ?_⟩,
    (List.range 32).map fun i => ⟨scratchBase + 16 * i, 8, 8 * i, 2, false⟩, test_resolves (by decide +kernel)⟩
  simp only [List.length_map, List.length_range] at hi
  simp only [List.getElem_map, List.getElem_range]
  exact ⟨⟨16 * i, h ⟨i, hi⟩⟩, trivial⟩

/-- LoadWordsReserveTheirPlace: the gathered form with 32 indices of 0, which LQG has all but read. -/
theorem test_meets_Gather :
    let seen := (List.range 15).map fun i => (scratchBase + 8 * i, List.replicate 8 (0 : Byte))
    let s := probe .a fun c =>
        aSet (aSet { c with aq := { c.aq with now := seen } } 1 (ownScratch 512)) 2 (ownScratch 0)
    (Instr.lqg 0 1 2 3).wellFormed = true ∧ AReady s [1, 2] ∧ TakesLoad (curCtx s) 0 (.ql 0) ∧
      (match readNow s (aGet (curCtx s) 2) (4 * (256 / 8)) (curCtx s).aq.lastMark with
        | .ok (index, v) => index == List.replicate 128 0 &&
          resolvesTo v .read ((List.range 32).map fun i => (ownScratch 512, 8 * i, 8)) ((List.range 32).map fun i =>
              ⟨scratchBase + 512, 8, 8 * i, 2, false⟩)
        | _ => false) = true :=
  ⟨by decide +kernel, ⟨by decide +kernel, by decide +kernel, by decide +kernel⟩, .inl ⟨0, by decide +kernel⟩,
    by decide +kernel⟩

/-- A load of the own scratchpad in flight. -/
def testLoad : LoadRec := ⟨7, 0, .areg 3, [⟨scratchBase + 16, 8, 0, 2, false⟩], List.replicate 8 0, false, []⟩

/-- LoadReturnDeliversMemory (LOAD_RETURN): a load of one piece, held back by nothing. -/
theorem test_meets_LoadReturn :
    let s := probe .a fun c => { c with aBusy := [3], aq := { c.aq with loads := [testLoad] } }
    let p : Part := ⟨scratchBase + 16, 8, 0, 2, false⟩
    pieceOf (getCore s 0).ctx.aq.loads 0 = some (0, 0) ∧ (getCore s 0).ctx.aq.loads[0]? = some testLoad ∧
      testLoad.parts[0]? = some p ∧ NotHeld s 0 testLoad p ∧ 0 < p.len ∧ p.pa / 8 = (p.pa + p.len - 1) / 8 ∧
      (getCore s 0).l1.length < 8192 :=
  ⟨by decide +kernel, by decide +kernel, by decide +kernel,
    ⟨by rintro e ⟨⟩, by decide +kernel, by decide +kernel, by decide +kernel, by decide +kernel, by decide +kernel,
        by decide +kernel⟩,
    by decide +kernel⟩

/-- LoadWordsReserveTheirPlace: pieces of this card's memory and of the scratchpad. -/
theorem test_meets_IssuedLoads :
    (∀ p ∈ [(⟨scratchBase + 16, 8, 0, 2, false⟩ : Part), ⟨0x1003, 9, 8, 1, false⟩], ∀ q ∈ locPieces State.reset p,
      placeOf State.reset q.pa ≠ .peer) ∧ placeOf State.reset 0x1003 ≠ .peer ∧ 0 < 9 := by decide +kernel

/-- StoreWordsJoinTheStoreQueue: SX of A[2], and SQ of an entry of each queue that it names. -/
theorem test_meets_Stores :
    let s := probe .a fun c => aSet { c with q := { c.q with
      qs := c.q.qs.set 3 [⟨9, false⟩], qsa := [⟨4, false⟩], qpa := [⟨6, false⟩] } } 1 (ownScratch 16)
    roundOf (curCtx s) .a = none ∧ (Instr.sx 2 1 3 0).wellFormed = true ∧ (Instr.sq 11 1 4 0).wellFormed = true ∧
      (Instr.sq 13 1 3 0).wellFormed = true ∧ (Instr.sqs 15 1 2 false true 4).wellFormed = true ∧
      (getStream (curCtx s) .v).enabled = true ∧ (getStream (curCtx s) .p).enabled = true ∧
      (curCtx s).q.qs.get 3 = [⟨9, false⟩] ∧ (curCtx s).q.qsa = [⟨4, false⟩] ∧ (curCtx s).q.qpa = [⟨6, false⟩] := by
  decide +kernel

/-- A store of 8 bytes to the card's memory at 0x2000, UNCACHED. -/
def testStore : StoreRec := ⟨3, 0, ⟨0x2000, 8, 0, 2, false⟩, List.replicate 8 0xAA, false, false, false, false, []⟩

/-- StoresReachMemory: the write at the head of the store queue, and one in flight that may be performed, or not while an
earlier one to its line is in flight. -/
theorem test_meets_StorePerformed :
    let s := probe .a fun c => { c with aq := { c.aq with stores := [.write testStore], inflight := [testStore] } }
    let u := probe .a fun c => { c with aq := { c.aq with inflight := [testStore, { testStore with left := 4 }] } }
    (headPieces (getCore s 0).ctx)[0]? = some testStore ∧ testStore.part.cls = 2 ∧ placeOf s 0x2000 = .local ∧
      (∀ sc ∈ [1, 2, 3, 4], outstanding s 0 sc < 1023) ∧ (getCore s 0).ctx.aq.inflight[0]? = some testStore ∧
      testStore.part.len = testStore.data.length ∧ testStore.signal = false ∧ mine testStore.part = false ∧
      mayPerform s 0 testStore = true ∧ Memory.wf s.mem = true ∧
      (getCore u 0).ctx.aq.inflight[1]? = some { testStore with left := 4 } ∧
      mayPerform u 0 { testStore with left := 4 } = false := by decide +kernel

/-- The same store at another address, of a page of this class, or of the core itself. -/
def storeAt (pa cls : Nat) (own : Bool) : StoreRec := { testStore with part := ⟨pa, 8, 0, cls, own⟩ }

/-- StoresReachMemory: pieces at the head of the store queue of a SHARED, a PRIVATE and a DEVICE page of this card, of
the host, of the peer, and of a page of the core itself. -/
theorem test_meets_HeadPieces :
    let s (r : StoreRec) := probe .a fun c => { c with aq := { c.aq with stores := [.write r] } }
    (∀ r ∈ [storeAt 0x2000 1 false, storeAt 0x2000 0 false, storeAt 0x2000 3 false, storeAt 0x100000000000 2 false,
      storeAt 0x8000000000 2 false], (headPieces (getCore (s r) 0).ctx)[0]? = some r ∧ r.part.len = r.data.length ∧
        mine r.part = false ∧ deviceTurn (s r) (getCore (s r) 0).ctx r.id = true) ∧
      placeOf State.reset 0x2000 = .local ∧ placeOf State.reset 0x100000000000 = .host ∧
      Memory.wf State.reset.hostMem = true ∧ placeOf State.reset 0x8000000000 = .peer ∧
      (let r := storeAt 0x2000 0 true
      (headPieces (getCore (s r) 0).ctx)[0]? = some r ∧ 0 < r.part.len ∧
        r.part.pa / 8 = (r.part.pa + r.part.len - 1) / 8 ∧ mine r.part = true ∧ r.signal = false ∧
        (getCore (s r) 0).l1.length < 8192 ∧ (getCore (s r) 0).ctx.aq.inflight = []) := by decide +kernel

/-- StoresReachMemory: pieces in flight that may be performed, of the staging buffer, a scratchpad and the host. -/
theorem test_meets_PiecesLand :
    ∀ r ∈ [storeAt stagingBase 2 false, storeAt (scratchBase + 2 ^ 20) 2 false, storeAt 0x100000000000 2 false],
      let s := probe .a fun c => { c with aq := { c.aq with inflight := [r] } }
      (getCore s 0).ctx.aq.inflight[0]? = some r ∧ mayPerform s 0 r = true ∧ mine r.part = false ∧
        r.part.pa / 8 = (r.part.pa + r.data.length - 1) / 8 ∧
        placeOf s r.part.pa ∈ [.staging 0, .scratch 1, .host] := by decide +kernel

/-- StoresReachMemory: APPEND to a window with room for one entry of 8 bytes, at its end, full, and not enabled; and in a
round, where it fits and where the stride is too short. -/
theorem test_meets_Append :
    let w (lenOf stride clen : Nat) : Vector Word 3 :=
      #v[0x1000, BitVec.ofNat 64 (0xFE + 2 ^ 11 + stride * 2 ^ 16 + lenOf * 2 ^ 32), BitVec.ofNat 64 clen]
    let s := probe .a fun c =>
        { c with windows := #v[w 16 0 8, w 16 0 9, w 16 8 0, w 16 7 0], q := { c.q with qs := c.q.qs.set 0 [⟨9, false⟩, ⟨8, false⟩] } }
    let win (n : Fin 4) := (curCtx s).windows.get n
    (getStream (curCtx s) .v).enabled = true ∧ (curCtx (probe .a id)).windows.get 0 = Vector.replicate 3 0 ∧
      (win 0)[1].getLsbD 11 = true ∧ (win 0)[2].toNat % 2 ^ 32 + 8 ≤ (win 0)[1].toNat / 2 ^ 32 ∧
      (win 1)[1].toNat / 2 ^ 32 < (win 1)[2].toNat % 2 ^ 32 + 8 ∧ (curCtx s).q.qs.get 0 = [⟨9, false⟩, ⟨8, false⟩] ∧
      (let stride (n : Fin 4) := (win n)[1].toNat / 2 ^ 16 % 2 ^ 16
       stride 2 = 0 + 8 ∧ 0 + (probeRound.n + 1) * stride 2 ≤ (win 2)[1].toNat / 2 ^ 32 ∧ stride 3 < 0 + 8) ∧
      roundOf (curCtx (probe .a inRound)) .a = some probeRound := by decide +kernel

/-- OrderingAndPrefetchWords: nothing in flight; a load out, and a write that is not performed; and room in the L1. -/
theorem test_meets_Ordering :
    let s := probe .a fun c => { c with aq := { c.aq with loads := [testLoad] } }
    let u := probe .a fun c => { c with aq := { c.aq with inflight := [testStore] } }
    AReady (probe .a id) [] ∧ (curCtx (probe .a id)).aq.lost = [] ∧ readsDone (probe .a id) 0 = true ∧
      releaseReady (probe .a id) 0 4 = true ∧ readsDone s 0 = false ∧ releaseReady u 0 1 = false ∧
      (curCore (probe .a id)).l1.length < 8192 :=
  ⟨⟨by decide +kernel, by decide +kernel, by decide +kernel⟩, by decide +kernel⟩

/-- The task of core 0, with its offsets below 2 MiB in a page at pa of this leaf. -/
def probePage (f : Ctx → Ctx) (pa : Nat) (leaf : Word) : State :=
  { modCore (probe .a f) 0 fun k => { k with tlb := [⟨false, 5, 0, 21, leaf, pa, 0⟩] } with
    links := { State.reset.links with paired := true, up := true } }

/-- AtomicsApplyTheirOperation, WaitaWatchesItsLine: an aligned location of card memory, of the host's and of the peer's.
-/
theorem test_meets_AtomicAt :
    (∃ u, AtomicAt (probePage id 0x200000 0x3FB37) 0 8 .atomic ⟨0x200000, 8, 0, 1, false⟩ u) ∧
    (∃ u, AtomicAt (probePage id 0x200000 0x3FB37) 0 4 .read ⟨0x200000, 4, 0, 1, false⟩ u) ∧
    (∃ u, AtomicAt (probePage id hostBasePa 0x3FB3B) 0 8 .atomic ⟨hostBasePa, 8, 0, 2, false⟩ u) ∧
    (∃ u, AtomicAt (probePage id (2 ^ 39) 0x3FB37) 0 8 .read ⟨2 ^ 39, 8, 0, 1, false⟩ u) ∧
    placeOf State.reset 0x200000 = .local ∧ placeOf State.reset hostBasePa = .host ∧
        placeOf State.reset (2 ^ 39) = .peer := by
  refine ⟨?_, ?_, ?_, ?_, by decide +kernel⟩ <;>
    exact (test_resolves (by decide +kernel)).imp fun u h => ⟨by decide +kernel, by decide +kernel, h⟩

/-- AtomicsApplyTheirOperation: the registers at hand, the last operation, a reserved one, and an address that is no
multiple of 4. -/
theorem test_meets_AtomicWords :
    let s := probe .a fun c => aSet c 1 2
    AReady s [2, 1, 3] ∧ roundOf (curCtx s) .a = none ∧ (8 : BitVec 4).toNat < 9 ∧ 9 < (10 : BitVec 4).toNat ∧
      (aGet (curCtx s) 1).toNat % 4 ≠ 0 :=
  ⟨⟨by decide +kernel, by decide +kernel, by decide +kernel⟩, by decide +kernel⟩

/-- An atomic of card memory at the head of the store queue. -/
def testAtomic : AtomicRec := ⟨5, ⟨0x2000, 8, 0, 1, false⟩, true, 0, false, 3, 0, false, some 4, false⟩

/-- AtomicsApplyTheirOperation: an atomic that may be applied. -/
theorem test_meets_AtomicPerformed :
    let s := probe .a fun c => { c with aBusy := [4], aq := { c.aq with stores := [.atomic testAtomic] } }
    (getCore s 0).ctx.aq.stores = [.atomic testAtomic] ∧ mayApplyAtomic s 0 testAtomic = true ∧ s.loose = [] ∧
      placeOf s testAtomic.part.pa = .local ∧ testAtomic.op ≠ 9 ∧ testAtomic.op.toNat < 10 ∧ Memory.wf s.mem = true ∧
      (getCore s 0).l1 = [] ∧ roundOf (getCore s 0).ctx .a = none := by decide +kernel

/-- AtomicsApplyTheirOperation: an FP32 sum with SIGNAL in host memory, and an atomic of the peer's memory that is to go
out and one that has. -/
theorem test_meets_AtomicsElsewhere :
    let host : AtomicRec :=
        { testAtomic with part := ⟨hostBasePa, 4, 0, 2, false⟩, wide := false, op := 9, signal := true }
    let peer (sent : Bool) : AtomicRec := { testAtomic with part := ⟨2 ^ 39, 8, 0, 1, false⟩, sent := sent }
    let s (a : AtomicRec) := probe .a fun c => { c with aq := { c.aq with stores := [.atomic a] } }
    (∀ a ∈ [host, peer false, peer true], (getCore (s a) 0).ctx.aq.stores = [.atomic a] ∧
      mayApplyAtomic (s a) 0 a = true ∧ a.op.toNat < 10) ∧
      placeOf (s host) hostBasePa = .host ∧ placeOf (s (peer true)) (2 ^ 39) = .peer ∧
      mayApplyAtomic (probe .a fun c => { c with aq := { c.aq with
        loads := [testLoad], stores :=
            [.atomic { testAtomic with id := 8 }] } }) 0 { testAtomic with id := 8 } = false := by
  decide +kernel

/-- A core whose task waits with WAITA at the line of 0x2000, where a task of the peer waits too. -/
def probeMonitor (f : Ctx → Ctx) : State :=
  { probe .a fun c => f { c with aq := { c.aq with waita := .registered 0x80 2 } } with monitors := [⟨0x80, [0], [5]⟩] }

/-- WaitaWatchesItsLine: a signalling store that is performed, a signalling atomic, and a signalling write of an engine,
each at the line of a monitor with a waiter of each card. -/
theorem test_meets_Signals :
    let r := { testStore with signal := true }
    let a := { testAtomic with signal := true }
    let s := probeMonitor fun c => { c with aq := { c.aq with inflight := [r] } }
    let u := probeMonitor fun c => { c with aq := { c.aq with stores := [.atomic a] } }
    ((getCore s 0).ctx.aq.inflight[0]? = some r ∧ 0 < r.part.len ∧ mayPerform s 0 r = true ∧
      placeOf s r.part.pa ≠ .host ∧ r.part.pa / 64 = 0x80) ∧
    ((getCore u 0).ctx.aq.stores = [.atomic a] ∧ mayApplyAtomic u 0 a = true ∧ placeOf u a.part.pa ≠ .host) ∧
    (match engStorePart s EngIo.none ⟨66, 5, 0, 0⟩ 0 true r.part r.data with
      | .ok () _ _ => true
      | _ => false) = true ∧
    s.monitors.find? (fun m => m.line == 0x80) = some ⟨0x80, [0], [5]⟩ ∧
    (getCore s 0).ctx.aq.waita = .registered 0x80 2 := by decide +kernel

/-- WaitaWatchesItsLine: no word begun, with the value of the location equal to A[0] and different from A[3]; one woken,
answered, registered and asked; and a home slice whose monitors are all taken. -/
theorem test_meets_Waita :
    let s := probePage (fun c => aSet c 3 7) 0x200000 0x3FB37
    let p : Part := ⟨0x200000, 8, 0, 1, false⟩
    AReady s [2, 0, 3] ∧ (curCtx s).aq.waita = .none ∧ writesBefore s (curCtx s) (curCtx s).aq.lastMark = false ∧
      (homeValue s p).1 = (operandOf (curCtx s) 0 true).toNat ∧
          (homeValue s p).1 ≠ (operandOf (curCtx s) 3 true).toNat ∧
      (addMonitor s (p.pa / 64)).isSome = true ∧
      (addMonitor { s with monitors := List.replicate 64 ⟨1, [], []⟩ } 0).isNone = true ∧
      ∀ w ∈ [WaitaState.woken 2, .answered 2 1, .registered 0 2, .asked 0 0 2],
        (curCtx (probe .a fun c => { c with aq := { c.aq with waita := w } })).aq.waita = w :=
  ⟨⟨by decide +kernel, by decide +kernel, by decide +kernel⟩, by decide +kernel⟩

/-- The task of core 0 with ring 31 of the core at this descriptor, of four slots of 64 bytes from offset 0. -/
def probeRing (head tail claim : Nat) : State :=
  modCore (probe .a fun c => aSet c 2 (BitVec.ofNat 72 (0xFD * 2 ^ 64))) 0 fun k => { k with
    rings := k.rings.set 31 ⟨BitVec.ofNat 64 (0x82000000 + head * 2 ^ 32 + tail * 2 ^ 41 + claim * 2 ^ 50), 0, []⟩ }

/-- RingWordsFollowTheirProtocol: a ring that is full of ready slots, one with no slot claimed, one with a slot claimed
across the wrap of the positions, and one that is not enabled. -/
theorem test_meets_Rings :
    let r (s : State) := (getCore s (tile 0)).rings.get 31
    let head (s : State) := ringField (r s).desc 32 9
    let tail (s : State) := ringField (r s).desc 41 9
    let claim (s : State) := ringField (r s).desc 50 9
    AReady (probeRing 0 4 4) [2, 0] ∧ (curCtx (probeRing 0 4 4)).aq.lost = [] ∧
        NamesRing (probeRing 0 4 4) 0 31 0 31 ∧
      (claim (probeRing 0 4 4) - head (probeRing 0 4 4)).toNat = 4 ∧ tail (probeRing 0 4 4) ≠ head (probeRing 0 4 4) ∧
      (claim (probeRing 0 0 0) - head (probeRing 0 0 0)).toNat < 4 ∧ tail (probeRing 0 0 0) = head (probeRing 0 0 0) ∧
      readsDone (probeRing 0 0 0) 0 = true ∧ releaseReady (probeRing 511 0 1) 0 0 = true ∧
      slotClaimed (r (probeRing 511 0 1)) 0 = true ∧
          aGet (curCtx (probeRing 511 0 1)) 2 = slotOf 0 (r (probeRing 511 0 1)).desc 0 ∧
      (r (probeRing 511 0 1)).desc.getLsbD 31 = true ∧ (getCore (probe .a id) (tile 0)).rings.get 31 = ⟨0, 0, []⟩ ∧
      (curCtx (probe .a fun c =>
          { c with aq := { c.aq with ringWait := some (0, 31, true) } })).aq.ringWait = some (0, 31, true) :=
  ⟨⟨by decide +kernel, by decide +kernel, by decide +kernel⟩, by decide +kernel, ⟨by decide +kernel, .inl rfl⟩,
    by decide +kernel⟩

/-- RingWordsFollowTheirProtocol: a descriptor that ends at the end of the scratchpad, one that ends past it, and a ring of
another core. -/
theorem test_meets_Rstat :
    let size := 2 ^ 6
    (0xFFF00 : Nat) % size = 0 ∧ 0xFFF00 + 4 * size ≤ 0x100000 ∧ 0x100000 < 0xFFF40 + 4 * size ∧
      (aGet (curCtx (probe .a fun c => aSet c 1 31)) 1).toNat + (1 : BitVec 11).toNat = 32 * 1 + 0 ∧
      (1 : Nat) ≠ (probe .a id).cur.val := by decide +kernel

/-- The task of core 0 in a group with two barriers, the first of them expecting two arrivals, and with one arrival. -/
def probeBar (pend : Int) (arrived : BitVec 16) : State :=
  let s := probe .a fun c => { aSet c 1 1 with
    barFile := some (0, 0), csr := { c.csr with bdepth := 2, bbase := 1, arrived := arrived } }
  modIsland s 0 fun i => { i with barriers := (i.barriers.set 0 ⟨2, 1, pend, true⟩).set 1 ⟨1, 1, 0, true⟩ }

/-- BarriersCompleteTogether: a position with no arrival, one with an arrival, one past the depth, PEND at its bound, a depth of 16, and a
count above the bound while PEND is below 0.
-/
theorem test_meets_Barriers :
    let s := probeBar (2 ^ 28 - 2) 2
    AReady s [1] ∧ roundOf (curCtx s) .a = none ∧ (curCtx s).aq.lost = [] ∧ (curCtx s).barFile = some (0, 0) ∧
      (1 : Fin 16).val < (curCtx s).csr.bdepth.toNat ∧ (curCtx s).csr.bdepth.toNat ≤ (2 : Fin 16).val ∧
      (curCtx s).csr.arrived.getLsbD ((1 + 1) % 2) = false ∧ (curCtx s).csr.arrived.getLsbD ((1 + 0) % 2) = true ∧
      releaseReady s 0 (groupScope s) = true ∧ readsDone s 0 = true ∧ (aGet (curCtx s) 1).toNat % 2 ^ 64 = 1 ∧
      (barGet s 0 0).pend + 1 ≤ 2 ^ 28 - 1 ∧ (barGet (probeBar (2 ^ 28 - 1) 2) 0 0).pend + 1 > 2 ^ 28 - 1 ∧
      (curCtx (probe .a fun c => { c with barFile := some (0, 0) })).csr.bdepth.toNat = 0 ∧
      (curCtx (probe .a fun c => { c with csr := { c.csr with bdepth := 16 } })).csr.bdepth.toNat = 16 ∧
      (let n : Nat := (aGet (curCtx (probe .a fun c => aSet c 1 (2 ^ 28))) 1).toNat % 2 ^ 64
      2 ^ 28 - 1 < n ∧ (barGet (probeBar (-5) 2) 0 0).pend + n ≤ 2 ^ 28 - 1) :=
  ⟨⟨by decide +kernel, by decide +kernel, by decide +kernel⟩, by decide +kernel⟩

/-- BarriersCompleteTogether: a barrier that completes, with a saved task of its group, and one that does not. -/
theorem test_meets_CheckComplete :
    let v := savedTask ⟨1, 1⟩ { (getCore (probeBar 0 2) 0).ctx with asid := 5 }
    let s := { probeBar 0 2 with disp := { State.reset.disp with saved := [v] }, yields := [v] }
    (barGet s 0 1).arr = (barGet s 0 1).exp ∧ (barGet s 0 1).pend = 0 ∧ (barGet s 0 1).used = true ∧
      (barGet s 0 0).arr ≠ (barGet s 0 0).exp ∧ (getCore s 0).busy = true ∧ (getCore s 0).ctx.barFile = some (0, 0) ∧
      1 < (getCore s 0).ctx.csr.bdepth.toNat ∧ s.disp.saved[0]? = some v ∧ s.yields[0]? = some v ∧
      v.ctx.barFile = some (0, 0) := by decide +kernel

/-- A split counter of ASID 5 with units in reserve and with two holders. -/
def testCounter (res : Nat) : SplitCounter := ⟨res, some 5, [(0, 3), (1, 4)], [(0, 1), (1, 1)], [], 0⟩

/-- SplitCountersBalance: object 4,095 whose total covers A[1] exactly, and the most that its reserve may hold. -/
theorem test_meets_Counters :
    let s := { probe .a fun c => aSet (aSet c 1 10) 2 4000 with counters := [(4095, testCounter 3)] }
    let x := testCounter 3
    AReady s [1, 2] ∧ roundOf (curCtx s) .a = none ∧ NamesCounter s 2 95 4095 x ∧ holdersOk x ∧ x.fifo = [] ∧
      s.cur.val < 64 ∧ (curCtx s).aq.scWait = .none ∧ (curCore s).scCache.length < 32 ∧
          (∀ h, tget x.allow h 0 < 2 ^ 32) ∧
      x.hints.Pairwise (fun a b => a.1 < b.1) ∧ (∀ h ∈ x.allow.map (·.1), h ∈ x.hints.map (·.1)) ∧
      (aGet (curCtx s) 1).toNat % 2 ^ 64 = totalOf x ∧ totalOf x < 10 + 1 ∧
          totalOf (testCounter (2 ^ 48 - 1 - 7 - 10)) + 10 = 2 ^ 48 - 1 ∧
      totalOf x + 10 ≤ 2 ^ 48 - 1 ∧ (aGet (curCtx s) 0).toNat = 0 ∧
          4096 ≤ (aGet (curCtx s) 2).toNat + (96 : BitVec 12).toNat := by
  refine ⟨⟨by decide +kernel, by decide +kernel, by decide +kernel⟩, by decide +kernel,
      by unfold NamesCounter; decide +kernel,
    by unfold holdersOk; decide +kernel, by decide +kernel, by decide +kernel, by decide +kernel, by decide +kernel,
    fun h => ?_, by decide +kernel⟩
  rcases h with _ | _ | h
  · decide
  · decide
  · simp [tget, tfind, testCounter]

/-- SplitCountersBalance: an addition that neither the allowance nor the reserve takes. -/
theorem test_meets_Scinc :
    let x := testCounter (2 ^ 48 - 5)
    let n := 4
    (∀ h, tfind x.hints 0 = some h → min (2 * h) (2 ^ 32 - 1) < tget x.allow 0 0 + n) ∧
      2 ^ 48 - 1 < x.res + n + ((tfind x.hints 0).map fun h => tget x.allow 0 0 - h).getD 0 := by
  refine ⟨fun h e => ?_, by decide +kernel⟩
  obtain rfl : 1 = h := Option.some.inj e
  decide +kernel

/-- SplitCountersBalance: an object that is not bound, one that another ASID holds, and a SCDEC.WAIT that has ended or is
queued. -/
theorem test_meets_Scinit :
    let s := { probe .a id with counters := [(4095, { testCounter 3 with bound := some 6 })] }
    tget s.counters 0 ⟨0, none, [], [], [], 0⟩ = ⟨0, none, [], [], [], 0⟩ ∧
      (tget s.counters 4095 ⟨0, none, [], [], [], 0⟩).bound ≠ some (curCtx s).asid ∧
      ∀ w ∈ [ScWait.ended 1 2, .queued 7 1], (curCtx (probe .a fun c =>
          { c with aq := { c.aq with scWait := w } })).aq.scWait = w := by
  decide +kernel

/-- JobsAndSamplesAreSubmitted: an aligned card in the own scratchpad of which the last location is to be read, one that is misaligned, a card
that is legal, and limits reached. -/
theorem test_meets_Submit :
    let read := (List.range 7).map fun i => (scratchBase + 64 + 8 * i, List.replicate 8 (0 : Byte))
    let s := probe .a fun c =>
        aSet (aSet { c with aq := { c.aq with now := read } } 1 (ownScratch 64)) 2 (ownScratch 32)
    AReady s [1] ∧ (aGet (curCtx s) 1).toNat % 64 = 0 ∧ (aGet (curCtx s) 2).toNat % 64 ≠ 0 ∧
      (match readCard s (aGet (curCtx s) 1) with | .ok (c, _) => c == 0 | _ => false) = true ∧
      cardOk (1 + (1 : BitVec 512) <<< 256) = true ∧ cardOk 0 = false ∧
      32 ≤ jobsAt { s with jobs := List.replicate 32 (jobWith 0 .waiting) } s.cur ∧ jobsAt s s.cur < 32 ∧
      8 ≤ ((List.replicate 8 testSample).filter fun r => r.task == (curCtx s).task).length :=
  ⟨⟨by decide +kernel, by decide +kernel, by decide +kernel⟩, by decide +kernel⟩

/-- JobsAndSamplesAreSubmitted: a reply, with room in A to S and without. -/
theorem test_meets_Srpop :
    let s (n : Nat) := probe .a fun c =>
        { c with q := { c.q with reply := [⟨9, false⟩], qas := List.replicate n ⟨0, some 7, false⟩ } }
    (curCtx (s 31)).q.reply = [⟨9, false⟩] ∧ (curCtx (s 31)).q.qas.length < 32 ∧ 32 ≤ (curCtx (s 32)).q.qas.length ∧
      (curCtx (probe .a id)).q.reply = [] := by decide +kernel

/-- A word with two sources: FP32, one segment, registers of 256 bytes. -/
def probeV : VFields := ⟨8, 1, false, 0, false, 10, 8, 20, 8, 30, 8, 0, 0, 0⟩

/-- A task whose view VWV has 64 registers of 256 bytes from the first general byte on. -/
def probeVec (f : Ctx → Ctx) : State :=
  probe .v fun c => f { c with csr := { c.csr with vwv := 0x0040_0008_0040_0000 } }

/-- A word without fault whose queues are ready may issue. -/
theorem test_may_issue {s : State} {u : VUse} (r : runs s = true)
    (h : (match vFaults (curCtx s) u with | .ok _ => true | _ => false) = true)
    (q : vQueuesReady (curCtx s) u = true) : MayIssue s u := by
  refine ⟨r, ?_, q⟩
  split at h
  · next e => exact e
  · cases h

/-- ElementwiseWordsComputeTheirTable: VADD of registers, and VFMA masked. -/
theorem test_meets_Elementwise :
    let s := probeVec id
    let u := plainUse probeV classAdd [opA, opB] [] 1
    let w := plainUse { probeV with masked := true } classMul [opA, opB, opD] [0] 1
    countIn s probeV = 1 ∧ MayIssue s u ∧ MayIssue s w ∧ (argsOf s u).src.length = 2 ∧ (argsOf s w).src.length = 3 :=
  ⟨by decide +kernel, test_may_issue (by decide +kernel) (by decide +kernel) (by decide +kernel),
    test_may_issue (by decide +kernel) (by decide +kernel) (by decide +kernel), by decide +kernel, by decide +kernel⟩

/-- FloatWordsRoundTheExactValueOnce: 1 as BF16, FP16, FP32 and ACC96 is a finite number. -/
theorem test_meets_FloatWords : ∀ e ∈ [(0, 0x3F80), (1, 0x3C00), (8, 0x3F800000), (13, 0x3FFFFFFF_FFFFFFFF_00000000)],
    IsNumber (decodeElem e.1 e.2) := by
  have h : ∀ e ∈ [(0, 0x3F80), (1, 0x3C00), (8, 0x3F800000), (13, 0x3FFFFFFF_FFFFFFFF_00000000)],
      (match decodeElem e.1 e.2 with | .num _ _ _ => true | _ => false) = true := by decide +kernel
  intro e he
  have := h e he
  split at this
  · exact ⟨_, _, _, ‹_›⟩
  · cases this

/-- SegmentWordsComputeTheirResult: VCVT of FP32 to BF16 that may issue; VUNPACK of two segments, and of one. -/
theorem test_meets_SegmentWords :
    let f := { probeV with vb := 0, sb := 0 }
    (segmentTable f).map (fun w => w.word) = [.vsel f, .vbcast f, .viota f, .vperm f, .vshuf f, .vcvt f, .vunpack f,
        .vdq f] ∧
      (∀ w ∈ (segmentTable f).take 1, MayIssue (probeVec id) (w.use 1)) ∧ 2 % 2 = 0 ∧ 1 % 2 ≠ 0 := by
  refine ⟨rfl, fun w h => ?_, by decide, by decide⟩
  simp only [segmentTable, List.take, List.mem_cons, List.not_mem_nil, or_false] at h
  subst h
  exact test_may_issue (by decide +kernel) (by decide +kernel) (by decide +kernel)

/-- SegmentWordsComputeTheirResult: a reduction, a scan and a transpose that may issue, whose segments have 64 elements;
VPACK to MX4 of 8 segments, and of 7. -/
theorem test_meets_GatheringWords :
    let s := probeVec id
    let f := { probeV with vb := 0, sb := 0 }
    let u (n dst : Nat) : VUse :=
        { srcs := [opA f 8 n], dst := some (opD f 8 dst), masks := [], push2 := 0, segs := n, cls := classAdd }
    MayIssue s (u 1 1) ∧ 0 < sizeOf_ f ∧ 8 % 8 = 0 ∧ 7 % 8 ≠ 0 ∧
      (((argsOf s (u 1 1)).arg 0).read 8 s.freeCtr (curCore s) 0).length = sizeOf_ f :=
  ⟨test_may_issue (by decide +kernel) (by decide +kernel) (by decide +kernel), by decide +kernel, by decide,
      by decide,
    by decide +kernel⟩

/-- MaskAndTransferWords: VCMP and VSQ that may issue; a round, and none. -/
theorem test_meets_MaskWords :
    let s := probeVec id
    let u : VUse := { srcs := [opA probeV 8 1, opB probeV 8 1], dst := none, masks := [], push2 := 0, segs := 1, cls := classAdd }
    MayIssue s u ∧ sizeOf_ probeV ≤ 256 ∧ (6 : BitVec 9).toNat ≤ 6 ∧
        MayIssue s { u with srcs := [], masks := [1, 2] } ∧
      MayIssue s { u with srcs := [opA probeV 8 1], push2 := 2 } ∧ roundOf (curCtx s) .v = none ∧
      (roundOf (curCtx (probeVec fun c =>
          { c with spec := { c.spec with rounds := Vector.replicate 5 (some probeRound) } })) .v).map
        (fun r => r.n + 1) = some 2 :=
  ⟨test_may_issue (by decide +kernel) (by decide +kernel) (by decide +kernel), by decide +kernel, by decide,
    test_may_issue (by decide +kernel) (by decide +kernel) (by decide +kernel),
    test_may_issue (by decide +kernel) (by decide +kernel) (by decide +kernel), by decide +kernel⟩

/-- VectorOperandsAndLanding: register 63, the last of the view, and 64, past it; 17 segments of a queue; queues that are
not ready. -/
theorem test_meets_VectorOperands :
    let s := probeVec id
    let view := (curCtx s).csr.vwv
    InView view 63 8 1 8 ∧ ¬InView view 64 8 1 8 ∧ 16 < 17 ∧ (320 : BitVec 9).toNat / 8 = 40 ∧
      ((curCtx s).q.ql.get 0).length < 1 ∧ (curCtx s).q.qb = [] ∧
      16 < ((curCtx (probeVec fun c =>
          { c with q := { c.q with qs := c.q.qs.set 0 (List.replicate 16 ⟨0, false⟩) } })).q.qs.get 0).length + 1 :=
          by
  refine ⟨fun j hj => ?_, fun h => ?_, by decide +kernel⟩
  · obtain rfl : j = 0 := by omega
    decide +kernel
  · exact absurd (h 0 (by decide)) (by decide +kernel)

/-- VectorOperandsAndLanding: a result that is due, one that is not, and two in the order of their cycles. -/
theorem test_meets_Landing :
    let p (due : Nat) : Pending :=
        { Pending.none due (issueTag probeCtx .v 0) with regs := [(0x43FFFC, [1, 2, 3, 4])] }
    (p 4).due ≤ 4 ∧ (∀ q ∈ [p 5], 4 < q.due) ∧ [p 4, p 5].Pairwise (fun a b => a.due ≤ b.due) ∧
      (p 4).regs = [(0x43FFFC, [1, 2, 3, 4])] ∧ (p 4).banks = [] ∧ 0x43FFFC + 4 ≤ 0x440000 ∧
      (p 4).tag.stalls = (p 5).tag.stalls := by decide +kernel

/-- VectorOperandsAndLanding: an entry of a load queue that has arrived, and one of qb. -/
theorem test_meets_QueueOperands :
    let s := probeVec fun c =>
        { c with q := { c.q with ql := c.q.ql.set 7 [⟨0, some 9, false⟩], qb := [⟨5, false⟩] } }
    ((curCtx s).q.ql.get 7)[0]? = some ⟨0, some 9, false⟩ ∧ (327 : BitVec 9).toNat = 320 + (7 : Fin 8).val ∧
      (qbHead (curCtx s)).toNat = 5 ∧ (curCtx s).m.cmd = none ∧ (curCtx s).vpend = [] := by decide +kernel

/-- An FP32 tile of one element by one, of depth one, in slices 0 and 1. -/
def probeM : MFields := ⟨false, false, false, false, 0, 0, 0, 0, 0, false, 0, 1, 1, false, 0, 1, 0, 1⟩

/-- A task that has passed its first self-test, with the format word w at the head of queue 4. -/
def probeTile (w : Word) (f : Ctx → Ctx) : State :=
  probe .m fun c => f { c with
    m := { c.m with tested := true }, q := { c.q with fmt := [⟨.format w, false⟩] }
    csr := { c.csr with vwv := 0x0040_0008_0040_0000, vwt := 0x0200_0008_0040_0000 } }

/-- An M-word that runs. -/
def testCmd : TileCmd :=
  { tile := false, work := .none, raced := [], round := none, regs := [], stage := [], token := none, reads := []
    unpin := [], pc := 0, cidx := 0, step := 0, rerun := false, array := 0, since := 0, landed := false }

/-- MatrixWordsWriteTheirTile: no M-word runs, and one does; a C tile that ends with the region, and one past it; vectors
at the end of the view, and past it. -/
theorem test_meets_AccumulatorWords :
    MReady (probeTile 0 id) ∧ ¬MReady (probeTile 0 fun c => { c with m := { c.m with cmd := some testCmd } }) ∧
      TileFits probeM 349524 ∧ ¬TileFits probeM 349525 ∧ InVwv (probeTile 0 id) 63 256 ∧
          ¬InVwv (probeTile 0 id) 64 4 ∧
      InVwv (probeTile 0 id) 63 32 ∧ InVwv (probeTile 0 id) 63 24 ∧
      vWillWrite (probeTile 0 id) 0 [(0x403F00, 32)] = false := by
  unfold MReady TileFits InVwv
  decide +kernel

/-- MatrixWordsWriteTheirTile, MdrainConvertsItsTile: a V-word has still to write the C tile, and the vector that a word
reads. -/
theorem test_meets_EarlierVWords :
    let p (a : Nat) : Pending := { Pending.none 9 (issueTag probeCtx .v 0) with regs := [(a, [1, 2, 3, 4])] }
    let s := probeTile 0x8000 fun c => { c with vpend := [p 0x403F08, p 8] }
    (∀ l ∈ [[(0x403F00, 32)], [(0x403F00, 24)], (0x403F00, 4) :: [(0, 12)], [(0, 12)]], vWillWrite s 0 l = true) ∧
      MReady s := by
  unfold MReady
  decide +kernel

/-- MatrixWordsWriteTheirTile: tokens at 0 and 255, an array and none, a test that runs and none, an MPIN at the end of
its slice and past it, a ninth pin, and a slice that may be claimed. -/
theorem test_meets_MatrixWords :
    let s := probe .m fun c =>
        { c with tokens := c.tokens.set 1 255, m := { c.m with pins := List.replicate 8 ⟨0, 0, 32⟩ } }
    let p (off len : BitVec 16) := pinNamed { probeM with aOff := off, aLd := len }
    (curCtx s).tokens.get 0 ≠ 255 ∧ (curCtx s).tokens.get 0 = 0 ∧ (curCtx s).tokens.get 1 = 255 ∧
        (curCore s).fence ≠ 15 ∧
      (curCore (modCore s 0 fun k => { k with fence := 15 })).fence = 15 ∧ (curCtx s).m.testing = false ∧
      (p 65535 1).off + (p 65535 1).len ≤ 0x200000 ∧ 0x1FFFFF < (p 65535 2).off + (p 65535 2).len - 1 ∧
      8 ≤ (curCtx s).m.pins.length ∧ (curCtx (probe .m id)).m.pins.length < 8 ∧
      (match claimSlices (probe .m id) 0 [(p 0 1).slice] with | .ok _ => true | _ => false) = true := by decide +kernel

/-- MstepComputesItsTile: a legal format word for FP32 of both operands whose checks pass and whose step is ready. -/
theorem test_meets_Mstep :
    let s := probeTile 0x8000 id
    let f := { probeM with aSlice := 0, bSlice := 1 }
    FormatReady s 0x8000 [] ∧ formatOk 0x8000 = true ∧ layoutOk 0x8000 f = true ∧
      (match tileChecks s 0x8000 f [mstepAt f] with | .ok _ => true | _ => false) = true ∧ ∃ u, StepReady s 0x8000 f (mstepAt f) u := by
  refine ⟨⟨by unfold MReady; decide +kernel, by decide +kernel, ⟨.format 0x8000, false⟩, rfl, by decide +kernel⟩,
      by decide +kernel,
    by decide +kernel, by decide +kernel, ?_⟩
  have h : (match claimSlices (probeTile 0x8000 id) 0 (tileSlices 0x8000 { probeM with aSlice := 0, bSlice := 1 }) with
    | .ok _ => true | _ => false) = true := by decide +kernel
  split at h
  · next u e => exact ⟨u, e, by decide +kernel, by decide +kernel⟩
  · cases h

/-- FormatAndNestWords: an illegal format word; W at its limit and past it; an empty queue that the S-stream has passed,
and one that it has not. -/
theorem test_meets_FormatWords :
    let s := probeTile 0x8008 id
    let e (pc : Word) := probe .m fun c => modStream c .s fun x => { x with pc := pc }
    formatOk 0x8008 = false ∧ (curCtx s).m.suspect = none ∧ (curCtx s).m.nest = none ∧
      workOf 0x8000 { probeM with mt := 191, nt := 383, kt := 127 } = 1152 ∧
      1152 < workOf 0x8000 { probeM with mt := 191, nt := 383, kt := 128 } ∧ (curCtx (e 0x2000)).q.fmt = [] ∧
      (getStream (curCtx (e 0x2000)) .s).pc.toNat > (getStream (curCtx (e 0x2000)) .m).pc.toNat ∧
      ¬(getStream (curCtx (e 0x1000)) .s).pc.toNat > (getStream (curCtx (e 0x1000)) .m).pc.toNat := by decide +kernel

/-- A nest of two steps at level 0. -/
def testNest : Vector NestLevel 6 := (Vector.replicate 6 ⟨0, 0, 0, 0⟩).set 0 ⟨2, 0, 0, 0⟩

/-- FormatAndNestWords: the first and the last step of an MNEST of two steps. -/
theorem test_meets_Mnest :
    let q : NestRun := ⟨0x8000, Vector.replicate 6 0, 0, []⟩
    let s := probeTile 0x8000 fun c => { c with m := { c.m with shadow := testNest } }
    let t := probeTile 0x8000 fun c => { c with m := { c.m with active := testNest, nest := some q } }
    let i (l : Nat) := if l = 0 then 1 else 0
    (∀ l, l < 6 → i l < nestCount testNest l) ∧ linearIndex testNest (fun _ => 0) = 0 ∧ linearIndex testNest i = 1 ∧
      ((List.range 6).map (nestCount testNest)).prod = 2 ∧ (curCtx s).m.nest = none ∧ testNest = (curCtx s).m.shadow ∧
      (match tileChecks s 0x8000 probeM (nestBounds probeM testNest) with | .ok _ => true | _ => false) = true ∧
      (curCtx t).m.nest = some q ∧ testNest = (curCtx t).m.active ∧ (curCore t).fence ≠ 15 ∧
          q.linear + 1 = linearIndex testNest i ∧
      (∀ l, l < 6 → (q.counters.toList.getD l 0).toNat < nestCount testNest l) ∧
      (match claimSlices t 0 (tileSlices 0x8000 probeM) with | .ok _ => true | _ => false) = true := by decide +kernel

/-- MdrainConvertsItsTile: a drain to register space that ends with the view, and one past it; a drain to staging that
ends with its slice, and one past it; one into a pinned region. -/
theorem test_meets_Mdrain :
    let s := probeTile 0x8000 id
    let r := { probeM with bLay := true, bOff := 511 }
    let base (n : Nat) :=
        ((curCtx s).csr.vwt.extractLsb' 0 23).toNat + 32 * ((curCtx s).csr.vwt.extractLsb' 32 12).toNat * n
    formatOk 0x8000 = true ∧ TileFits r r.cIdx.toNat ∧ drainAt r 4 0 0 + 4 = 4 ∧ base 511 + 4 ≤ 0x440000 ∧
      base 511 + 4 ≤ ((curCtx s).csr.vwt.extractLsb' 0 23).toNat + 32 * ((curCtx s).csr.vwt.extractLsb' 32 12).toNat *
        ((curCtx s).csr.vwt.extractLsb' 48 13).toNat ∧ (512 : BitVec 16).toNat ≥ 512 ∧ 4 * 1 ≤ 32 * r.bLd.toNat ∧
      inSpec (curCtx s) .m = false ∧ 32 * 65535 + 4 ≤ 0x200000 ∧
      vWillWrite s 0 [(0, 12)] = false ∧ (curCtx s).m.pins = [] := by
  unfold TileFits
  decide +kernel

/-- One product node over leaves 0 and 1 of bank 0. -/
def probeP : PFields :=
    { mode := 0, shape := 0x4000, ops := 1, dst := 5, wb := 0, l0 := 0, l1 := 1, l2 := 0, l3 := 0, l4 := 0, l5 := 0, l6 := 0, l7 := 0 }

/-- TreeWordsEvaluateTheirShape: a tree of one node and its code; weights that end with their bank, and past it. -/
theorem test_meets_TreeWords :
    let s := probe .p id
    (Shape.node .leaf .leaf).inner ≤ 7 ∧
      (∀ n, n < (Shape.node .leaf .leaf).code.length → probeP.shape.getLsbD (14 - n) = (Shape.node .leaf .leaf).code.getD n false) ∧
      runs s = true ∧ (curCtx s).pmode = 14 ∧ (treeOf probeP).i ≤ 7 ∧ (treeOf probeP).l = (treeOf probeP).i + 1 ∧
      weightedBefore probeP 1 = 0 ∧ weightedBefore { probeP with ops := 0 } 1 = 1 ∧
      ((510 : BitVec 13).extractLsb' 0 9).toNat + 2 * 1 ≤ 512 ∧
          512 < ((511 : BitVec 13).extractLsb' 0 9).toNat + 2 * 1 := by
  decide +kernel

/-- Nothing that a P-word has issued has still to land. -/
theorem test_meets_Landed (plane : Nat) (r : BitVec 13) : Landed (probe .p id) plane r := fun _ h => by
  have e : (curCtx (probe .p id)).ppend = [] := by decide +kernel
  rw [e] at h
  cases h

/-- A result on its way to entry 1 of the value plane. -/
def testLanding : Pending := { Pending.none 0 (issueTag probeCtx .p 0) with banks := [(entryAt 0 1, [1, 2, 3, 4])] }

/-- TreeWordsEvaluateTheirShape, BankMovesAndFences: an entry that an earlier word has still to write. -/
theorem test_meets_NotLanded : ¬Landed (probe .p fun c => { c with ppend := [testLanding] }) 0 1 := fun h =>
  absurd (h testLanding (by decide +kernel) (entryAt 0 1, [1, 2, 3, 4]) (by decide +kernel)) (by decide +kernel)

/-- FlatWordsSumNormaliseAndConvert, DownwardPassAddsToTheLeaves: the modes and the limits of their weights and
destinations. -/
theorem test_meets_FlatWords :
    let f := { probeP with shape := 0x2000 }
    f.count ≤ 8 ∧ f.mode ≠ 1 ∧ (({ f with mode := 1 } : PFields)).mode = 1 ∧
      ((504 : BitVec 13).extractLsb' 0 9).toNat + 8 ≤ 512 ∧ 512 < ((505 : BitVec 13).extractLsb' 0 9).toNat + 8 := by
  decide +kernel

/-- BankMovesAndFences: entry 448, the last that a move may begin with, and 449; an entry in qap that has arrived, and
none; no A-stream; tokens at 0 and 255; results that have landed, and not. -/
theorem test_meets_BankMoves :
    let s := probe .p fun c => { c with q := { c.q with qap := [⟨0, some 7, false⟩] }, tokens := c.tokens.set 1 255 }
    let u := probe .p fun c => { c with streams := Vector.replicate 5 StreamState.off }
    ((448 : BitVec 13).extractLsb' 0 9).toNat ≤ 448 ∧ 448 < ((449 : BitVec 13).extractLsb' 0 9).toNat ∧
        runs s = true ∧
      (getStream (curCtx s) .a).enabled = true ∧ (getStream (curCtx u) .a).enabled = false ∧
          headSlot (curCtx s).q.qap = some 7 ∧
      headSlot (curCtx u).q.qap = none ∧ (curCtx s).ppend = [] ∧
      (curCtx (probe .p fun c => { c with ppend := [testLanding] })).ppend ≠ [] ∧
      (curCtx s).q.qpa.length + ((curCtx s).ppend.map fun p => p.qpa.length).sum < 16 ∧
      (curCtx s).tokens.get 0 = 0 ∧ (curCtx s).tokens.get 1 = 255 := by decide +kernel

/-- The state after reset with context 3 of function 0 enabled, and changed by f, and a running primary. -/
def probeContext (f : Context → Context) : State :=
  modContext (probeHub id) 3 fun c => f { c with enable := true, log2size := 4, cbase := 1 }

/-- CommandWindowsLatchTheirPacket: a window that shows a context, and one that shows none; a write that fills the window
and one that does not; a halted device. -/
theorem test_meets_CommandWindows :
    let s := probeContext fun c => { c with mask := 0x00FFFFFFFFFFFFFF }
    Shows s 0 3 3 ∧ (∀ y, ¬Shows s 0 4 y) ∧ 56 + 8 ≤ 64 ∧ s.pkg.cause = 0 ∧
      ({ s with pkg := { s.pkg with cause := 6 } } : State).pkg.cause ≠ 0 := by
  refine ⟨⟨by decide +kernel, by decide +kernel, by decide⟩, fun y h => ?_, by decide +kernel⟩
  have e : (4 : Nat) = y.val := h.2.2
  obtain rfl : y = 4 := Fin.ext e.symm
  exact absurd h.1 (by decide +kernel)

/-- PacketsAndCompletions: a FENCE at the head of a context's FIFO. -/
theorem test_meets_AtHead : ∃ u, AtHead (probeContext fun c => { c with fifo := [5] }) u 3 5 1 := by
  refine ⟨_, [], ?_, ?_, ?_, rfl⟩ <;> decide +kernel

/-- PacketsAndCompletions: packets of each opcode that are legal, and opcodes below and above them. -/
theorem test_meets_Packets : (packetOk 1 && packetOk 2 && packetOk 3 && packetOk 4 && packetOk 5) = true ∧
    packetOk 0 = false ∧ packetOk 6 = false := by decide +kernel

/-- PacketsAndCompletions: a resident slot with its template in memory, one that is not resident, and an armed launch. -/
theorem test_meets_Slots :
    let s := { probeContext id with slots := State.reset.slots.set 1 ⟨true, 0, 0, 0, 0, 0, 0⟩ }
    let a : Armed := ⟨3, 7, 0, Vector.replicate 8 0, 0, true, ⟨2, 1, 7, 0, false⟩⟩
    (s.slots.get 0).resident = false ∧ (s.slots.get 1).resident = true ∧
        (s.slots.get 1).owner = (getContext s 3).func ∧
      placeOf s 0 = .local ∧ placeOf s (0 + 255) = .local ∧ [a].length < 1024 ∧
      [a].find? (fun a => a.context == 3 && a.tag == 7) = some a ∧ a.fclass = 0 ∧ (getContext s 3).fences = [] ∧
      (getContext s 3).held = [] ∧ (getContext s 3).pendingCmds = [] := by decide +kernel

/-- PacketsAndCompletions: a launch of class 1 with every island at its point and with one below it; a FIRE that replaces
argument word 0; a FENCE with a command pending. -/
theorem test_meets_Classes :
    let s (point : BitVec 12) :=
        { probeContext fun c => { c with fifo := [5], pendingCmds := [0] } with fclassOp := point }
    let point (n : BitVec 12) := (s n).fclassOp.extractLsb' (4 * ((1 : BitVec 2).toNat - 1)) 4
    (∀ n : Fin 16, point 0 ≤ ((s 0).islands.get n).op) ∧ ((s 15).islands.get 0).op < point 15 ∧
      packetOk 0x10004 = true ∧ (0x10004 : BitVec 512).extractLsb' 16 4 = 1 ∧ frontReady (s 0) 3 = true ∧
      (getContext (s 0) 3).pendingCmds = [0] ∧ (∀ k ∈ (getContext (s 0) 3).pendingCmds, k ≤ (s 0).nextCmd) := by
  decide +kernel

/-- PacketsAndCompletions: a context with its ring in this card's memory and room for one record. -/
theorem test_meets_Completions :
    let s := probeContext fun c => { c with cprod := 15 }
    let c := getContext s 3
    s.pkg.cause = 0 ∧ s.disp.takeover = false ∧ c.held = [] ∧ c.fences = [] ∧ c.disabling = false ∧
      (c.cprod - c.ccons).toNat ≠ 2 ^ c.log2size.toNat ∧
      placeOf s (c.cbase.toNat * 4096 + 32 * (c.cprod.toNat % 2 ^ c.log2size.toNat)) = .local ∧
          Memory.wf s.mem = true := by
  decide +kernel

/-- A kernel of hardware queue 2 with one task that has ended, and with its record still to be written. -/
def testKernel (next : Nat) (live : List LiveTask) : Kernel :=
  { num := 9, slot := 1, record := parseRecord 0, rl := Vector.replicate 8 0, context := 3, origin := .packet 3 ⟨1, 1, 0, 0, false⟩ 4
    hwq := 2, next := next, live := live, status := none, ran := next, joules := 0, binds := [], bars := [], prods :=
        [], holds := []
    triggered := [], fatal := false, cancelled := false }

/-- ContextsSlotsAndKernels: a context that is not enabled, with a ring of the smallest size and of one below it; one with
nothing in progress; a ring that is full, with a record held, and CCONS up to CPROD and past it; a resident slot. -/
theorem test_meets_Contexts :
    let off (n : BitVec 4) := modContext State.reset 3 fun c => { c with log2size := n, cbase := 1 }
    let full := probeContext fun c => { c with cprod := 16, held := [⟨0, false, 0⟩] }
    (getContext (off 4) 3).enable = false ∧ placeOf (off 4) ((getContext (off 4) 3).cbase.toNat * 4096) = .local ∧
      4 ≤ (getContext (off 4) 3).log2size.toNat ∧ ¬4 ≤ (getContext (off 3) 3).log2size.toNat ∧
      (getContext (probeContext id) 3).enable = true ∧ (probeContext id).disp.kernels = [] ∧
          (probeContext id).armed = [] ∧
      (probeContext id).disp.holds = [] ∧ (probeContext id).disp.handed = [] ∧ (probeContext id).disp.heldDone = [] ∧
      (getContext full 3).held = [⟨0, false, 0⟩] ∧
          ((16 : BitVec 16) - 0).toNat ≤ ((getContext full 3).cprod - 0).toNat ∧
      ((getContext full 3).cprod - 0).toNat < ((17 : BitVec 16) - 0).toNat ∧
      ((getContext full 3).cprod - 1).toNat ≠ 2 ^ (getContext full 3).log2size.toNat := by decide +kernel

/-- ContextsSlotsAndKernels: a launch held for a frequency class, and a kernel all of whose tasks have ended. -/
theorem test_meets_Kernels :
    let h : Handed := ⟨9, 0, Vector.replicate 8 0, 1, 3, .packet 3 ⟨1, 1, 0, 0, false⟩ 4, none, true⟩
    let k := testKernel 1 []
    let s := { probeContext id with disp := { State.reset.disp with holds := [h], kernels := [k] } }
    s.disp.holds[0]? = some h ∧ h.origin = .packet 3 ⟨1, 1, 0, 0, false⟩ 4 ∧ findKernel s k.num = some k ∧
        kernelDone s k = true ∧
      k.origin = .packet 3 ⟨1, 1, 0, 0, false⟩ 4 ∧ (s.contexts.map Prod.fst).Pairwise (· < ·) ∧
          (∀ e ∈ s.contexts, e.1 < 1024) ∧
      (getContext s 4).enable = false := by decide +kernel

/-- HostAccessesReachCardMemory: BAR 2 of the size at reset and of the largest, an access that ends with it and one that
ends past it, and a request of the mailbox that is outstanding. -/
theorem test_meets_HostAccesses :
    let s := State.reset
    Memory.wf s.mem = true ∧ s.links.bar2 ≤ 39 ∧ (2 ^ s.links.bar2 - 8) % 8 = 0 ∧
        (2 ^ s.links.bar2 - 8) + 8 ≤ 2 ^ s.links.bar2 ∧
      2 ^ s.links.bar2 < (2 ^ s.links.bar2 - 4) + 8 ∧ (2 ^ s.links.bar2 - 4) % 8 ≠ 0 ∧ ∀ pa n, Settled s pa n :=
  ⟨by decide +kernel, by decide +kernel, by decide +kernel, by decide +kernel, by decide +kernel, by decide +kernel,
    fun _ _ _ h => by cases h⟩

/-- BridgeServesAndSignals: a message for this card's memory that is served, one of no bytes, and one for the other card's
memory. -/
theorem test_meets_Serves :
    let s := { State.reset with links := { State.reset.links with paired := true, up := true } }
    Serves s { s with walkFills := 0 } (2 ^ 39 - 64) 64 ∧ placeOf s (2 ^ 39) ≠ .local ∧
      (s.monitors.all fun m => m.line ≠ (2 ^ 39 - 64) / 64) = true ∧
      (s.monitors.filter fun m => homeSlice (m.line * 64) == homeSlice 0).length < 64 ∧ s.jobs = [] ∧
          s.samples = [] :=
  ⟨⟨by decide, by decide +kernel, by decide +kernel, by decide +kernel, fun _ h => (by cases h), fun _ h =>
      (by cases h), rfl⟩,
    by decide +kernel⟩

/-- BridgeServesAndSignals: a load, a WAITA, a write and an atomic of this card that wait for the peer, whose memory is the
card's other half. -/
theorem test_meets_PeerAnswers :
    let a : PeerAsk := ⟨4, 2 ^ 33, 0, 0, none⟩
    let s := probe .a fun c => { c with aq := { c.aq with loads := [{ testLoad with ask := [a] }] } }
    let u := probe .a fun c => { c with aq := { c.aq with
      waita := .asked 4 (2 ^ 39) 2, stores := [.atomic { testAtomic with sent := true }]
      inflight := [{ testStore with left := 4, part := ⟨2 ^ 39, 8, 0, 2, false⟩ }] } }
    (getCore s 0).ctx.aq.ask = [] ∧ (getCore s 0).ctx.aq.waita = .none ∧
        (getCore s 0).ctx.aq.loads = [{ testLoad with ask := [a] }] ∧
      a.num = 4 ∧ a.data = none ∧ (getCore u 0).ctx.aq.loads = [] ∧ (getCore u 0).ctx.aq.waita = .asked 4 (2 ^ 39) 2 ∧
      (getCore u 0).ctx.aq.inflight.length = 1 ∧ placeOf u (2 ^ 39) = .peer ∧
      (getCore u 0).ctx.aq.stores = [.atomic { testAtomic with sent := true }] := by decide +kernel

/-- BridgeServesAndSignals: a bridge that is up and one that is not; a packet that waits to be forwarded, on a trained
bridge and on one that is not. -/
theorem test_meets_BridgeEvents :
    let s := { modCore State.reset 0 fun k => { k with dbOut := [7] } with
      links := { State.reset.links with paired := true, up := true, trained := true } }
    s.links.paired = true ∧ s.links.up = true ∧ s.links.trained = true ∧ awayWrites s (tile 0) = false ∧
      (getCore s (tile 0)).dbOut = [7] ∧ (∀ d, (getCore s d).busy = false) ∧ State.reset.links.up = false ∧
      State.reset.links.trained = false ∧
          decide (0 < State.reset.pkg.serial.toNat) = decide (cardOf State.reset = 1) := by
  decide +kernel

/-- BridgeServesAndSignals: a line that tasks of the peer watch, for the withdrawal of one of them and for a signalling
write that is served. -/
theorem test_meets_Watches :
    let s := { State.reset with
      links := { State.reset.links with paired := true, up := true }, monitors := [⟨0x80, [], [5, 6]⟩] }
    Serves s { s with walkFills := 0 } 0x2000 8 ∧ (∀ e ∈ s.monitors, e.waiters ≠ [] ∨ e.peers ≠ []) ∧
      (∃ e ∈ s.monitors, e.line = 0x2000 / 64 ∧ 6 ∈ e.peers) ∧ 0x2000 % 8 = 0 ∧
      0x2000 / 64 = (0x2000 + (List.replicate 8 (0 : Byte)).length - 1) / 64 :=
  ⟨⟨by decide, by decide +kernel, by decide +kernel, by decide +kernel, fun _ h => (by cases h), fun _ h =>
      (by cases h), rfl⟩,
    by decide +kernel⟩

/-- BridgeServesAndSignals: a peer of lower serial number, on a card whose memory holds a byte. -/
theorem test_meets_CardNumber :
    let s := { State.reset with
      pkg := { State.reset.pkg with serial := 7 }, mem := [(0x2000, 1)] }
    s.links.up = false ∧ decide (7 < s.pkg.serial.toNat) = decide (cardOf s = 1) ∧
      decide (3 < s.pkg.serial.toNat) ≠ decide (cardOf s = 1) ∧ Memory.wf s.mem = true ∧
          (∀ d, (getCore s d).l1 = []) ∧
      ∀ e ∈ s.mem, e.1 < 2 ^ 40 → cardBase s ≤ e.1 ∧ e.1 < cardBase s + 2 ^ 39 := by
  decide +kernel

/-- The one task of a paired card, with its handler installed, that waits for the peer as f says. -/
def probeAway (f : AQueues → AQueues) : State :=
  { probe .a fun c => trapCtx { c with aq := f c.aq } with
    links := { State.reset.links with paired := true, up := true } }

/-- The task of probeAway with a load, an atomic, a WAITA, or a release of PAIR scope behind a store, at the peer. -/
def awayPart : Part := ⟨2 ^ 39, 8, 0, 2, false⟩
def awayLoad : State := probeAway fun q => { q with loads := [{ testLoad with parts := [awayPart] }] }
def awayAtomic : State := probeAway fun q => { q with stores := [.atomic { testAtomic with part := awayPart }] }
def awayWaita : State := probeAway fun q => { q with waita := .asked 4 (2 ^ 39) 2 }
def awayRelease : State :=
  probeAway fun q => { q with stores := [.rel 9 3], inflight := [{ testStore with part := awayPart }] }

/-- BridgeServesAndSignals: the bridge goes down with one task on its core, which waits for the peer. -/
theorem test_meets_BridgeDown : ∀ s, s = awayLoad ∨ s = awayAtomic ∨ s = awayWaita ∨ s = awayRelease →
    Handled s 0 ∧ s.links.paired = true ∧ s.links.up = true ∧ s.jwrites = [] ∧
    (∀ e, e ≠ 0 → (getCore s e).busy = false) ∧ placeOf s awayPart.pa = .peer ∧
    Quiet (modCtx s 0 fun t => { t with
      aq := { t.aq with loads := [], stores := [], inflight := [], waita := .none } }) 0 := by
  have rings : ∀ (f : AQueues → AQueues) (d : CoreId), ∀ x ∈ (getCore (probeAway f) d).rings, 0 ∉ x.waiters := by
    intro f d x h
    have e : (getCore (probeAway f) d).rings = Vector.replicate 32 ⟨0, 0, []⟩ :=
      probe_rings .a (fun c => trapCtx { c with aq := f c.aq }) d
    rw [e] at h
    rw [Vector.eq_of_mem_replicate h]
    exact List.not_mem_nil
  rintro s (rfl | rfl | rfl | rfl)
  all_goals
    refine ⟨?_, by decide +kernel, by decide +kernel, by decide +kernel, by decide +kernel, by decide +kernel,
      quiet_of (withdrawWaits_none (by decide +kernel) (by decide +kernel) (by decide +kernel) rfl rfl fun d x h =>
          ?_)
        (by decide +kernel)⟩
    · constructor <;> decide +kernel
    · rw [rings_modCtx] at h
      exact rings _ d x h

/-- The host writes two bytes of its own memory (log 80): they stand there, and nothing else changes. -/
theorem test_host_store : runTurn (.hostStore 8 [1, 2]) State.reset =
    .next { State.reset with hostMem := [(8, 1), (9, 2)] } := rfl

/-- A copy of len bytes in rows rows within the own scratchpad, as job 0 of the task on core 0. -/
def testJob (phase : JobPhase) (len rows : Nat) : Job :=
  jobWith (BitVec.ofNat 512 (1 + 0xFE * 2 ^ 24 + 0xFE * 2 ^ 192 + len * 2 ^ 224 + rows * 2 ^ 256)) phase

/-- JobsMoveAndComplete: a job that waits and may start with an engine free; lengths of 0 and of 4,096. -/
theorem test_meets_Jobs :
    let j := testJob .waiting 4096 1
    let s := { probe .a id with jobs := [j], disp := { State.reset.disp with order := [(true, 0)] } }
    (findJob s 0 = some j ∧ findJob s 1 = none ∧ j.phase = .waiting ∧ jobMayStart s j = true ∧
        j.card.extractLsb' 0 8 = 1 ∧
      freeEngine s (j.card.extractLsb' 0 8).toNat = some 64 ∧
      jobFenceDone s { j with engine := 64, phase := .running } = true ∧ j.row = 0 ∧ j.col = 0) ∧
    ((j.card.extractLsb' 224 32).toNat = 4096 ∧ j.card.extractLsb' 256 32 = 1 ∧ j.bar = none ∧ j.status = 0 ∧
      j.card.extractLsb' 64 64 ≠ BitVec.allOnes 64 ∧ ((testJob .waiting 0 1).card.extractLsb' 224 32).toNat = 0) := by
  decide +kernel

/-- Engine 64 in the name of core 0. -/
def testEngine : Acc0 := ⟨64, 5, 0, 0⟩

/-- That job of 8 bytes in one row as it runs, with these locations read. -/
def movingJob (seen : List (Nat × List Byte)) : Job :=
  { testJob .running 8 1 with engine := 64, io := { EngIo.none with seen := seen } }

/-- The card's one job. -/
def withJob (j : Job) : State :=
    { probe .a id with jobs := [j], disp := { State.reset.disp with order := [(true, 0)] } }

/-- JobsMoveAndComplete: a job between locations and one that has read its source, neither of which is held back. -/
theorem test_meets_MovingJobs :
    let read := [(scratchBase, List.replicate 8 (1 : Byte))]
    let j := movingJob read
    (movingJob []).io.seen = [] ∧ (movingJob []).io.put = 0 ∧ j.io.seen ≠ [] ∧ j.ending = false ∧
      holdsChunk (withJob (movingJob [])) (movingJob []) = false ∧
          jobFenceDone (withJob (movingJob [])) (movingJob []) = true ∧
      (match engRead (withJob (movingJob [])) EngIo.none testEngine (ownScratch 0) 8 with
        | .again io _ => decide (io.seen.map Prod.fst = [scratchBase])
        | _ => false) = true ∧
      (match (engRead (withJob j) j.io testEngine (ownScratch 0) 8).andThen fun data io u =>
          engWrite u io testEngine 0 false (ownScratch 0) data with
        | .ok () io _ => decide (io.put = 0)
        | _ => false) = true := by decide +kernel

/-- JobsMoveAndComplete: a gather job whose index array is to be read, and one whose row it gives as −1, which lies
before the source. -/
theorem test_meets_GatherJobs :
    let c : BitVec 512 := BitVec.ofNat 512 (2 + 0xFE * 2 ^ 200 + 8 * 2 ^ 224 + 2 ^ 256 + 64 * 2 ^ 320 + 2 ^ 448)
    let j := { jobWith c .running with buf := List.replicate 4 255 }
    c.extractLsb' 0 8 = 2 ∧ (c.extractLsb' 256 32).toNat = 1 ∧ (jobWith c .running).buf.length < 4 * 1 ∧
      (c.extractLsb' 448 64).toNat + 4 ≤ 2 ^ 64 ∧ 4 * 1 ≤ j.buf.length ∧
      (c.extractLsb' 64 64).toNat + (BitVec.ofNat 32 (bytesToNat ((j.buf.drop 0).take 4))).toInt *
        (c.extractLsb' 320 64).toInt < 0 := by decide +kernel

/-- JobsMoveAndComplete: an engine's access to a location of card memory. -/
theorem test_meets_EngineLocation :
    let s := withTables (probe .a id) 0x2000037
    let whole (r : Eng (List Part)) : Bool := match r with
      | .ok [p] io u => decide (placeOf u p.pa = .local ∧ p.len = 8 ∧ p.off = 0 ∧ p.pa / 8 = (p.pa + p.len - 1) / 8 ∧
          io.seen = [] ∧ io.put = 0 ∧ u.loose = [] ∧ Memory.wf u.mem = true)
      | _ => false
    whole (engResolve s EngIo.none testEngine 0 8 .read) = true ∧
        whole (engResolve s EngIo.none testEngine 0 8 .write) = true := by
  decide +kernel

/-- JobsMoveAndComplete: a job that is done, with room in the event queue and without, and one whose writes are out. -/
theorem test_meets_JobCompletion :
    let j := testJob .done 64 1
    let s (n : Nat) := { probe .a fun c => { c with q := { c.q with events := List.replicate n ⟨0, false⟩ } } with jobs := [j] }
    findJob (s 63) 0 = some j ∧ j.num = 0 ∧ coreHolding (s 63) j.task = some 0 ∧ j.phase = .done ∧ j.io.out = [] ∧
      (getCore (s 63) 0).ctx.q.events.length < 64 ∧ 64 ≤ (getCore (s 64) 0).ctx.q.events.length ∧ j.status < 256 ∧
          j.engine < 256 ∧
      ({ j with io := { j.io with out := [(0, 1)] } } : Job).io.out ≠ [] ∧
      inSequence { probeCtx with yieldPhase := .saving 0 0 } = true := by decide +kernel

/-- SamplerDrawsPushReplies: a request with an engine, with room in the reply queue and without; a fault that waits for
its answer, and one answered with RETRY and with FAIL. -/
theorem test_meets_Sampler :
    let s (n : Nat) := { probe .a fun c => { c with q := { c.q with reply := List.replicate n ⟨0, false⟩ } } with samples := [testSample] }
    let f (a : Option Bool) : Replay := ⟨some 3, 0, .read, a⟩
    ((s 31).samples.find? fun r => r.num == 0) = some testSample ∧ coreHolding (s 31) testSample.task = some 0 ∧
      withEngine (s 31) testSample = some 1 ∧ (getCore (s 31) 0).stop = none ∧
          ¬32 ≤ (getCore (s 31) 0).ctx.q.reply.length ∧
      32 ≤ (getCore (s 32) 0).ctx.q.reply.length ∧ testSample.replay = none ∧ testSample.decided = none ∧
      ({ testSample with replay := some (f none) } : Sample).replay = some (f none) ∧ (f none).record.isSome = true ∧
      (f (some true)).answer = some true ∧ (f (some false)).answer = some false := by decide +kernel

/-- JobsMoveAndComplete: a collective that an engine holds and that waits for its peer, and none. -/
theorem test_meets_Collectives :
    let j := { testJob .stalled 64 0 with card := BitVec.ofNat 512 3 }
    let s := { State.reset with jobs := [j], links := { State.reset.links with paired := true, up := true } }
    heldColl s (collTag j) = some j ∧ j.phase = .stalled ∧ (s.links.paired && s.links.up) = true ∧
        heldColl State.reset 0 = none := by
  decide +kernel

/-- SamplerDrawsPushReplies: a draw that is decided now, with no journal, and is the last of its request. -/
theorem test_meets_LastDraw :
    let d := sampleDesc 0
    let at_ := (d.draws 1).getD 0 (0, 0)
    (d.draws 1).length ≤ testSample.drawn + 1 ∧ d.journal = 0 ∧
      (match decideDraw (probe .a id) EngIo.none ⟨87, 5, 0, 0⟩ d false none at_.1 at_.2 with
        | .ok (v, ties, broke) io u => (match recordDraw u io.fresh ⟨87, 5, 0, 0⟩ 0 d true none at_.1 at_.2 ⟨v, ties, broke, u.seq, none⟩ with
            | (_, _, _, .done) => true
            | _ => false)
        | _ => false) = true := by decide +kernel

/-- JobsMoveAndComplete: a collective of one INT32 element that is begun, before its match, as the peer's match comes for
it and for two elements, and, matched, before its source is read and after; its buffers in the own scratchpad, or in card
memory. -/
theorem test_meets_Matches :
    let c (region : Nat) : BitVec 512 :=
      BitVec.ofNat 512 (3 + region * 2 ^ 24 + region * 2 ^ 192 + 9 * 2 ^ 208 + 1 * 2 ^ 224)
    let j (region : Nat) (matched : Bool) := { jobWith (c region) .running with engine := 84, matched := matched }
    let s (o : Job) := { withTables (withJob o) 0x2000037 with links := { State.reset.links with paired := true, up := true } }
    let here (r : Eng (List Part)) : Bool := match r with
      | .ok ps _ u => ps.all fun p => placeOf u p.pa = .local
      | _ => false
    let it := j 0 false
    heldColl (s it) 0 = some it ∧ jobOp it = 0 ∧ jobFmt it = 9 ∧ jobCount it = 1 ∧ (2 : Nat) ≠ jobCount it ∧
      (s it).links.peerColl = [] ∧ here (engResolve (s it) it.io ⟨84, 5, 0, 0⟩ (jobSource it) 4 .read) = true ∧
      here (engResolve (s it) it.io ⟨84, 5, 0, 0⟩ (jobDest it) 4 .write) = true ∧
      here (engResolve (s it) it.io ⟨84, 5, 0, 0⟩ (jobSource (j 0xFE false)) 4 .read) = false ∧
      (let on := j 0 true
      heldColl (s on) 0 = some on ∧ findJob (s on) on.num = some on ∧ on.buf.length < 1 * elementBytes 9 ∧
        (match engRead (s on) on.io ⟨84, 5, 0, 0⟩ (jobSource on) 4 with
          | .again _ _ => true
          | _ => false) = true ∧
        4 ≤ ({ on with buf := [1, 0, 0, 0] } : Job).buf.length ∧ (s on).links.chunks = [] ∧
        (match engWrite (s on) on.io ⟨84, 5, 0, 0⟩ 0 false (jobDest on) [3, 0, 0, 0] with
          | .ok () _ _ => true
          | _ => false) = true) := by decide +kernel

/-- JobsMoveAndComplete: formats of collectives, and elements of them. -/
theorem test_meets_Reduce : ∀ fmt ∈ [0, 1, 8, 9], 2 < 3 ∧ 256 ^ elementBytes fmt - 1 < 256 ^ elementBytes fmt :=
    by decide +kernel

/-- GovernorGrantsTheBudget, IslandsAndAccountsAreKept: after reset no write waits for the boundary; fixed islands that do
not fit the budget, and no island with a weight. -/
theorem test_meets_Governor :
    State.reset.pkg.cause = 0 ∧ (State.reset.gov.newCtl = none ∧ State.reset.gov.newEcost = none ∧
      ∀ i, (getIsland State.reset i).newCfg = none) ∧
      State.reset.pkg.contract.envelope ≤ State.reset.pkg.contract.sustained ∧
      (islandSum fun i => (getIsland State.reset i).gfix.toNat) = 0 ∧
          (islandSum fun i => (getIsland State.reset i).weight.toNat) = 256 ∧
      boardLimit State.reset * State.reset.gov.gint / 200 = 90 ∧
      (let s := { State.reset with islands := State.reset.islands.map fun i => { i with gfix := 255 } }
      90 < islandSum fun i => (getIsland s i).gfix.toNat) ∧
      let s := { State.reset with islands := State.reset.islands.map fun i => { i with weight := 0 } }
      (islandSum fun i => if (getIsland s i).gfix.toNat = 0 then (getIsland s i).weight.toNat else 0) = 0 :=
          by decide +kernel

/-- IslandsAndAccountsAreKept: islands below OPMIN, above OPMAX, with a step-down pending, and with more than twice their
need; a meter at its unit and below it; an account to be settled, and an escalated task that is saved. -/
theorem test_meets_Islands :
    let i := getIsland State.reset 0
    let v := savedTask ⟨1, 1⟩ probeCtx
    let e : Settling := ⟨⟨9, 0⟩, 0, probeCtx.acct, true⟩
    let s := { modIsland State.reset 0 fun i => { i with mmeter := 200000000, op := 0, opmin := 1, esc := some (⟨1, 1⟩, 5, 2) } with
      settling := [e], disp := { State.reset.disp with saved := [v], kernels := [testKernel 1 []] } }
    i.esc = none ∧ i.op = 7 ∧ i.opmin ≤ i.op ∧ 2 * i.need ≤ (i.total : Int) ∧ i.downPend = false ∧
        i.mmeter < 200000000 ∧
      (getIsland s 0).op < (getIsland s 0).opmin ∧ 200000000 ≤ (getIsland s 0).mmeter ∧
      (getIsland s 0).esc = some (v.ref, 5, 2) ∧ s.disp.saved = [v] ∧ s.settling[0]? = some e ∧ e.island = 0 ∧
          e.last = true ∧
      (findKernel s (BitVec.ofNat 32 e.ref.kernel)).isSome = true ∧ s.jobs = [] ∧ s.samples = [] ∧ s.jwrites = [] ∧
      (∀ e ∈ State.reset.disp.saved, resumeOne State.reset e (tile 0) = none) ∧
          (getCore State.reset (tile 0)).busy = false := by
  decide +kernel

/-- A state with two queues that hold a kernel of one task each: queue 2 with t tickets, and queue 5 with one. -/
def probeDraw (t : BitVec 16) (mode : Bool) : State :=
  let k (n q : Nat) : Kernel := { testKernel 0 [] with
    num := BitVec.ofNat 32 n, hwq := q
    record := { parseRecord 0 with levels := [], variants := Vector.replicate 4 ⟨0, 0, true, 0, 0⟩, asid := 5 } }
  { State.reset with disp := { State.reset.disp with
    drawMode := mode, kernels := [k 9 2, k 10 5], order := [(false, 9), (false, 10)], numbers := [9, 10]
    hwqs := (State.reset.disp.hwqs.set 2 ⟨0, true, false, false, t⟩).set 5 ⟨0, true, false, false,
        if t = 0 then 0 else 1⟩ } }

/-- TasksArePlacedAndEnd: queues that are eligible for core 0, with tickets and without; and none. -/
theorem test_meets_Draw :
    eligible (probeDraw 1 false) (tile 0) = [2, 5] ∧ eligible State.reset (tile 0) = [] ∧
      (eligible (probeDraw 0 true) (tile 0)).filter (fun q =>
          (vget (probeDraw 0 true).disp.hwqs q).tickets ≠ 0) = [] ∧
      (probeDraw 1 true).disp.drawMode = true ∧ coreOpen (probeDraw 1 false) (tile 0) = true ∧
      (headTask (probeDraw 1 false) 2).map (fun e => (e.2, taskFoots? e.1 e.2, gangOf e.1 e.2)) = some (0, some [],
          [0]) ∧
      (getIsland (probeDraw 1 false) 0).esc = none ∧ (getIsland (probeDraw 1 false) 0).downPend = false :=
          by decide +kernel

/-- A task that is over. -/
def overCtx (c : Ctx) : Ctx := { c with streams := c.streams.map fun x => { x with ended := true } }

/-- TasksArePlacedAndEnd: a task that is over, one that runs, and a trigger point that every stream has passed. -/
theorem test_meets_TaskOver :
    TaskOver (probe .s overCtx) (tile 0) ∧ live (getCore (probe .s id) (tile 0)).ctx .s = true ∧
      (getCore (probe .s fun c =>
          { overCtx c with trigger := some ⟨0, 0x1000, none⟩ }) (tile 0)).ctx.trigger = some ⟨0, 0x1000, none⟩ :=
  ⟨by constructor; case ended => intro st; cases st <;> decide +kernel
      all_goals decide +kernel, by decide +kernel⟩

/-- TasksArePlacedAndEnd: a primary that has trapped, with no standby and with one ready; and a take-over. -/
theorem test_meets_DispatchCores :
    let s := modCore State.reset 64 fun k => { k with stop := some ⟨wordTrap State.reset .s .access 0 0 4⟩ }
    let u := { s with disp := { s.disp with standbyOk := true } }
    PrimaryTrapped s ∧ s.disp.takeover = false ∧ s.pkg.cause = 0 ∧ s.disp.standbyOk = false ∧ s.contexts = [] ∧
        u.disp.standbyOk = true ∧
      ({ u with disp := { u.disp with takeover := true } } : State).disp.takeover = true := by
  unfold PrimaryTrapped
  decide +kernel

/-- A task that a dump saved to a slot in staging, whose bytes are all 0. -/
def testSaved : SavedTask :=
  { savedTask ⟨9, 0⟩ probeCtx with base := some (BitVec.ofNat 72 (0xFC * 2 ^ 64)) }

/-- A memory all of whose blocks are fresh is read back without an access. -/
theorem test_reads_fresh_blocks {n : Nat} {fresh : BitVec n} (hf : fresh = BitVec.allOnes n) (w : Acc0) (base : VAddr)
    (pos : Nat) (s : State) : readBlocks w base pos fresh s = some ([], s) := by
  have h : ∀ l : List Nat, (∀ b ∈ l, fresh.getLsbD b = true) → l.foldl (fun acc b => acc.bind fun (m, s) =>
      if fresh.getLsbD b then some (m, s)
      else (readSlot w base [(pos + 1024 * b, 1024)] s).map fun (d, s) => (memWriteN m (1024 * b) d, s))
        (some (([] : Memory), s)) = some ([], s) := by
    intro l
    induction l with
    | nil => intro _; rfl
    | cons b l ih =>
      intro hb
      rw [List.foldl_cons, Option.bind_some]
      simp only [hb b (List.mem_cons_self ..), if_true]
      exact ih fun c hc => hb c (List.mem_cons_of_mem _ hc)
  exact h _ fun b hb => by simp [hf, List.mem_range.mp hb]

/-- A read that succeeds, and then what goes on from it. -/
theorem test_bind_some {α β : Type} {o : Option α} {a : α} {f : α → Option β} (h : o = some a) (hf : (f a).isSome = true) :
    (o.bind f).isSome = true := by rw [h]; exact hf

/-- A list of zero bytes is the number 0. -/
theorem test_zero_bytes (l : List Byte) (h : l.all (· == 0) = true) : bytesToNat l = 0 := by
  induction l with
  | nil => rfl
  | cons b l ih =>
    rw [List.all_cons, Bool.and_eq_true, beq_iff_eq] at h
    rw [bytesToNat, h.1, ih h.2]; rfl

/-- Where the block map is 0, the blocks of a slot are read back when its scalar local memory can be. -/
theorem test_reads_slot {w : Acc0} {base : VAddr} {c : CoreId} {k : Core} {s : State} {map : Nat} (hm : map = 0)
    (h : (readSlot w base (slotPieces 0x570000 0x4000) s).isSome = true) : (restoreBlocks w base c map k s).isSome = true := by
  subst hm
  have e (n j : Nat) : ~~~ BitVec.ofNat n (0 / j) = BitVec.allOnes n := by simp
  have e0 (n : Nat) : ~~~ BitVec.ofNat n 0 = BitVec.allOnes n := by simp
  unfold restoreBlocks
  refine test_bind_some (test_reads_fresh_blocks (e0 _) _ _ _ _) ?_
  refine test_bind_some (test_reads_fresh_blocks (e _ _) _ _ _ _) ?_
  refine test_bind_some (test_reads_fresh_blocks (e _ _) _ _ _ _) ?_
  rw [Option.isSome_map]
  exact h

/-- A slot is read back where its fixed state can be, its block map is 0, and its scalar local memory can be. -/
theorem test_restores {s : State} {c : CoreId} {v : SavedTask} {base : VAddr} (hb : v.base = some base)
    (h : ((readSlot (saveAgent s c v.ctx.asid v.ctx.context) base (slotPieces 0 0x20000) s).map fun e =>
      ((e.1.drop 0x100).take 768).all (· == 0) &&
      (readSlot (saveAgent e.2 c v.ctx.asid v.ctx.context) base (slotPieces 0x570000 0x4000) e.2).isSome) = some true) :
    (restoreSlot s c v).isSome = true := by
  obtain ⟨e, he, hp⟩ := Option.map_eq_some_iff.mp h
  rw [Bool.and_eq_true] at hp
  unfold restoreSlot restoreFixed
  rw [hb, Option.bind_some, Option.bind_some, he, Option.map_some, Option.bind_some]
  exact test_reads_slot (test_zero_bytes _ hp.1) hp.2

/-- SavedTasksResume: a task that a dump saved to staging, whose kernel it is, and a free core that it may take. -/
theorem test_meets_Resume :
    let s := { State.reset with disp := { State.reset.disp with saved := [testSaved], kernels := [testKernel 1 []] } }
    let h := tile 0
    let k := testKernel 1 []
    let cost := classCost s (k.record.variants.get testSaved.ctx.launched)
    let i := (getIsland s (islandOf h)).metered
    let w := bumpVersions (modIsland s (islandOf h) fun _ => { i with
      total := i.total - cost, slot := if cost ≤ i.total - i.slot then i.slot else 0, need := i.need + cost }) h 4
    (s.disp.saved = [testSaved] ∧ kernelOf s testSaved.ref = some k ∧ testSaved.mode ≠ .yieldMode ∧
        testSaved.emPieces = [] ∧
      coreOpen s h = true ∧ boundTo k testSaved.ref.task 0 = true ∧ s.settling = [] ∧ (getCore s h).fence ≠ 15 ∧
      i.esc = none ∧ cost ≤ i.total ∧ i.downPend = false ∧ testSaved.ctx.warn = none ∧
          testSaved.ctx.m.suspect = none) ∧
    (restoreSlot w h testSaved).isSome = true := by
  refine ⟨by decide +kernel, test_restores rfl ?_⟩
  decide +kernel

/-- IslandsAndAccountsAreKept: a reservation slot that holds units, one that is empty, and a meter past its unit; a task
that owes more than it reserved. -/
theorem test_meets_Allowance :
    let i := { getIsland State.reset 0 with total := 100, slot := 7, mmeter := 450000000 }
    let a : Account := { probeCtx.acct with reserved := 1, settled := 0, work := 2 * 10 ^ 20, cal := 100 }
    i.metered.total = 98 ∧ i.metered.slot = 5 ∧ i.metered.mmeter = 50000000 ∧
      { i with slot := 0 }.metered.total = 98 ∧ 0 < { i with slot := 0 }.metered.slot ∧
      a.reserved < (coreJoules a % 2 ^ 64 + 199999999) / 200000000 - a.settled := by decide +kernel

/-- The streams of a task, with the S-stream alone and waiting. -/
def waitingAlone (c : Ctx) : Ctx :=
  { c with streams := (Vector.replicate 5 StreamState.off).set 0 ⟨0x1000, true, false, 0, [], 0, true⟩ }

/-- FatalStopsEndTheTask, PreemptionsSaveTheTask: a task of which a stop is captured at once; and, for its fatal ends, its
kernel with a hardware queue. -/
theorem test_meets_Stoppable :
    Stoppable (probe .s trapCtx) (tile 0) ∧
      (let s := { probe .s fun c => { c with task := ⟨9, 0⟩ } with disp := { State.reset.disp with kernels := [testKernel 1 []] } }
      (findKernel s (BitVec.ofNat 32 (getCore s (tile 0)).ctx.task.kernel)).map (·.hwq) = some 2) ∧
      (getCore State.reset (tile 0)).stop = none ∧ (getCore State.reset (tile 0)).busy = false :=
  ⟨⟨by decide, rfl, rfl, by decide, rfl, by decide +kernel, test_meets_Handled.2.1, by decide, rfl⟩,
      by decide +kernel⟩

/-- FatalStopsEndTheTask: a task whose one stream waits at a TWAIT, and one that runs. -/
theorem test_meets_Deadlock :
    let s := modCore (probe .s waitingAlone) 0 fun k => { k with
      itlb := [⟨true, 5, 0, 21, 0x43, 0x200000, 0⟩], icache := [⟨0x1000 / 64, 5, 0x2500000E⟩] }
    deadlocked s (tile 0) = true ∧ deadlocked (probe .s id) (tile 0) = false := by decide +kernel

/-- The task of core 0, whose context saves in mode m, with no slot, and an emergency area that is valid or not. -/
def probePreempt (m valid : Bool) (f : Ctx → Ctx) : State :=
  modContext (modCore (probe .s f) 0 fun k => { k with emValid := valid }) 0 fun x => { x with saveMode := m }

/-- PreemptionsSaveTheTask: a context in yield mode, one in dump mode, and one that forbids mid-task pre-emption, with no
slot; a valid emergency area and none; and a task asked to yield, or not. -/
theorem test_meets_Preemption :
    (∀ m valid, let s := probePreempt m valid id
      let x := getContext s (getCore s (tile 0)).ctx.context.val
      x.saveMode = m ∧ (getCore s (tile 0)).emValid = valid ∧ x.saveSlots = 0 ∧ x.slotsUsed = [] ∧ x.noMid = false ∧
      (getCore s (tile 0)).emBusy = false ∧ (getCore s (tile 0)).ctx.yieldPhase = .none ∧
          (getCore s (tile 0)).preempt = false ∧
      s.yields = [] ∧ Memory.wf s.mem = true) ∧
    (getCore (probePreempt false true fun c => { c with yieldPhase := .asked }) (tile 0)).ctx.yieldPhase = .asked ∧
    (getContext (modContext (probe .s id) 0 fun x => { x with noMid := true }) 0).noMid = true ∧
    ∀ o, o < 2 ^ 23 → placeOf (probePreempt false true id) (areaOf (probePreempt false true id) (tile 0) + o) = .local := by
  refine ⟨by decide +kernel, by decide +kernel, by decide +kernel, fun o h => ?_⟩
  have a : areaOf (probePreempt false true id) (tile 0) = 0 := by decide +kernel
  have k : cardOf (probePreempt false true id) = 0 := by decide +kernel
  unfold placeOf
  rw [a, k, if_pos (by omega), if_pos (by omega)]

/-- PreemptionsSaveTheTask: a context in yield mode whose task restores itself, with a pre-emption marked and with none;
and a task whose kernel the dispatcher has. -/
theorem test_meets_Restoring :
    let s (asked : Bool) := probePreempt true true fun c => { c with yieldPhase := .restoring 0x2000 asked }
    (∀ asked, (getCore (s asked) (tile 0)).busy = true ∧ (getCore (s asked) (tile 0)).stop = none ∧
      (getCore (s asked) (tile 0)).preempt = false ∧ (getContext (s asked) 0).saveMode = true ∧
      (getCore (s asked) (tile 0)).ctx.yieldPhase = .restoring 0x2000 asked) ∧
    (kernelOf { probe .s fun c => { c with task := ⟨9, 0⟩ } with
      disp := { State.reset.disp with kernels := [testKernel 1 []] } } ⟨9, 0⟩).isSome = true := by decide +kernel

/-- PreemptionsSaveTheTask: a save sequence that runs, and one that is over. -/
theorem test_meets_YieldSave :
    let y (f : Ctx → Ctx) : State :=
        { probePreempt true true fun c => f { c with yieldPhase := .saving 0x2000 0x3000 } with
      yields := [{ savedTask ⟨1, 0⟩ probeCtx with mode := .yieldMode }] }
    (getCore (y id) (tile 0)).ctx.yieldPhase = .saving 0x2000 0x3000 ∧
        (y id).yields.any (fun v => v.ref == ⟨1, 0⟩) = true ∧
      quietTask (y id) (tile 0) = false ∧ quietTask (y overCtx) (tile 0) = true ∧ (y overCtx).jobs = [] ∧
      (getCore (y overCtx) (tile 0)).emValid = true := by decide +kernel

/-- TrapQueueAnswers: a core and an engine to which an answer goes. -/
theorem test_meets_Answers : (5 : BitVec 7).toNat = (5 : Fin 64).val ∧ 64 ≤ (86 : BitVec 7).toNat ∧
    answered 3 true ⟨some 3, 0, .read, none⟩ = ⟨some 3, 0, .read, some true⟩ := by decide +kernel

/-- A pointer that can be followed leads a path on. -/
theorem test_path_down {s : State} {va l table next l' table' : Nat}
    (h : let pte := physNat s (table + 8 * tableIndex va (l + 1)) 8
      pte % 4 = 1 ∧ pte / 4 % 2 ^ 18 = 0 ∧ placeOf s (ptePa pte) = .local ∧ ptePa pte = next)
    (rest : TablePath s va l next l' table') : TablePath s va (l + 1) table l' table' := by
  obtain ⟨hv, hr, hp, rfl⟩ := h
  exact .down l table l' table' _ rfl hv hr hp rest

/-- WalksFollowTheTables: an AST entry for a table of level 3, the path through it to a SHARED leaf of a page of 4 KiB that
allows every access, and to an entry that is invalid. -/
theorem test_meets_Walk (pte : Word) (h : pte = 0x2000037 ∨ pte = 0) :
    let s := withTables (probe .a id) pte
    DataRoot s (getCore s 0).ctx.asid 3 0x10000 ∧ TablePath s 0 3 0x10000 0 0x13000 ∧ Memory.wf s.mem = true ∧
      0 < 2 ^ (9 * 3 + 21) ∧ physNat s (0x13000 + 8 * tableIndex 0 0) 8 = pte.toNat := by
  rcases h with rfl | rfl <;>
    exact ⟨⟨by decide +kernel, by decide +kernel, by decide, by decide, by decide +kernel, by decide +kernel⟩,
      test_path_down (next := 0x11000) (by decide +kernel) (test_path_down (next := 0x12000) (by decide +kernel)
        (test_path_down (by decide +kernel) (.here 0 0x13000))), by decide +kernel⟩

/-- WalksFollowTheTables: the leaf is valid, SHARED, at L0, without CONTIG, and grants reads and writes of this card's
memory. -/
theorem test_meets_Leaf : 0x2000037 % 4 = 3 ∧ 0x2000037 / 4 % 4 = 1 ∧ 0x2000037 / 2 ^ 7 % 2 = 0 ∧
    0x2000037 / 2 ^ 18 % 4 = 0 ∧
    ptePa 0x2000037 % 2 ^ 12 = 0 ∧ classAllowed (placeOf (probe .a id) (ptePa 0x2000037)) 1 = true ∧
    0x2000037 / 2 ^ 5 % 2 = 1 ∧ 0x2000037 / 2 ^ 4 % 2 = 1 := by decide +kernel

/-- A pending invalidation of core 0 of the page at 0x2000. -/
def testInval : Inval := ⟨0, 9, [(0x2000, 12)], none, false⟩

/-- Core 0 with such an invalidation. -/
def probeInval (f : Ctx → Ctx) : State := { probe .a f with invPend := [testInval] }

theorem probeInval_idle (c : CoreId) : (getCore (probeInval id) c).ctx.aq = AQueues.empty ∧
    (getCore (probeInval id) c).jio = EngIo.none := by
  decide +revert +kernel

/-- MemoryEventsComplete: no access is outstanding, or one is: a load, a question to the peer, or a job's write there. -/
theorem test_meets_Outstanding :
    ¬Outstanding (probeInval id) testInval ∧
      Outstanding (probeInval fun c =>
          { c with aq := { c.aq with loads := [⟨5, 0, .areg 3, [⟨0x2010, 8, 0, 1, false⟩], [], false, []⟩] } }) testInval ∧
      Outstanding (probeInval fun c =>
          { c with aq := { c.aq with ask := [⟨4, 0x2000 / 64, 0, 0, none⟩] } }) testInval ∧
      Outstanding { probeInval id with
        jobs := [{ jobWith 3 .running with io := { EngIo.none with out := [(5, 64)] } }] } testInval := by
  have page : ∀ pa len, pa < 0x2000 + 2 ^ 12 → 0x2000 < pa + len → Touches testInval pa len :=
    fun _ _ lo hi => ⟨(0x2000, 12), .head _, lo, hi⟩
  refine ⟨?_, .inl ⟨0, .inl ⟨_, .head _, by decide, _, .head _, page _ _ (by decide) (by decide)⟩⟩,
    .inl ⟨0, .inr (.inr (.inr (.inr (.inl ⟨_, .head _, rfl, page _ _ (by decide) (by decide)⟩))))⟩,
    .inr (.inl ⟨_, .head _, .inr (.inl ⟨_, .head _, by decide⟩)⟩)⟩
  have quiet : ¬EngineOut testInval EngIo.none := by rintro (⟨_, h, _⟩ | ⟨_, h, _⟩ | ⟨_, h, _⟩) <;> cases h
  rintro (⟨c, h⟩ | ⟨_, h, _⟩ | ⟨_, h, _⟩ | ⟨_, h, _⟩)
  · simp only [probeInval_idle] at h
    rcases h with ⟨_, h, _⟩ | ⟨_, h, _⟩ | ⟨_, h, _⟩ | ⟨_, h, _⟩ | ⟨_, h, _⟩ | h
    all_goals first | exact quiet h | cases h
  all_goals cases h

/-- MemoryEventsComplete: an invalidation that waits, and none. -/
theorem test_meets_Invalidation : (∀ f, (probeInval f).invPend.find? (fun v =>
    v.core == 0 && !v.done) = some testInval) ∧
    State.reset.invPend.find? (fun v => v.core == 0 && !v.done) = none := ⟨fun _ => rfl, by decide⟩

/-- MemoryEventsComplete: a WAITA that is registered, slices that are being filled and not, and a counter that is bound,
for which a SCDEC.WAIT waits. -/
theorem test_meets_MemoryEvents :
    let s := { probe .a fun c => { c with aq := { c.aq with waita := .registered 0x80 2, scWait := .queued 7 1 } } with
      counters := [(7, { testCounter 3 with fifo := [(0, 5)] })], slices := State.reset.slices.set 3 ⟨none, true⟩ }
    (getCore s 0).ctx.aq.waita = .registered 0x80 2 ∧ (∀ line d, (getCore s 1).ctx.aq.waita ≠ .registered line d) ∧
      (s.slices.get 3).scrub = true ∧ sliceQuiet s 3 = true ∧ (s.slices.get 2).scrub = false ∧
      tfind s.counters 7 = some { testCounter 3 with fifo := [(0, 5)] } ∧ tfind s.counters 8 = none ∧
      (getCore s 0).ctx.aq.scWait = .queued 7 1 := by
  have e (s : State) (h : (getCore s 1).ctx.aq.waita = .none) : ∀ line d,
      (getCore s 1).ctx.aq.waita ≠ .registered line d := by
    intro line d h'
    rw [h] at h'
    cases h'
  exact ⟨by decide +kernel, e _ (by decide +kernel), by decide +kernel⟩

/-- A result due at cycle n with these writes and nothing else. -/
def testResult (n : Nat) (regs banks : List (Nat × List Byte)) (masks : List (Nat × BitVec 256 × BitVec 256)) : Pending :=
  { Pending.none n (issueTag probeCtx .v 0) with regs := regs, banks := banks, masks := masks }

/-- ResultsStand: results of the V-stream that write registers and a mask register, with another due later; a result of the
P-stream; and writes at either end of the elements of register space. -/
theorem test_meets_Results :
    let v := testResult 1 [(0x3FFFF8, [1, 2, 3, 4])] [] []
    let m := testResult 1 [] [] [(7, 1, 1)]
    let p := testResult 1 [] [(0, [1])] []
    let s (v : Pending) := probe .s fun c => { c with vpend := [v, testResult 2 [] [] []], ppend := [p] }
    (∀ x ∈ [v, m], (getCore (s x) (tile 0)).ctx.vpend = [x, testResult 2 [] [] []] ∧
        (getCore (s x) (tile 0)).ctx.ppend = [p] ∧
      x.due < 2 ∧ (getCore (s x) (tile 0)).ctx.vcyc < 2) ∧
      0x3FFFF8 + [1, 2, 3, 4].length ≤ 0x3FFFFC ∧ Memory.wf (getCore (s v) (tile 0)).regs = true ∧
      Memory.wf (getCore (s v) (tile 0)).banks = true ∧ (getCore (probe .s id) (tile 0)).ctx.vpend = [] ∧
      (getCore (probe .s id) (tile 0)).ctx.ppend = [] ∧ (getCore (probe .s id) (tile 0)).ctx.m.cmd = none :=
          by decide +kernel

/-- A tile command that writes register space, with this signal. -/
def testCommand (token : Option (Fin 16)) : TileCmd :=
  { testCmd with tile := true, regs := [(0x400000, [1, 2])], token := token, pc := 0x1000, cidx := 4, rerun := true
                 array := 64 }

/-- ResultsStand: a tile command that is at work, with no signal, one that can be given, and one whose count is 255. -/
theorem test_meets_TileCommand :
    let s (x : Option (Fin 16)) := probe .m fun c => { c with
      tokens := c.tokens.set 3 255, m := { c.m with cmd := some (testCommand x) } }
    (∀ x ∈ [none, some 3, some 4], (getCore (s x) (tile 0)).ctx.m.cmd = some (testCommand x) ∧
        (testCommand x).landed = false ∧
      (testCommand x).stage = [] ∧ (getCore (s x) (tile 0)).ctx.vpend = []) ∧
      (getCore (s none) (tile 0)).ctx.tokens.get 3 = 255 ∧ (getCore (s none) (tile 0)).ctx.tokens.get 4 ≠ 255 :=
          by decide +kernel

/-- ResultsStand: an MROWMASK that runs. -/
theorem test_meets_RowMask :
    let x := { testCmd with work := .rowMask 0x400000 }
    let k := getCore (probe .m fun c => { c with m := { c.m with cmd := some x } }) (tile 0)
    k.ctx.m.cmd = some x ∧ x.landed = false ∧ x.stage = [] ∧ x.regs = [] ∧ x.raced = [] ∧ k.ctx.vpend = [] ∧
      x.token = none := by decide +kernel

/-- SelfTestsGuardTheArray: a test that is due, one that runs, one behind tile commands, and the test of an MTEST with a
signal, for which there is room or none. -/
theorem test_meets_SelfTest :
    let s (f : MState → MState) := probe .m fun c => { c with tokens := c.tokens.set 3 255, m := f c.m }
    let m (f : MState → MState) := (getCore (s f) (tile 0)).ctx.m
    (live (getCore (s id) (tile 0)).ctx .m = true ∧ (m id).testing = false ∧ (m id).cmd = none ∧
        (m id).tested = false ∧
      (getCore (s id) (tile 0)).fence ≠ 15) ∧
    (m fun x => { x with testing := true }).testing = true ∧
    (let x := m fun x => { x with testing := true, sfirst := some (4, 0), slast := some (6, 1) }
     x.sfirst = some (4, 0) ∧ x.slast = some (6, 1) ∧ x.again = none ∧ (1 : BitVec 4) ≠ 0) ∧
    (∀ y, (m fun x => { x with testing := true, mtest := some (testCommand y) }).mtest = some (testCommand y)) ∧
    (getCore (s id) (tile 0)).ctx.tokens.get 3 = 255 ∧ (getCore (s id) (tile 0)).ctx.tokens.get 4 ≠ 255 := by
  refine ⟨by decide +kernel, by decide +kernel, by decide +kernel, fun y => rfl, by decide +kernel⟩

/-- DeviceBootsAndTrips: the device at each layer of the boot, one that has halted, and one that has booted. (Whether an
image verifies, and the secret of the device, are free.) -/
theorem test_meets_Boot :
    let s (n : BitVec 3) (p : Package → Package) : State :=
        { State.reset with pkg := p { State.reset.pkg with layer := n } }
    (∀ n, ((s n id).pkg.layer = n ∧ (s n id).pkg.cause = 0 ∧ (s n id).pkg.bootDone = false)) ∧
      (s 0 fun p => { p with cause := 6 }).pkg.cause ≠ 0 ∧ (s 3 fun p =>
          { p with bootDone := true }).pkg.bootDone = true ∧
      (s 1 fun p => { p with flash := p.flash.set 2 ⟨[1], [1]⟩ }).pkg.layer.toNat = 1 ∧
      recordOf (s 1 fun p => { p with flash := p.flash.set 2 ⟨[1], [1]⟩ }) 2 ≠ [] ∧ recordOf State.reset 2 = [] ∧
      recordOf State.reset 5 = [] ∧ recordOf State.reset 4 = [] := by
  exact ⟨fun _ => ⟨rfl, rfl, rfl⟩, by decide +kernel⟩

/-- MailboxServesItsOperations: no operation and one that runs, an aligned and a misaligned address, and a cold device
with a connector. -/
theorem test_meets_Mailbox :
    let s (o : Option MailOp) (a : BitVec 64) : State :=
        { State.reset with pkg := { State.reset.pkg with umop := o, umaddr := a } }
    (s none 64).pkg.umop = none ∧ (s none 64).pkg.umaddr.toNat % 64 = 0 ∧ (s none 65).pkg.umaddr.toNat % 64 ≠ 0 ∧
      Memory.wf (s none 64).hostMem = true ∧ ((16777216 : BitVec 32).toNat ≤ 16777216 ∧
          16777216 < (16777217 : BitVec 32).toNat) ∧
      ((65536 : BitVec 32).toNat ≤ 65536 ∧ 65536 < (65537 : BitVec 32).toNat) ∧ ((8 : BitVec 32).toNat = 8) ∧
          (7 : BitVec 32).toNat < 8 ∧
      (s (some ⟨none, 0, true⟩) 0).pkg.umop = some ⟨none, 0, true⟩ ∧ (s (some ⟨none, 0, true⟩) 0).pkg.layer = 0 ∧
      ({ State.reset.pkg with connector := 300 } : Package).connector ≠ 0 ∧
      (s (some ⟨some (1, [7]), 0, false⟩) 0).pkg.umop = some ⟨some ((1 : Fin 16).val, [7]), 0, false⟩ :=
          by decide +kernel

/-- RegistersTakeTheirWrites, RegistersReadTheirFields: a device that runs and one that has halted; a write that is not
aligned; and an emergency area of which no saved task needs what it holds. -/
theorem test_meets_Registers :
    State.reset.pkg.cause = 0 ∧ ({ State.reset.pkg with cause := 6 } : Package).cause ≠ 0 ∧ 0x404 % 8 ≠ 0 ∧
        0x400 % 8 = 0 ∧
      0x400 ≠ 0x140 ∧ 0x400 ≠ 0x148 ∧ State.reset.disp.saved = [] ∧ State.reset.trapq.length < 512 ∧
      (∀ c : Fin 64, (getCore State.reset (tile c)).latched = none) ∧ State.reset.disp.kernels = [] ∧
      (0 : Word).getLsbD 0 = false := by decide +kernel

/-- The text of ASID 5 at 0x1000 in the instruction cache: one line. -/
def probeText (st : Stream) (line : BitVec 512) (f : Ctx → Ctx) : State :=
  modCore (probe st f) 0 fun k => { k with
    itlb := [⟨true, 5, 0, 21, 0x43, 0x200000, 0⟩], icache := [⟨0x1000 / 64, 5, line⟩] }

/-- A fetch gives this word. -/
def fetchesWord (s : State) (c : CoreId) (asid : BitVec 16) (n pc w : Nat) : Bool :=
  match fetchWord s c asid n pc with
  | (.ok v, _) => v == w
  | _ => false

/-- A stream finds the word that its fetches give. -/
theorem test_finds {s : State} {c : CoreId} {st : Stream} {n first rest w : Nat}
    (h1 : fetchesWord s c (getCore s c).ctx.asid 1 (getStream (getCore s c).ctx st).pc.toNat first = true)
    (hn : n = tagParcels (tagOf first))
    (h2 : ∀ u, u = (fetchWord s c (getCore s c).ctx.asid 1 (getStream (getCore s c).ctx st).pc.toNat).2 →
      fetchesWord u c (getCore s c).ctx.asid (n - 1) (((getStream (getCore s c).ctx st).pc.toNat + 4) % 2 ^ 64) rest = true)
    (hw : w = first + 2 ^ 32 * rest) : ∃ v, Finds s v c st n w := by
  rcases e1 : fetchWord s c (getCore s c).ctx.asid 1 (getStream (getCore s c).ctx st).pc.toNat with ⟨r1, u⟩
  have h2 := h2 u (by rw [e1])
  rcases e2 : fetchWord u c (getCore s c).ctx.asid (n - 1) (((getStream (getCore s c).ctx st).pc.toNat + 4) % 2 ^ 64) with ⟨r2, v⟩
  unfold fetchesWord at h1 h2
  rw [e1] at h1
  rw [e2] at h2
  obtain _ | a := r1
  · cases h1
  obtain _ | b := r2
  · cases h2
  obtain rfl : a = first := eq_of_beq h1
  obtain rfl : b = rest := eq_of_beq h2
  exact ⟨v, a, b, u, e1, hn, e2, hw⟩

/-- TurnsRunTheirWord: the S-stream may issue and finds ADD; the V-stream finds a word of three parcels; and a word of the
S-stream that is refused. -/
theorem test_meets_Turns :
    (∃ v, Finds (probeText .s 0x010C4140 id) v 0 .s 1 0x010C4140) ∧
    (∃ v, Finds (probeText .v 0x00001009_0142100A_C0180010 id) v 0 .v 3 0x00001009_0142100A_C0180010) ∧
    (∃ v, Finds (probeText .s 0x3F000000 id) v 0 .s 1 0x3F000000) ∧
    mayIssue (probeText .s 0x010C4140 id) 0 .s = true ∧ mayIssue (probeText .v 0 id) 0 .v = true ∧
    (getCore (probeText .s 0 id) 0).ctx.atEntry = false ∧
    tagStream (tagOf 0x010C4140) = some .s ∧ tagStream (tagOf 0xC0180010) = some .v := by
  exact ⟨test_finds (rest := 0) (first :=
      0x010C4140) (by decide +kernel) (by decide +kernel) (by rintro _ rfl; decide +kernel) rfl,
    test_finds (rest := 0x00001009_0142100A) (first := 0xC0180010) (by decide +kernel) (by decide +kernel)
      (by rintro _ rfl; decide +kernel) rfl,
    test_finds (rest := 0) (first :=
        0x3F000000) (by decide +kernel) (by decide +kernel) (by rintro _ rfl; decide +kernel) rfl,
    by decide +kernel⟩

/-- A tile core with no task, whose firmware context runs the text. -/
def probeFirmware (offline : Bool) : State :=
  modCore { State.reset with schedule := [.firmware 0] } 0 fun k => { k with
    offline := offline
    fw := { k.fw with running := true, ctx := { probeCtx with system := true } }
    itlb := (getCore (probeText .s 0 id) 0).itlb
    icache := [⟨0x1000 / 64, 5, 0x010C4140⟩] }

/-- That core as its firmware context takes the slot. -/
def firmwareTurn : State :=
  modCore (passSlots (probeFirmware false) (tile 0) [true]) (tile 0) fun k => { k with
    busy := true, stop := none, ctx := k.fw.ctx, fw := { k.fw with ctx := k.ctx } }

/-- TurnsRunTheirWord: a firmware context that runs and finds ADD, which it completes; and one of an offline core. -/
theorem test_meets_Firmware :
    (∃ v, Finds firmwareTurn v (tile 0) .s 1 0x010C4140) ∧
      (let k := getCore (probeFirmware false) (tile 0)
      k.fw.running = true ∧ k.offline = false ∧ (probeFirmware false).pkg.cause = 0 ∧
        k.fw.slots.count true < 2 ^ k.fwshare.toNat ∧ k.fw.ctx.atEntry = false) ∧
      (getCore (probeFirmware true) (tile 0)).offline = true ∧
      (match resumed firmwareTurn (tile 0) .s (exec (.add 3 4 5) (atWord firmwareTurn (tile 0) .s 0x010C4140)) with
        | .next _ => true
        | _ => false) = true :=
  ⟨test_finds (rest := 0) (first :=
      0x010C4140) (by decide +kernel) (by decide +kernel) (by rintro _ rfl; decide +kernel) rfl,
    by decide +kernel⟩

/-- The bits of a word that is accepted. -/
def accepted (w : Nat) : Bool := match decodeWord w with | .ok _ => true | .error _ => false

/-- TurnsRunTheirWord: words that are accepted and one that is refused; a word of a stream that another stream passes;
events of the schedule and of the outside world; and a rotation that picks a stream. -/
theorem test_meets_MoreTurns :
    accepted 0x010C4140 = true ∧ accepted 0x00001009_0142100A_C0180010 = true ∧ accepted 0x3F000000 = false ∧
      tagOf 0x9C000000 ≠ 15 ∧ tagStream (tagOf 0x9C000000) ≠ some .v ∧ tagStream (tagOf 0x9C000000) ≠ some .s ∧
      fetchesWord (probeText .v 0x9C000000 id) 0 5 1 0x1000 0x9C000000 = true ∧
      encodeWord (.draw 0) = none ∧ (pickFrom (probeText .s 0 id) 0).isSome = true ∧
      (probeText .s 0 id).inputs = [] ∧ (probeText .s 0 id).schedule = [] := by decide +kernel

/-- TextComesFromMemory: a page of text in this card's memory that the core's instruction TLB holds, and no line of it.
-/
theorem test_meets_Text :
    let e : TlbEntry := ⟨true, 5, 0, 21, 0x43, 0x200000, 0⟩
    let s := modCore (probe .s id) 0 fun k => { k with itlb := [e] }
    0x1000 % 4 = 0 ∧ (getCore s 0).itlb.find? (fun e => e.fetch && (e.asid == 5 || e.leaf.getLsbD 10) &&
      e.va / 2 ^ e.bits == 0x1000 / 2 ^ e.bits) = some e ∧ e.leaf.getLsbD 6 = true ∧ 12 ≤ e.bits ∧ e.pa % 64 = 0 ∧
      (getCore s 0).icache = [] ∧ (getIsland s (islandOf 0)).ibuf = [] ∧ ∀ o,
          o < 2 ^ e.bits → placeOf s (e.pa + o) = .local := by
  refine ⟨rfl, by decide +kernel, by decide +kernel, by decide +kernel, by decide +kernel, by decide +kernel,
      by decide +kernel, ?_⟩
  intro o h
  have h : o < 2 ^ 21 := h
  have k : cardOf (modCore (probe .s id) 0 fun k => { k with itlb := [⟨true, 5, 0, 21, 0x43, 0x200000, 0⟩] }) = 0 :=
      by
    decide +kernel
  show placeOf _ (0x200000 + o) = .local
  unfold placeOf
  rw [k, if_pos (by omega), if_pos (by omega)]

/-- EncodingAndDecodingAgree: words with an encoding that are well formed; and an event, which has none. -/
theorem test_meets_Encoding :
    encodeWord (.add 3 4 5) = some 0x010C4140 ∧ (Instr.add 3 4 5).wellFormed = true ∧
      encodeWord (.draw 0) = none := by decide +kernel

/-- StepsKeepMemoriesCanonical: memoryOk holds of the state after reset. -/
theorem test_meets_memoryOk : memoryOk State.reset := by
  unfold memoryOk
  decide +kernel

end Sys2Proof
end

section
/-!
PROOFS. The governor shares the budget of an interval among the islands (01 R20; 04 R98, R101). Three parts: the
walk that gives the units left over is a matter of lists and numbers alone; the state whose budget is computed has the
registers of the state before it; and what follows the computation of the grants changes neither the governor nor a
grant.
-/
namespace Sys2Proof.Machine

/-! ### Sums over the islands -/

/-- The list of a function's values over the islands, as the governor writes it down. -/
theorem map_range_ofNat {α : Type} (F : IslandId → α) :
    ((List.range 16).map fun i => F (Fin.ofNat 16 i)) = (List.finRange 16).map F := by
  rw [← List.map_coe_finRange_eq_range, List.map_map]
  exact List.map_congr_left fun i _ => congrArg F (Fin.ofNat_val_eq_self i)

theorem total_eq_sum (l : List Nat) : total l = l.sum := List.sum_eq_foldl.symm

theorem total_map_finRange (F : IslandId → Nat) : total ((List.finRange 16).map F) = islandSum F := total_eq_sum _

theorem total_map_range (F : IslandId → Nat) :
    total ((List.range 16).map fun i => F (Fin.ofNat 16 i)) = islandSum F := by
  rw [map_range_ofNat, total_map_finRange]

/-- A sum over the islands for which p holds. -/
theorem total_map_filter_range (p : IslandId → Bool) (F : IslandId → Nat) :
    total (((List.range 16).filter fun i => p (Fin.ofNat 16 i)).map fun i => F (Fin.ofNat 16 i)) =
      islandSum fun i => if p i = true then F i else 0 := by
  rw [← total_map_range, total_eq_sum, total_eq_sum, List.sum_map_ite]
  simp

theorem map_finRange_getD (F : IslandId → Nat) (i : IslandId) : ((List.finRange 16).map F).getD i.val 0 = F i := by
  simp [List.getD_eq_getElem?_getD]

theorem islandSum_getD {g : List Nat} (hg : g.length = 16) : (islandSum fun i => g.getD i.val 0) = g.sum := by
  refine congrArg List.sum (List.ext_getElem (by simp [hg]) fun n h _ => ?_)
  have : n < g.length := by simpa [hg] using h
  simp [this]

theorem islandSum_add (f g : IslandId → Nat) : (islandSum fun i => f i + g i) = islandSum f + islandSum g :=
  List.sum_map_add

/-! ### Shares by weight: the floors leave fewer units than there are sharers -/

theorem sum_floors_le (w : IslandId → Nat) (r W : Nat) (l : List IslandId) :
    W * (l.map fun i => r * w i / W).sum ≤ r * (l.map w).sum := by
  induction l with
  | nil => simp
  | cons i l ih =>
    have := Nat.mul_div_le (r * w i) W
    simp only [List.map_cons, List.sum_cons, Nat.mul_add]
    omega

theorem le_sum_floors_add_sharers (w : IslandId → Nat) (shares : IslandId → Bool) (r : Nat) {W : Nat} (hW : 0 < W)
    (hs : ∀ i, shares i = true ↔ w i ≠ 0) (l : List IslandId) :
    r * (l.map w).sum ≤ W * ((l.map fun i => r * w i / W).sum + l.countP shares) := by
  induction l with
  | nil => simp
  | cons i l ih =>
    simp only [List.map_cons, List.sum_cons, List.countP_cons, Nat.mul_add] at ih ⊢
    by_cases h : shares i = true
    · have := Nat.lt_mul_div_succ (r * w i) hW
      rw [Nat.mul_add] at this
      simp only [h, if_true]
      omega
    · have : w i = 0 := by simpa [hs i] using h
      simp only [h, this]
      omega

/-- What island i gets before the units left over: c of its own, and its floor of r units by weight. -/
def floorShare (c w : IslandId → Nat) (r : Nat) (i : IslandId) : Nat := c i + r * w i / islandSum w

theorem islandSum_floorShare (c w : IslandId → Nat) (r : Nat) :
    islandSum (floorShare c w r) = islandSum c + islandSum fun i => r * w i / islandSum w :=
  islandSum_add c fun i => r * w i / islandSum w

theorem islandSum_floorShare_le (c w : IslandId → Nat) (r : Nat) (hW : islandSum w ≠ 0) :
    islandSum (floorShare c w r) ≤ islandSum c + r := by
  rw [islandSum_floorShare]
  have h := sum_floors_le w r (islandSum w) (List.finRange 16)
  rw [show ((List.finRange 16).map w).sum = islandSum w from rfl, Nat.mul_comm r] at h
  exact Nat.add_le_add_left (Nat.le_of_mul_le_mul_left h (Nat.pos_of_ne_zero hW)) _

theorem le_islandSum_floorShare_add_sharers (c w : IslandId → Nat) (shares : IslandId → Bool) (r : Nat)
    (hW : islandSum w ≠ 0) (hs : ∀ i, shares i = true ↔ w i ≠ 0) :
    islandSum c + r ≤ islandSum (floorShare c w r) + (List.finRange 16).countP shares := by
  rw [islandSum_floorShare, Nat.add_assoc]
  have h := le_sum_floors_add_sharers w shares r (Nat.pos_of_ne_zero hW) hs (List.finRange 16)
  rw [show ((List.finRange 16).map w).sum = islandSum w from rfl, Nat.mul_comm r] at h
  exact Nat.add_le_add_left (Nat.le_of_mul_le_mul_left h (Nat.pos_of_ne_zero hW)) _

/-! ### The walk that gives the units left over -/

/-- Of the first m islands of the walk from island k, those for which shares holds. -/
def visited (shares : IslandId → Bool) (k m : Nat) : Nat :=
  ((List.range m).filter fun j => shares (Fin.ofNat 16 (k + j))).length

theorem sharersBefore_eq_visited (shares : IslandId → Bool) (k : Nat) (i : IslandId) :
    sharersBefore shares k i = visited shares k ((i.val + 16 - k % 16) % 16) := rfl

@[simp] theorem visited_zero (shares : IslandId → Bool) (k : Nat) : visited shares k 0 = 0 := rfl

theorem visited_succ (shares : IslandId → Bool) (k m : Nat) :
    visited shares k (m + 1) = visited shares k m + (shares (Fin.ofNat 16 (k + m))).toNat := by
  rw [visited, List.range_succ, List.filter_append, List.length_append]
  cases h : shares (Fin.ofNat 16 (k + m)) <;> simp [-Fin.ofNat_eq_cast, visited, h]

theorem visited_succ_start (shares : IslandId → Bool) (k m : Nat) :
    visited shares k (m + 1) = (shares (Fin.ofNat 16 k)).toNat + visited shares (k + 1) m := by
  induction m with
  | zero => simp [visited_succ]
  | succ m ih => rw [visited_succ, ih, visited_succ _ (k + 1), Nat.add_assoc, Nat.add_right_comm k, Nat.add_assoc k]

theorem visited_mono (shares : IslandId → Bool) (k m r : Nat) : visited shares k m ≤ visited shares k (m + r) := by
  induction r with
  | zero => exact le_rfl
  | succ r ih => rw [← Nat.add_assoc, visited_succ]; omega

/-- Sixteen visits, from whatever island on, meet every sharer once. -/
theorem visited_around (shares : IslandId → Bool) (k : Nat) :
    visited shares k 16 = (List.finRange 16).countP shares := by
  induction k with
  | zero =>
    rw [← List.map_id (List.finRange 16), ← map_range_ofNat, List.countP_map, List.countP_eq_length_filter, visited]
    simp [Function.comp_def]
  | succ k ih =>
    have hfirst := visited_succ_start shares k 16
    have hlast := visited_succ shares k 16
    have : Fin.ofNat 16 (k + 16) = Fin.ofNat 16 k := Fin.ext (by simp)
    rw [this] at hlast
    omega

theorem listMod_eq_modify {α : Type} (l : List α) (i : Nat) (f : α → α) : listMod l i f = l.modify i f := by
  induction l generalizing i with
  | nil => cases i <;> rfl
  | cons a l ih => cases i <;> simp [listMod, ih]

theorem listMod_succ_sum (g : List Nat) (i : Nat) (hi : i < g.length) : (listMod g i (· + 1)).sum = g.sum + 1 := by
  induction g generalizing i with
  | nil => simp at hi
  | cons a g ih =>
    cases i with
    | zero => simp only [listMod, List.sum_cons]; omega
    | succ i => simp only [listMod, List.sum_cons, ih i (by simpa using hi)]; omega

theorem listMod_succ_getD (g : List Nat) (i j : Nat) (hi : i < g.length) :
    (listMod g i (· + 1)).getD j 0 = g.getD j 0 + if i = j then 1 else 0 := by
  rw [listMod_eq_modify, List.getD_eq_getElem?_getD, List.getD_eq_getElem?_getD, List.getElem?_modify]
  by_cases h : i = j
  · subst h; simp [hi]
  · simp [h]

section
variable {l : List Nat} {shares : IslandId → Bool} (hl : ∀ i : IslandId, l.contains i.val = shares i)

theorem leftovers_zero (fuel k : Nat) (g : List Nat) : leftovers l fuel 0 k g = g := by
  cases fuel <;> simp [leftovers]

include hl

/-- One visit gives one unit, where one is left and the island shares. -/
theorem leftovers_one (n k : Nat) (g : List Nat) :
    leftovers l 1 n k g =
      if n ≠ 0 ∧ shares (Fin.ofNat 16 k) = true then listMod g (Fin.ofNat 16 k).val (· + 1) else g := by
  rw [← hl]
  by_cases hn : n = 0
  · simp [hn, leftovers_zero]
  · simp [leftovers, hn]

/-- The first visit of the walk, and the visits after it. -/
theorem leftovers_succ_start (m n k : Nat) (g : List Nat) :
    leftovers l (m + 1) n k g =
      leftovers l m (n - (shares (Fin.ofNat 16 k)).toNat) (k + 1) (leftovers l 1 n k g) := by
  by_cases hn : n = 0
  · simp [hn, leftovers_zero]
  · have hk : l.contains (k % 16) = shares (Fin.ofNat 16 k) := hl (Fin.ofNat 16 k)
    rw [leftovers, leftovers, hk, if_neg hn, if_neg hn]
    cases shares (Fin.ofNat 16 k) <;> rfl

/-- The last visit of the walk, with the units that those before it left. -/
theorem leftovers_succ (m n k : Nat) (g : List Nat) :
    leftovers l (m + 1) n k g = leftovers l 1 (n - visited shares k m) (k + m) (leftovers l m n k g) := by
  induction m generalizing n k g with
  | zero => rfl
  | succ m ih =>
    rw [leftovers_succ_start hl, ih, leftovers_succ_start hl m, visited_succ_start, Nat.sub_sub, Nat.add_right_comm k,
      Nat.add_assoc k]

theorem leftovers_length (m n k : Nat) (g : List Nat) : (leftovers l m n k g).length = g.length := by
  induction m with
  | zero => rfl
  | succ m ih => rw [leftovers_succ hl, leftovers_one hl]; split <;> simp [listMod_eq_modify, ih]

/-- Visits after the last unit is given change nothing. -/
theorem leftovers_of_le_visited {m n k : Nat} (h : n ≤ visited shares k m) (r : Nat) (g : List Nat) :
    leftovers l (m + r) n k g = leftovers l m n k g := by
  induction r with
  | zero => rfl
  | succ r ih =>
    have := visited_mono shares k m r
    rw [← Nat.add_assoc, leftovers_succ hl, Nat.sub_eq_zero_of_le (by omega), leftovers_zero, ih]

theorem leftovers_sum (m n k : Nat) {g : List Nat} (hg : g.length = 16) :
    (leftovers l m n k g).sum = g.sum + min n (visited shares k m) := by
  induction m with
  | zero => simp [leftovers]
  | succ m ih =>
    have hlen := leftovers_length hl m n k g
    rw [leftovers_succ hl, leftovers_one hl, visited_succ]
    split
    · next h =>
      obtain ⟨hn, hs⟩ := h
      rw [listMod_succ_sum _ _ (by omega), ih, hs, Bool.toNat_true]
      omega
    · next h =>
      have : shares (Fin.ofNat 16 (k + m)) = true → n ≤ visited shares k m := fun hs =>
        Nat.le_of_sub_eq_zero (by_contra fun hn => h ⟨hn, hs⟩)
      rw [ih]
      cases hs : shares (Fin.ofNat 16 (k + m))
      · rfl
      · rw [Nat.min_eq_left (this hs), Nat.min_eq_left (Nat.le_add_right_of_le (this hs))]

/-- In the first 16 visits island i is met once, and gets a unit where the sharers met before it have left one. -/
theorem leftovers_getD {m : Nat} (hm : m ≤ 16) (n k : Nat) {g : List Nat} (hg : g.length = 16) (i : IslandId) :
    (leftovers l m n k g).getD i.val 0 = g.getD i.val 0 +
      if (i.val + 16 - k % 16) % 16 < m ∧ shares i = true ∧ sharersBefore shares k i < n then 1 else 0 := by
  induction m with
  | zero => simp [leftovers]
  | succ m ih =>
    have ih := ih (by omega)
    have hlen := leftovers_length hl m n k g
    rw [leftovers_succ hl, leftovers_one hl]
    by_cases hi : (i.val + 16 - k % 16) % 16 = m
    · have hmet : Fin.ofNat 16 (k + m) = i := Fin.ext (by simp only [Fin.ofNat]; omega)
      rw [sharersBefore_eq_visited, hi, hmet]
      rw [sharersBefore_eq_visited, hi] at ih
      by_cases h : shares i = true ∧ visited shares k m < n
      · obtain ⟨hs, hn⟩ := h
        rw [if_pos ⟨by omega, hs⟩, listMod_succ_getD _ _ _ (by omega), ih]
        simp [hs, hn]
      · rw [if_neg (by rintro ⟨hn, hs⟩; exact h ⟨hs, by omega⟩), ih]
        simp [h]
    · have hmet : (Fin.ofNat 16 (k + m)).val ≠ i.val := by simp only [Fin.ofNat]; omega
      have hlt : (i.val + 16 - k % 16) % 16 < m + 1 ↔ (i.val + 16 - k % 16) % 16 < m := by omega
      simp only [hlt, ← ih]
      split
      · rw [listMod_succ_getD _ _ _ (by omega), if_neg hmet, Nat.add_zero]
      · rfl

end

/-- 04 R101, step 3: c units to each island of its own, r units by weight, and the units left by the floors one each to
the islands of a weight, from island k on and around: together all units are given. -/
theorem leftovers_floorShare {l : List Nat} {shares : IslandId → Bool} {c w : IslandId → Nat} {r a : Nat} (k : Nat)
    (hl : ∀ i : IslandId, l.contains i.val = shares i) (hs : ∀ i, shares i = true ↔ w i ≠ 0)
    (hW : islandSum w ≠ 0) (ha : islandSum c + r = a) :
    let left := a - islandSum (floorShare c w r)
    let g := leftovers l (16 * (left + 1)) left k ((List.finRange 16).map (floorShare c w r))
    (islandSum fun i => g.getD i.val 0) = a ∧
      ∀ i : IslandId, g.getD i.val 0 =
        floorShare c w r i + if shares i = true ∧ sharersBefore shares k i < left then 1 else 0 := by
  intro left g
  have hle := islandSum_floorShare_le c w r hW
  have hge := le_islandSum_floorShare_add_sharers c w shares r hW hs
  have hleft : left ≤ visited shares k 16 := by rw [visited_around]; omega
  have hlen : ((List.finRange 16).map (floorShare c w r)).length = 16 := by simp
  have hg : g = leftovers l 16 left k ((List.finRange 16).map (floorShare c w r)) := by
    rw [← leftovers_of_le_visited hl hleft (16 * left), Nat.add_comm, ← Nat.mul_succ]
  constructor
  · rw [hg, islandSum_getD (by rw [leftovers_length hl, hlen]), leftovers_sum hl _ _ _ hlen, Nat.min_eq_left hleft]
    change islandSum (floorShare c w r) + left = a
    omega
  · intro i
    rw [hg, leftovers_getD hl le_rfl _ _ hlen, map_finRange_getD]
    simp [Nat.mod_lt]

/-! ### The grants of a state -/

/-- An island's grant in BU, where it is fixed (04 R101). -/
def fixOf (s : State) (i : IslandId) : Nat := (getIsland s i).gfix.toNat
/-- The weight with which an island shares what the fixed islands leave: none where it is fixed itself (04 R101). -/
def freeWeight (s : State) (i : IslandId) : Nat := if fixOf s i = 0 then (getIsland s i).weight.toNat else 0

/-- The islands that share what the fixed islands leave. -/
def sharesFree (s : State) (i : IslandId) : Bool := decide (fixOf s i = 0 ∧ (getIsland s i).weight.toNat ≠ 0)

theorem sharesFree_iff (s : State) (i : IslandId) : sharesFree s i = true ↔ freeWeight s i ≠ 0 := by
  by_cases h : fixOf s i = 0 <;> simp [sharesFree, freeWeight, h]

theorem total_fix (s : State) :
    total ((List.range 16).map fun i => (getIsland s (Fin.ofNat 16 i)).gfix.toNat) = islandSum (fixOf s) :=
  total_map_range (fixOf s)

theorem total_freeWeight (s : State) :
    total (((List.range 16).filter fun i => (getIsland s (Fin.ofNat 16 i)).gfix.toNat == 0).map
      fun i => (getIsland s (Fin.ofNat 16 i)).weight.toNat) = islandSum (freeWeight s) := by
  rw [total_map_filter_range (fun i => (getIsland s i).gfix.toNat == 0) fun i => (getIsland s i).weight.toNat]
  simp only [beq_iff_eq]
  rfl

/-- Fixed islands that fit, and no weight: the fixed grants alone. -/
theorem grants_of_no_weight (s : State) {a : Nat} (k : Nat) (hfit : islandSum (fixOf s) ≤ a)
    (hw : islandSum (freeWeight s) = 0) : grants s a k = (List.finRange 16).map (fixOf s) := by
  rw [← map_range_ofNat]
  simp only [grants, total_fix, total_freeWeight, hfit, hw, if_true, leftovers_zero]
  refine List.map_congr_left fun i _ => ?_
  by_cases h : (getIsland s (Fin.ofNat 16 i)).gfix.toNat = 0 <;> simp [-Fin.ofNat_eq_cast, fixOf, h]

theorem floorShare_freeWeight (s : State) (r : Nat) :
    floorShare (fixOf s) (freeWeight s) r = fun i =>
      if fixOf s i = 0 then r * (getIsland s i).weight.toNat / islandSum (freeWeight s) else fixOf s i := by
  funext i
  by_cases h : fixOf s i = 0 <;> simp [floorShare, freeWeight, h]

theorem floorShare_zero (w : IslandId → Nat) (r : Nat) :
    floorShare (fun _ => 0) w r = fun i => r * w i / islandSum w := funext fun _ => Nat.zero_add _

/-- Fixed islands that fit: they get their grants, and the others share the rest by weight. -/
theorem grants_of_fit (s : State) {a : Nat} (k : Nat) (hfit : islandSum (fixOf s) ≤ a)
    (hw : islandSum (freeWeight s) ≠ 0) :
    let base := floorShare (fixOf s) (freeWeight s) (a - islandSum (fixOf s))
    (islandSum fun i => (grants s a k).getD i.val 0) = a ∧ ∀ i : IslandId, (grants s a k).getD i.val 0 =
      base i + if sharesFree s i = true ∧ sharersBefore (sharesFree s) k i < a - islandSum base then 1 else 0 := by
  intro base
  have hshare : ∀ i : Nat, (if (getIsland s (Fin.ofNat 16 i)).gfix.toNat != 0 then
        (getIsland s (Fin.ofNat 16 i)).gfix.toNat
      else (a - islandSum (fixOf s)) * (getIsland s (Fin.ofNat 16 i)).weight.toNat / islandSum (freeWeight s)) =
      base (Fin.ofNat 16 i) := fun i => by
    simp only [base, floorShare_freeWeight]
    by_cases h : (getIsland s (Fin.ofNat 16 i)).gfix.toNat = 0 <;> simp [-Fin.ofNat_eq_cast, fixOf, h]
  have hg : grants s a k = leftovers
      (((List.range 16).filter fun i => (getIsland s (Fin.ofNat 16 i)).gfix.toNat == 0).filter fun i =>
        (getIsland s (Fin.ofNat 16 i)).weight.toNat != 0) (16 * (a - islandSum base + 1)) (a - islandSum base) k
      ((List.finRange 16).map base) := by
    simp only [grants, total_fix, total_freeWeight, hfit, hw, if_true, if_false, hshare, map_range_ofNat,
      total_map_finRange]
  rw [hg]
  refine leftovers_floorShare k (fun i => ?_) (sharesFree_iff s) hw (Nat.add_sub_of_le hfit)
  rw [Bool.eq_iff_iff]
  simp [sharesFree, fixOf, and_comm]

/-- Fixed islands that do not fit: they share all units by their grants. -/
theorem grants_of_not_fit (s : State) {a : Nat} (k : Nat) (hfit : a < islandSum (fixOf s)) :
    let base := floorShare (fun _ => 0) (fixOf s) a
    let shares := fun i => decide (fixOf s i ≠ 0)
    (islandSum fun i => (grants s a k).getD i.val 0) = a ∧ ∀ i : IslandId, (grants s a k).getD i.val 0 =
      base i + if shares i = true ∧ sharersBefore shares k i < a - islandSum base then 1 else 0 := by
  intro base shares
  have hshare : ∀ i : Nat, a * (getIsland s (Fin.ofNat 16 i)).gfix.toNat / islandSum (fixOf s) =
      base (Fin.ofNat 16 i) := fun i => by
    simp only [base, floorShare_zero, fixOf]
  have hg : grants s a k = leftovers ((List.range 16).filter fun i => (getIsland s (Fin.ofNat 16 i)).gfix.toNat != 0)
      (16 * (a - islandSum base + 1)) (a - islandSum base) k ((List.finRange 16).map base) := by
    simp only [grants, total_fix, Nat.not_le.mpr hfit, if_false, hshare, map_range_ofNat, total_map_finRange]
  rw [hg]
  refine leftovers_floorShare k (fun i => ?_) (fun i => decide_eq_true_iff) (by omega) (by simp [islandSum])
  rw [Bool.eq_iff_iff]
  simp only [List.contains_eq_mem, decide_eq_true_eq, List.mem_filter, List.mem_range, i.isLt, true_and,
    Fin.ofNat_val_eq_self, bne_iff_ne]
  exact decide_eq_true_iff.symm

/-! ### What keeps the governor and the grants -/

/-- The governor and the grants of the islands. -/
def budgetOf (s : State) : Governor × (IslandId → Nat) := (s.gov, fun i => (getIsland s i).grant)

theorem getIsland_modIsland_of_ne (s : State) {i j : IslandId} (f : Island → Island) (h : j ≠ i) :
    getIsland (modIsland s i f) j = getIsland s j := by
  have : i.val ≠ j.val := fun e => h (Fin.ext e.symm)
  simp [getIsland, modIsland, Vector.get_eq_getElem, this]

/-- A field of an island that f keeps is kept by f on any island. -/
theorem modIsland_keeps {α : Type} (p : Island → α) {f : Island → Island} (s : State) (i j : IslandId)
    (h : ∀ x, p (f x) = p x := by intro _; rfl) : p (getIsland (modIsland s i f) j) = p (getIsland s j) := by
  by_cases e : j = i
  · rw [e, getIsland_modIsland_self, h]
  · rw [getIsland_modIsland_of_ne s f e]

/-- What every step of a fold keeps, the fold keeps. -/
theorem foldl_keeps {α β σ : Type} (p : σ → α) {f : σ → β → σ} (h : ∀ s b, p (f s b) = p s) (l : List β)
    (s : σ) : p (l.foldl f s) = p s := by
  induction l generalizing s with
  | nil => rfl
  | cons b l ih => rw [List.foldl_cons, ih, h]

theorem budgetOf_modIsland {f : Island → Island} (s : State) (i : IslandId)
    (h : ∀ x, (f x).grant = x.grant := by intro _; rfl) : budgetOf (modIsland s i f) = budgetOf s :=
  Prod.ext rfl (funext fun j => modIsland_keeps Island.grant s i j h)

theorem budgetOf_deliverWarn (s : State) (c : CoreId) : budgetOf (deliverWarn s c) = budgetOf s := by
  unfold deliverWarn
  dsimp only
  split
  · rfl
  · split <;> rfl

theorem budgetOf_warnTask (s : State) (c : CoreId) : budgetOf (warnTask s c) = budgetOf s := by
  unfold warnTask
  dsimp only
  split
  · rfl
  · split
    · rfl
    · exact budgetOf_deliverWarn _ c

theorem budgetOf_stepTo (s : State) (i : IslandId) (op : BitVec 4) : budgetOf (stepTo s i op) = budgetOf s :=
  budgetOf_modIsland s i

theorem budgetOf_markDown (s : State) (i : IslandId) (forced : Bool) : budgetOf (markDown s i forced) = budgetOf s :=
  (foldl_keeps budgetOf budgetOf_warnTask (coresOf i) _).trans (budgetOf_modIsland s i)

theorem budgetOf_evaluateThrottle (s : State) (i : IslandId) (t : Nat) (need : Int) (hot warm : Bool) :
    budgetOf (evaluateThrottle s i t need hot warm) = budgetOf s := by
  have hclear := budgetOf_modIsland (f := fun il => { il with downPend := false, downForced := false }) s i
  unfold evaluateThrottle
  dsimp only
  split_ifs <;> simp only [budgetOf_stepTo, budgetOf_markDown, hclear]

theorem budgetOf_countHolds (s : State) : budgetOf (countHolds s) = budgetOf s := rfl

theorem budgetOf_escalate (s : State) (e : Held) : budgetOf (escalate s e) = budgetOf s := by
  unfold escalate
  dsimp only
  split
  · rfl
  · split
    · exact budgetOf_modIsland s _
    · rfl

/-- The boundary step of island i sets its grant, and no other. -/
theorem budgetOf_boundaryStep (s : State) (i : IslandId) (g : Nat) (hot warm : Bool) :
    budgetOf (boundaryStep s i g hot warm) = (s.gov, Function.update (budgetOf s).2 i g) := by
  unfold boundaryStep
  dsimp only
  rw [budgetOf_evaluateThrottle]
  refine Prod.ext rfl (funext fun j => ?_)
  change (getIsland _ j).grant = Function.update (budgetOf s).2 i g j
  by_cases e : j = i
  · rw [e, Function.update_self, getIsland_modIsland_self]
  · rw [Function.update_of_ne e, getIsland_modIsland_of_ne s _ e]
    rfl

/-- The boundary steps of the first n islands. -/
def boundarySteps (s : State) (g : List Nat) (hot warm : BitVec 16) (n : Nat) : State :=
  (List.range n).foldl
    (fun s i => boundaryStep s (Fin.ofNat 16 i) (g.getD i 0) (hot.getLsbD i) (warm.getLsbD i)) s

theorem boundarySteps_succ (s : State) (g : List Nat) (hot warm : BitVec 16) (n : Nat) :
    boundarySteps s g hot warm (n + 1) =
      boundaryStep (boundarySteps s g hot warm n) (Fin.ofNat 16 n) (g.getD n 0) (hot.getLsbD n) (warm.getLsbD n) := by
  simp [boundarySteps, List.range_succ]

theorem boundarySteps_gov (s : State) (g : List Nat) (hot warm : BitVec 16) (n : Nat) :
    (budgetOf (boundarySteps s g hot warm n)).1 = s.gov :=
  foldl_keeps (fun s => (budgetOf s).1) (fun _ _ => by rw [budgetOf_boundaryStep]; rfl) _ s

theorem boundarySteps_grant (s : State) (g : List Nat) (hot warm : BitVec 16) {n : Nat} (hn : n ≤ 16) (i : IslandId)
    (hi : i.val < n) : (budgetOf (boundarySteps s g hot warm n)).2 i = g.getD i.val 0 := by
  induction n with
  | zero => omega
  | succ n ih =>
    have hval : (Fin.ofNat 16 n).val = n := Nat.mod_eq_of_lt hn
    rw [boundarySteps_succ, budgetOf_boundaryStep]
    change Function.update _ _ _ i = _
    by_cases h : i = Fin.ofNat 16 n
    · rw [h, Function.update_self, hval]
    · rw [Function.update_of_ne h]
      have : i.val ≠ n := fun hv => h (Fin.ext (hv.trans hval.symm))
      exact ih (by omega) (by omega)

theorem budgetOf_boundarySteps (s : State) (g : List Nat) (hot warm : BitVec 16) :
    budgetOf (boundarySteps s g hot warm 16) = (s.gov, fun i => g.getD i.val 0) :=
  Prod.ext (boundarySteps_gov s g hot warm 16) (funext fun i => boundarySteps_grant s g hot warm le_rfl i i.isLt)

/-! ### The state whose budget is computed -/

/-- The registers of an island that its grant rests on, and the write of them that waits. -/
def islandRegs (il : Island) : BitVec 8 × BitVec 8 × Option (BitVec 8 × BitVec 8 × BitVec 4 × BitVec 4) :=
  (il.weight, il.gfix, il.newCfg)

/-- What the budget and the grants rest on but the governor: the package, and the registers of the islands. -/
def regsOf (s : State) :
    Package × (IslandId → BitVec 8 × BitVec 8 × Option (BitVec 8 × BitVec 8 × BitVec 4 × BitVec 4)) :=
  (s.pkg, fun i => islandRegs (getIsland s i))

theorem getIsland_map {s t : State} {f : Island → Island} (h : t.islands = s.islands.map f) (i : IslandId) :
    getIsland t i = f (getIsland s i) := by
  simp [getIsland, h, Vector.get_eq_getElem]

/-- A map over the islands that keeps their registers. -/
theorem regsOf_of_map {s t : State} {f : Island → Island} (hp : t.pkg = s.pkg) (h : t.islands = s.islands.map f)
    (hf : ∀ i, islandRegs (f (getIsland s i)) = islandRegs (getIsland s i)) : regsOf t = regsOf s :=
  Prod.ext hp (funext fun i => (congrArg islandRegs (getIsland_map h i)).trans (hf i))

theorem regsOf_eq_iff {s t : State} : regsOf t = regsOf s ↔ t.pkg = s.pkg ∧ ∀ i,
    (getIsland t i).weight = (getIsland s i).weight ∧ (getIsland t i).gfix = (getIsland s i).gfix ∧
      (getIsland t i).newCfg = (getIsland s i).newCfg := by
  simp [regsOf, islandRegs, funext_iff]

theorem islandRegs_meterUnits (il : Island) (n : Nat) : islandRegs (il.meterUnits n) = islandRegs il := by
  induction n generalizing il with
  | zero => rfl
  | succ n ih => exact ih il.meterUnit

theorem regsOf_switchPoint (s : State) (i : IslandId) : regsOf (switchPoint s i) = regsOf s :=
  Prod.ext rfl (funext fun j => modIsland_keeps islandRegs s i j)

theorem regsOf_dropEscalated (s : State) : regsOf (dropEscalated s) = regsOf s :=
  regsOf_of_map rfl rfl fun i => by
    cases (getIsland s i).esc with
    | none => rfl
    | some e => dsimp only; split <;> rfl

theorem gov_switchPoint (s : State) (i : IslandId) : (switchPoint s i).gov = s.gov := rfl
theorem gov_dropEscalated (s : State) : (dropEscalated s).gov = s.gov := rfl

theorem regsOf_takeWrites {s : State} (h : ∀ i, (getIsland s i).newCfg = none) : regsOf (takeWrites s) = regsOf s :=
  regsOf_of_map rfl rfl fun i => by simp only [h]

theorem gov_takeWrites {s : State} (hc : s.gov.newCtl = none) (he : s.gov.newEcost = none) :
    (takeWrites s).gov = s.gov := by
  cases hg : s.gov
  simp only [hg] at hc he
  subst hc he
  simp [takeWrites, hg]

/-- The state with what its meters have reached taken, the decided points standing, and no escalated task that is
gone. -/
def metersTaken (s : State) : State :=
  dropEscalated ((List.range 16).foldl (fun s i => switchPoint s (Fin.ofNat 16 i))
    { s with islands := s.islands.map Island.metered })

theorem regsOf_metersTaken (s : State) : regsOf (metersTaken s) = regsOf s := by
  rw [metersTaken, regsOf_dropEscalated, foldl_keeps regsOf fun _ _ => regsOf_switchPoint ..]
  exact regsOf_of_map rfl rfl fun i => islandRegs_meterUnits _ _

theorem gov_metersTaken (s : State) : (metersTaken s).gov = s.gov := by
  rw [metersTaken, gov_dropEscalated, foldl_keeps State.gov fun _ _ => gov_switchPoint ..]

theorem newCfg_metersTaken {s : State} (h : ∀ i, (getIsland s i).newCfg = none) (i : IslandId) :
    (getIsland (metersTaken s) i).newCfg = none := by
  obtain ⟨-, hregs⟩ := regsOf_eq_iff.mp (regsOf_metersTaken s)
  obtain ⟨-, -, hcfg⟩ := hregs i
  rw [hcfg, h]

/-- The count of what was charged covers the last second (04 R99). -/
def lastSecond (s : State) : State :=
  { s with gov := { s.gov with charged := s.gov.charged.take (1000000 / s.gov.gint) } }

/-- The state whose budget a boundary computes: the next interval has begun. -/
def intervalBegun (s : State) : State := lastSecond (renewNeeds (takeWrites (closeInterval (metersTaken s))))

theorem regsOf_lastSecond (s : State) : regsOf (lastSecond s) = regsOf s := rfl
theorem regsOf_renewNeeds (s : State) : regsOf (renewNeeds s) = regsOf s := regsOf_of_map rfl rfl fun _ => rfl
theorem regsOf_closeInterval (s : State) : regsOf (closeInterval s) = regsOf s := rfl
theorem getIsland_closeInterval (s : State) (i : IslandId) : getIsland (closeInterval s) i = getIsland s i := rfl
theorem gov_renewNeeds (s : State) : (renewNeeds s).gov = s.gov := rfl

theorem gov_closeInterval (s : State) : ∃ charged, (closeInterval s).gov = { s.gov with
    begun := true, epoch := if s.gov.begun then s.gov.epoch + 1 else s.gov.epoch, charged := charged } := by
  refine ⟨(closeInterval s).gov.charged, ?_⟩
  unfold closeInterval
  cases hb : s.gov.begun <;> simp [hb]

theorem regsOf_intervalBegun {s : State} (h : NoWaitingWrites s) : regsOf (intervalBegun s) = regsOf s := by
  obtain ⟨-, -, hcfg⟩ := h
  rw [intervalBegun, regsOf_lastSecond, regsOf_renewNeeds, regsOf_takeWrites, regsOf_closeInterval, regsOf_metersTaken]
  exact fun i => by rw [getIsland_closeInterval, newCfg_metersTaken hcfg]

/-- Of the governor's fields only the count of the interval, and of what was charged, have changed. -/
theorem gov_intervalBegun {s : State} (h : NoWaitingWrites s) :
    ∃ charged, (intervalBegun s).gov = { s.gov with
      begun := true, epoch := if s.gov.begun then s.gov.epoch + 1 else s.gov.epoch, charged := charged } := by
  obtain ⟨hctl, hcost, -⟩ := h
  obtain ⟨charged, hclose⟩ := gov_closeInterval (metersTaken s)
  rw [gov_metersTaken] at hclose
  refine ⟨charged.take (1000000 / s.gov.gint), ?_⟩
  rw [intervalBegun, lastSecond, gov_renewNeeds, gov_takeWrites (by rw [hclose, hctl]) (by rw [hclose, hcost]), hclose]

/-- The state with the card budget of its interval. -/
def withBudget (s : State) : State :=
  { s with gov := { s.gov with cb := (cardBudget s).1, envelope := (cardBudget s).2 } }

/-- The units that the islands share (04 R98). -/
def islandUnits (s : State) : Nat := s.gov.cb - s.gov.hubres.toNat - s.gov.memres.toNat

/-- A boundary in terms of the state whose budget it computes: the islands' steps, the hold counts, and escalations. -/
theorem governorStep_eq (s : State) (hot warm : BitVec 16) :
    let b := withBudget (intervalBegun s)
    ∃ held : List Held, governorStep s hot warm = held.foldl escalate
      (countHolds (boundarySteps b (grants b (islandUnits b) b.gov.epoch.toNat) hot warm 16)) := by
  intro b
  refine ⟨escalationOrder
    (countHolds (boundarySteps b (grants b (islandUnits b) b.gov.epoch.toNat) hot warm 16)), ?_⟩
  unfold b intervalBegun metersTaken governorStep
  dsimp only
  generalize dropEscalated _ = m
  rfl

/-- The governor and the grants that a boundary leaves. -/
theorem budgetOf_governorStep (s : State) (hot warm : BitVec 16) :
    let b := withBudget (intervalBegun s)
    budgetOf (governorStep s hot warm) =
      (b.gov, fun i => (grants b (islandUnits b) b.gov.epoch.toNat).getD i.val 0) := by
  intro b
  obtain ⟨held, hstep⟩ := governorStep_eq s hot warm
  rw [hstep, foldl_keeps budgetOf budgetOf_escalate, budgetOf_countHolds, budgetOf_boundarySteps]

/-- 01 R20: the least of the four terms. -/
theorem leastOf_otherLimits (s : State) : leastOf s.pkg.contract.sustained (otherLimits s) = boardLimit s := by
  cases h : s.pkg.bmcLimit with
  | none => simp [leastOf, otherLimits, boardLimit, h, min_comm, min_left_comm]
  | some bmc => simp [leastOf, otherLimits, boardLimit, h, min_assoc]

theorem cardBudget_of_no_envelope {s : State} (h : s.pkg.contract.envelope ≤ s.pkg.contract.sustained) :
    cardBudget s = (boardLimit s * s.gov.gint / 200, false) := by
  have : envelopeApplies s = false := by simp [envelopeApplies, Nat.not_lt.mpr h]
  simp [cardBudget, this, leastOf_otherLimits]

/-- Settles O49: the governor and the grants of the state after the boundary are those that the budget gave, and each of
the three ways to share it is a case of 04 R101. -/
theorem governorGrantsTheBudget : Obligations.GovernorGrantsTheBudget := by
  unfold Obligations.GovernorGrantsTheBudget
  intro s hot warm hcause hwait
  refine ⟨governorStep s hot warm, by rw [exec_governorBoundary, execGovernorBoundary, if_pos hcause], ?_⟩
  obtain ⟨charged, hgov⟩ := gov_intervalBegun hwait
  obtain ⟨hpkg, hregs⟩ := regsOf_eq_iff.mp (regsOf_intervalBegun hwait)
  have hbudget := budgetOf_governorStep s hot warm
  generalize governorStep s hot warm = t at hbudget ⊢
  generalize intervalBegun s = b at hgov hpkg hregs hbudget
  have htgov : t.gov = (withBudget b).gov := congrArg Prod.fst hbudget
  have hgrant : ∀ i, (getIsland t i).grant =
    (grants (withBudget b) (islandUnits (withBudget b)) (withBudget b).gov.epoch.toNat).getD i.val 0 := fun i =>
    congrFun (congrArg Prod.snd hbudget) i
  have hfix : ∀ i, (getIsland s i).gfix.toNat = fixOf (withBudget b) i := fun i => by
    obtain ⟨-, hgfix, -⟩ := hregs i
    exact congrArg BitVec.toNat hgfix.symm
  have hweight : ∀ i, (getIsland s i).weight = (getIsland (withBudget b) i).weight := fun i => by
    obtain ⟨hweight, -, -⟩ := hregs i
    exact hweight.symm
  have hunits : (withBudget b).gov.cb - s.gov.hubres.toNat - s.gov.memres.toNat = islandUnits (withBudget b) := by
    simp only [islandUnits, withBudget, hgov]
  refine ⟨by simp only [htgov, withBudget, hgov], by simp only [htgov, withBudget, hgov], fun henv => ?_, ?_⟩
  · rw [← hpkg] at henv
    simp only [htgov, withBudget, cardBudget_of_no_envelope henv, boardLimit, hgov, hpkg, and_self]
  · simp only [hfix, hweight, hgrant, htgov, hunits]
    generalize withBudget b = c
    have hfree : ∀ i, (if fixOf c i = 0 then (getIsland c i).weight.toNat else 0) = freeWeight c i := fun _ => rfl
    have hshares : ∀ i, decide (fixOf c i = 0 ∧ (getIsland c i).weight.toNat ≠ 0) = sharesFree c i := fun _ => rfl
    simp only [hfree, hshares]
    refine ⟨fun hfit hw i => ?_, fun hfit hw => ?_, fun hfit => ?_⟩
    · rw [grants_of_no_weight _ _ hfit hw, map_finRange_getD]
    · have h := grants_of_fit c c.gov.epoch.toNat hfit hw
      simpa only [floorShare_freeWeight] using h
    · have h := grants_of_not_fit c c.gov.epoch.toNat hfit
      simpa only [floorShare_zero] using h

end Sys2Proof.Machine
end

section
/-!
PROOFS. The token words and the event words (06 R174; 14 R389, R395). Both act on the task alone, so that each case is
the frame of such a word (Laws/Frame.lean) with the one value or the two values that it writes.
-/
namespace Sys2Proof.Machine

theorem Completes.imp {i : Instr} {s : State} {st : Stream} {pc : Word} {hide : Ctx → Ctx} {post post' : State → Prop}
    (h : Completes i s st pc hide post) (hp : ∀ t, post t → post' t) : Completes i s st pc hide post' := by
  obtain ⟨t, hexec, hmoved, hcycle, hsame, hmem, ht⟩ := h
  exact ⟨t, hexec, hmoved, hcycle, hsame, hmem, hp t ht⟩

/-! ### What a retiring word leaves of the tokens, the queues and the registers -/

theorem tokens_retireAt (s : State) (st : Stream) (pc : Word) (c : Ctx) :
    (curCtx (retireAt (modCur s fun _ => c) st pc)).tokens = c.tokens := by
  rw [curCtx_retireAt]
  cases st <;> rfl

theorem q_retireAt (s : State) (st : Stream) (pc : Word) (c : Ctx) :
    (curCtx (retireAt (modCur s fun _ => c) st pc)).q = c.q := by
  rw [curCtx_retireAt]
  cases st <;> rfl

theorem xGet_retireAt (s : State) (st : Stream) (pc : Word) (c : Ctx) (d : Fin 64) :
    xGet (curCtx (retireAt (modCur s fun _ => c) st pc)) d = xGet c d := by
  rw [curCtx_retireAt, retiredCtx_s_x]

/-- After a word that gave X[d] the value v and then another register the value w. -/
theorem holdsX_retireAt_of_ne (s : State) (st : Stream) (pc : Word) (c : Ctx) {d e : Fin 64} (h : e ≠ d) (v w : Word) :
    HoldsX (retireAt (modCur s fun _ => xSet (xSet c d v) e w) st pc) d v := by
  have hfirst := holdsX_retireAt s st pc c d v
  unfold HoldsX at hfirst ⊢
  rw [xGet_retireAt] at hfirst ⊢
  rw [xGet_xSet, if_neg fun hde => h hde.1.symm, hfirst]

/-! ### Tokens (06 R174; 14 R389) -/

theorem signalToken_of_lt {c : Ctx} {n : Fin 16} (h : (c.tokens.get n).toNat < 255) :
    signalToken c n = .ok { c with tokens := c.tokens.set n.val (c.tokens.get n + 1) n.isLt } :=
  if_neg fun hfull : c.tokens.get n = 255 => by simp [hfull] at h

theorem signalToken_of_full {c : Ctx} {n : Fin 16} (h : (c.tokens.get n).toNat = 255) : signalToken c n = .wait :=
  if_pos (BitVec.eq_of_toNat_eq h)

theorem waitToken_of_pos {c : Ctx} {n : Fin 16} (h : 0 < (c.tokens.get n).toNat) :
    waitToken c n = .ok { c with tokens := c.tokens.set n.val (c.tokens.get n - 1) n.isLt } :=
  if_neg fun hempty : c.tokens.get n = 0 => by simp [hempty] at h

theorem waitToken_of_empty {c : Ctx} {n : Fin 16} (h : (c.tokens.get n).toNat = 0) : waitToken c n = .wait :=
  if_pos (BitVec.eq_of_toNat_eq h)

/-- Hiding token n hides a write of it. -/
theorem hideToken_set (c : Ctx) (n : Fin 16) (v : BitVec 8) :
    hideToken n (blankWord .s { c with tokens := c.tokens.set n.val v n.isLt }) = hideToken n (blankWord .s c) := by
  simp [hideToken, blankWord, modStream, getStream]

/-- A word that gives token n the value v completes. -/
theorem completes_of_setToken {i : Instr} {s : State} {n : Fin 16} {f : Ctx → Res Ctx} {v : BitVec 8}
    (he : exec i s = runCtx .s 4 f s) (hr : runs s = true)
    (hf : f (curCtx s) = .ok { curCtx s with tokens := (curCtx s).tokens.set n.val v n.isLt }) :
    Completes i s .s (after s .s 4) (hideToken n) fun t => (curCtx t).tokens.get n = v :=
  completes_of_runCtx he hr (replayGate_of_ne s .s (by decide)) hf rfl rfl rfl (hideToken_set _ _ _)
    (by rw [tokens_retireAt]; simp [Vector.get_eq_getElem])

theorem tokenWordsCount : TokenWordsCount := by
  intro s hr n
  have hgate := replayGate_of_ne s .s (by decide)
  refine ⟨fun hlt => ?_, fun hpos => ?_, fun hout => ⟨fun hfull => ?_, fun hempty => ?_⟩,
    fun hin => ⟨fun hfull => ?_, fun hempty => ?_⟩⟩
  · refine (completes_of_setToken (exec_tsig n s) hr (signalToken_of_lt hlt)).imp fun t ht => ?_
    rw [ht]
    bv_omega
  · refine (completes_of_setToken (exec_twait n s) hr (waitToken_of_pos hpos)).imp fun t ht => ?_
    rw [ht]
    bv_omega
  · exact waits_of_runCtx (exec_tsig n s) hr hgate (signalToken_of_full hfull) fun _ => hout
  · exact waits_of_runCtx (exec_twait n s) hr hgate (waitToken_of_empty hempty) fun _ => hout
  · exact traps_of_wait (exec_tsig n s) hr (signalToken_of_full hfull) hin
  · exact traps_of_wait (exec_twait n s) hr (waitToken_of_empty hempty) hin

/-! ### Events (14 R395) -/

theorem xSet_xSet_same (c : Ctx) (d : Fin 64) (v w : Word) : xSet (xSet c d v) d w = xSet c d w := by
  by_cases h : d = 0 <;> simp [xSet, h]

theorem xSet_comm (c : Ctx) {d e : Fin 64} (h : e ≠ d) (v w : Word) :
    xSet (xSet c d v) e w = xSet (xSet c e w) d v := by
  have hval : d.val ≠ e.val := fun hde => h (Fin.ext hde.symm)
  by_cases hd : d = 0 <;> by_cases he : e = 0 <;> simp [xSet, hd, he, Vector.set_comm _ _ hval]

theorem blankWord_xSet (c : Ctx) (d : Fin 64) (v : Word) : blankWord .s (xSet c d v) = xSet (blankWord .s c) d v := by
  by_cases h : d = 0 <;> simp [xSet, h, blankWord, modStream, getStream]

theorem modQ_xSet (c : Ctx) (d : Fin 64) (v : Word) (g : Queues → Queues) :
    modQ (xSet c d v) g = xSet (modQ c g) d v := by
  by_cases h : d = 0 <;> simp [xSet, h, modQ]

/-- Hiding X[d] and X[e] hides the writes of both, in whatever order they were made. -/
theorem hideX_hideX_xSet_xSet (c : Ctx) (d e : Fin 64) (v w : Word) :
    hideX e (hideX d (xSet (xSet c d v) e w)) = hideX e (hideX d c) := by
  unfold hideX
  by_cases h : e = d
  · simp only [h, xSet_xSet_same]
  · rw [xSet_comm _ h v w, xSet_xSet_same, xSet_comm _ h, xSet_xSet_same, xSet_comm _ h]

/-- A word that changes the queues by g and gives X[d] and then X[e] a value completes. -/
theorem completes_of_xPair {i : Instr} {s : State} {d e : Fin 64} {f : Ctx → Res Ctx} {g hideQ : Queues → Queues}
    {v w : Word} (he : exec i s = runCtx .s 4 f s) (hr : runs s = true)
    (hf : f (curCtx s) = .ok (xSet (xSet (modQ (curCtx s) g) d v) e w)) (hq : ∀ q, hideQ (g q) = hideQ q) :
    Completes i s .s (after s .s 4) (fun c => hideX e (hideX d (modQ c hideQ))) fun t =>
      (e ≠ d → HoldsX t d v) ∧ HoldsX t e w ∧ (curCtx t).q = g (curCtx s).q := by
  refine completes_of_runCtx he hr (replayGate_of_ne s .s (by decide)) hf (by simp) (by simp) (by simp) ?_
    ⟨fun h => holdsX_retireAt_of_ne _ _ _ _ h _ _, holdsX_retireAt _ _ _ _ _ _, ?_⟩
  · have hhidden : modQ (blankWord .s (modQ (curCtx s) g)) hideQ = modQ (blankWord .s (curCtx s)) hideQ :=
      congrArg (fun q => { blankWord .s (curCtx s) with q }) (hq _)
    simp only [blankWord_xSet, modQ_xSet, hideX_hideX_xSet_xSet, hhidden]
  · simp [q_retireAt, modQ]

/-- The halves of the oldest record go to X[d] and X[e], whatever the word does without one. -/
theorem popEvent_of_cons {d e : Fin 64} {c : Ctx} {r : QEntry (BitVec 128)} {rest : List (QEntry (BitVec 128))}
    (h : c.q.events = r :: rest) (empty : Res Ctx) :
    popEvent d e c empty = .ok (xSet (xSet (modQ c fun q => { q with events := rest }) d
      (r.val.extractLsb' 0 64)) e (r.val.extractLsb' 64 64)) := by
  have hlow : r.val.setWidth 64 = r.val.extractLsb' 0 64 := BitVec.setWidth_eq_extractLsb' (by decide)
  have hhigh : (r.val >>> 64).setWidth 64 = r.val.extractLsb' 64 64 := BitVec.eq_of_toNat_eq (by simp)
  simp only [popEvent, h, hlow, hhigh]

theorem popEvent_of_nil {d e : Fin 64} {c : Ctx} (h : c.q.events = []) (empty : Res Ctx) :
    popEvent d e c empty = empty := by
  simp only [popEvent, h]

/-- A word that takes the oldest record completes where there is one. -/
theorem completes_of_popEvent {i : Instr} {s : State} {d e : Fin 64} {empty : Ctx → Res Ctx} {r : QEntry (BitVec 128)}
    {rest : List (QEntry (BitVec 128))} (he : exec i s = runCtx .s 4 (fun c => popEvent d e c (empty c)) s)
    (hr : runs s = true) (h : (curCtx s).q.events = r :: rest) :
    Completes i s .s (after s .s 4) (fun c => hideX e (hideX d { c with q := { c.q with events := [] } })) fun t =>
      (e ≠ d → HoldsX t d (r.val.extractLsb' 0 64)) ∧ HoldsX t e (r.val.extractLsb' 64 64) ∧
      (curCtx t).q.events = rest := by
  refine (completes_of_xPair (hideQ := fun q => { q with events := [] }) he hr (popEvent_of_cons h _)
    fun _ => rfl).imp fun t => ?_
  rintro ⟨hlow, hhigh, hqueues⟩
  exact ⟨hlow, hhigh, by rw [hqueues]⟩

theorem eventWordsPopRecords : EventWordsPopRecords := by
  intro s hr d e
  have hgate := replayGate_of_ne s .s (by decide)
  refine ⟨fun i hi r rest hevents => ?_, fun hnone => ?_, fun hnone hout => ?_, fun hnone hin => ?_⟩
  · obtain rfl | rfl := hi
    · exact completes_of_popEvent (exec_evpop d e s) hr hevents
    · exact completes_of_popEvent (empty := fun _ => .wait) (exec_evwait d e s) hr hevents
  · refine (completes_of_xPair (g := id) (hideQ := id) (exec_evpop d e s) hr (popEvent_of_nil hnone _)
      fun _ => rfl).imp fun t => ?_
    rintro ⟨hlow, hhigh, -⟩
    by_cases h : e = d
    · exact ⟨h ▸ hhigh, hhigh⟩
    · exact ⟨hlow h, hhigh⟩
  · exact waits_of_runCtx (exec_evwait d e s) hr hgate (popEvent_of_nil hnone _) fun _ => hout
  · exact traps_of_wait (exec_evwait d e s) hr (popEvent_of_nil hnone _) hin

/-- Settles O6: a token word writes one token, an event word two registers and the event queue. -/
theorem tokensAndEventsAreTaken : Obligations.TokensAndEventsAreTaken :=
  ⟨tokenWordsCount, eventWordsPopRecords⟩

end Sys2Proof.Machine
end

section
/-!
PROOFS. The words that set a predicate (14 R383, R384). Each acts on the task alone and writes one predicate, so that
each is the frame of such a word (Laws/Frame.lean) with the value of its rule.
-/
namespace Sys2Proof.Machine

/-- A word that writes one value to P[d] completes. -/
theorem completes_of_pSet {i : Instr} {s : State} {d : Fin 8} {f : Ctx → Res Ctx} {b : Bool}
    (hr : runs s = true) (he : exec i s = runCtx .s 4 f s) (hf : f (curCtx s) = .ok (pSet (curCtx s) d b)) :
    Completes i s .s (after s .s 4) (hideP d) fun t => HoldsP t d b :=
  completes_of_runCtx he hr (replayGate_of_ne s .s (by decide)) hf (by simp) (by simp) (by simp)
    (hideP_pSet _ _ _ _) (holdsP_retireAt _ _ _ _ _ _)

/-- The conditions that are words compare as 14 R383 says: EQ, NE, LT, GE, LTN and GEN in this order. -/
theorem compareWords_eq_compares {cc : BitVec 3} (h : cc.toNat ≤ 5) (a b : Word) :
    compareWords cc.toNat a b = compares cc a b := by
  unfold compares
  generalize cc.toNat = n at h
  match n with
  | 0 => exact beq_eq_decide a b
  | 1 => exact (congrArg not (beq_eq_decide a b)).trans decide_not.symm
  | 2 => rfl
  | 3 => exact decide_not.symm.trans (decide_eq_decide.2 Int.not_lt)
  | 4 => rfl
  | 5 => exact decide_not.symm.trans (decide_eq_decide.2 Nat.not_lt)

/-- The bit of PLOG's table that two predicates choose, each counted as 1 when true (14 R384). -/
theorem plogIndex_eq (p q : Bool) :
    2 * bitOf p + bitOf q = (if p then 2 else 0) + if q then 1 else 0 := by
  cases p <;> rfl

/-- CMP and CMPI have no fault under a condition that is a word. -/
theorem compareWord_ok {cc : BitVec 3} (h : cc.toNat ≤ 5) (c : Ctx) (p : Fin 8) (a b : Word) :
    (if cc.toNat > 5 then Res.fail .illegalWord else .ok (pSet c p (compareWords cc.toNat a b))) =
      .ok (pSet c p (compares cc a b)) := by
  rw [if_neg (Nat.not_lt.2 h), compareWords_eq_compares h]

/-- Settles O1: each of the three words is one write of a predicate, whose value is the comparison or the bit of the
table. -/
theorem predicateWordsSetTheirPredicate : Obligations.PredicateWordsSetTheirPredicate := by
  intro s hr
  refine ⟨fun p cc a b hcc => ?_, fun p cc a e hcc => ?_, fun d a b table => ?_⟩
  · exact completes_of_pSet hr (exec_cmp p cc a b s) (compareWord_ok hcc _ _ _ _)
  · exact completes_of_pSet hr (exec_cmpi p cc a e s) (compareWord_ok hcc _ _ _ (imm64 e))
  · exact completes_of_pSet hr (exec_plog d a b table s)
      (congrArg (fun n => Res.ok (pSet _ d (table.getLsbD n))) (plogIndex_eq _ _))

end Sys2Proof.Machine
end
